-- ==== Sys2Proof/Word.lean ====
section
/-! DEFINITION. The machine's words and register numbers (R7, R25, R27). Every helper that a test could show wrong
stands under Machine/. -/

namespace Sys2Proof

/-- A 64-bit register or memory word (R25). -/
abbrev Word := BitVec 64

/-- One byte of memory (R7). -/
abbrev Byte := BitVec 8

/-- An x register number, 0 to 31; x0 reads zero (R25). -/
abbrev Reg := BitVec 5

/-- A v register number, 0 to 7 (R27). -/
abbrev VReg := BitVec 3

/-- A vector register's value, 512 bits (R27). -/
abbrev VWord := BitVec 512

end Sys2Proof
end

