-- ==== Sys2Proof/Syntax.lean ====
section
/-! DEFINITION. The abstract syntax: one constructor of Instr for every row of spec/opcode_table.json. The rows with an
encoding carry their operand fields (R32 to R54); the rows without one are the events of the machine and of its
surroundings (95_what_each_step_holds.md), and carry what the event is about as plain data. -/

namespace Sys2Proof

/-! ## Operand kinds -/

/-- Scalar float formats of FP and FMA (R41). -/
inductive FFmt where | s | d | h
  deriving DecidableEq, Repr

/-- Rounding fields (R41): the five modes, and the one fcsr holds. -/
inductive Rm where | rne | rtz | rdn | rup | rmm | dyn
  deriving DecidableEq, Repr

/-- Integer types of FCVT (R43). -/
inductive IntTy where | w | wu | l | lu
  deriving DecidableEq, Repr

/-- Float types of FCVT (R43). -/
inductive CvtTy where | s | d | h | bf
  deriving DecidableEq, Repr

/-- Integer lane types (R44). -/
inductive IType where | b | h | w | d
  deriving DecidableEq, Repr

/-- Float lane types (R44). -/
inductive FType where | h | bf | s | d
  deriving DecidableEq, Repr

/-- Integer conditions of VCMP (R46). -/
inductive ICond where | eq | ne | lt | ge | ltu | geu
  deriving DecidableEq, Repr

/-- VCMP's condition with its lane type (R46). -/
inductive VCmpOp where
  | int (c : ICond) (t : IType)
  | flt (t : FType)
  | fle (t : FType)
  deriving DecidableEq, Repr

/-- Integer operations of VRED (R46). -/
inductive IRed where | add | min | max | and | or | xor
  deriving DecidableEq, Repr

/-- VRED's operation with its lane type (R46). -/
inductive VRedOp where
  | int (o : IRed) (t : IType)
  | fadd (t : FType)
  | fmax (t : FType)
  deriving DecidableEq, Repr

/-- Conversion codes 0 to 15 of VCVT (R264), named destination first. -/
inductive VCvt where
  | hS | sH | bfS | sBf | dS | sD | e4m3S | sE4m3 | e5m2S | sE5m2 | wS | sW | i8S | sI8 | lD | dL
  deriving DecidableEq, Repr

/-- The BX formats (R237). -/
inductive BxFmt where | bx2 | bx4 | bx7
  deriving DecidableEq, Repr

/-- Accumulator select (R28). -/
inductive Acc where | acc0 | acc1
  deriving DecidableEq, Repr

/-- Copy channel select (R47). -/
inductive Chan where | cp0 | cp1
  deriving DecidableEq, Repr

/-- Engine contexts (R17, R118). -/
inductive Eng where | cp0 | cp1 | mx | cl
  deriving DecidableEq, Repr

/-- Halo directions (R49, R152). -/
inductive Dir where | n | e | s | w
  deriving DecidableEq, Repr

/-- REDUCE's operations (R177). -/
inductive RedOp where | add | fadd | min | max
  deriving DecidableEq, Repr

/-- The operations of AMO and RED (R39, R109). -/
inductive AmoOp where | add | and | or | xor | min | max | minu | maxu | swap | cas
  deriving DecidableEq, Repr

/-- The full/empty operations (R187). -/
inductive FeOp where | ldf | ldfe | stf | ste | sete | probe
  deriving DecidableEq, Repr

/-- Access kinds of a translation (R77, R411). -/
inductive Access where | read | write | amo | fullEmpty | codeSource
  deriving DecidableEq, Repr

/-! ## What events carry

A core is its number y × 192 + x (R307), an octet oy × 48 + ox, a partition its number 0 to 63. A place in memory
is a key of the one byte space of Machine/Ops.lean. -/

/-- Who waits for a reply: a context, and the request's serial number. -/
structure Who where
  module : Nat
  core : Nat
  ctx : Nat
  id : Nat
  deriving DecidableEq, Repr

/-- Where the reply of an AMO goes: a context, or a decombining record of a router of a module (R103). -/
inductive ReplyTo where
  | ctx (w : Who)
  | record (module octet idx : Nat)
  deriving DecidableEq, Repr

/-- The sideband of a message or access (R383): origin tag, path of the sending task, and the marks; endpoint is 1 plus the
Ethernet port of the endpoint that passed a message in (R448), 0 for every other message. built marks a message that
hardware built (R480) and is the order it was built in; 0 for every other message. unit: the module and place of the unit
that built it; firing: a firing of a resident has sent it (R345); via: 1 plus the core that has forwarded it (R352) or
refused it (R315), 0 for none. -/
structure Side where
  tag : Word
  path : Word
  engine : Bool
  endpoint : Nat
  built : Nat
  unit : Nat × Nat
  firing : Bool
  via : Nat
  deriving DecidableEq, Repr

/-- The sideband of a message of a core: its tag and path, and whether a firing sends it. -/
def Side.ofCore (tag path : Word) (firing : Bool) : Side := ⟨tag, path, false, 0, 0, (0, 0), firing, 0⟩

/-- The mark of R480. -/
def Side.hardware (x : Side) : Bool := x.built != 0

/-- A message: route word, header word, payload and sideband (R306 to R308, R383). -/
structure Message where
  key : BitVec 16
  launch : Nat
  vn : Nat
  kind : Nat
  module : Nat
  dest : Nat
  cls : BitVec 8
  sy : Nat
  sx : Nat
  smod : Nat
  r : Bool
  s : Bool
  h : Bool
  seq : Nat
  payload : List Word
  side : Side
  deriving DecidableEq, Repr

/-- A load request on its way to its home (class 0x01). -/
structure LoadReq where
  who : Who
  pid : Nat
  module : Nat
  key : Nat
  width : Nat
  pkey : BitVec 16
  deriving DecidableEq, Repr

/-- What a store-buffer entry does at its home (R198, R115, R260), or a channel's access to one line of a unit (R137): its
pieces, none across an 8-byte word, by key, width and value. -/
inductive StoreOp where
  | bytes (key width : Nat) (v : Word)
  | red (key width : Nat) (op : AmoOp) (v : Word)
  | lanes (l : List (Nat × Nat × Word))
  | block (l : List (Nat × Nat × Word))
  deriving DecidableEq, Repr

/-- A store or reduction request on its way to its home (class 0x00); the requester's id names its store-buffer entry. -/
structure StoreReq where
  reply : ReplyTo
  src : Nat
  pid : Nat
  launch : Nat
  module : Nat
  op : StoreOp
  combinable : Bool
  tag : Word
  pkey : BitVec 16
  deriving DecidableEq, Repr

/-- A full/empty request (class 0x03). A deadline of 0 means none (R193). -/
structure FeReq where
  who : Who
  pid : Nat
  launch : Nat
  module : Nat
  key : Nat
  op : FeOp
  data : Word
  deadline : Word
  tag : Word
  pkey : BitVec 16
  deriving DecidableEq, Repr

/-- An AMO request (class 0x04); merged requests answer a record. -/
structure AmoReq where
  reply : ReplyTo
  src : Nat
  pid : Nat
  launch : Nat
  module : Nat
  key : Nat
  op : AmoOp
  w32 : Bool
  b : Word
  c : Word
  combinable : Bool
  tag : Word
  pkey : BitVec 16
  deriving DecidableEq, Repr

/-- What a reply says (classes 0x02 and 0x05); block the values of the pieces of a channel's access (R137). -/
inductive Answer where
  | value (v : Word)
  | block (l : List Word)
  | poisoned
  | timeout
  | cancelled
  | retry
  deriving DecidableEq, Repr

/-- A reply on its way to its requester. -/
structure Reply where
  who : Who
  answer : Answer
  deriving DecidableEq, Repr

/-- A translation being walked (R76): a miss, or with fresh an access that a cached entry denies (R78). ctx is 16 and more for
the engines of the core: cp0, cp1, mx and cl. -/
structure WalkReq where
  core : Nat
  ctx : Nat
  va : Word
  access : Access
  fresh : Bool
  deriving DecidableEq, Repr

/-- An element of an engine's operation: the operation's number and the element's index (R129, R135). -/
structure OpPlace where
  num : Nat
  eidx : Nat
  deriving DecidableEq, Repr

/-- One element of an exchange on its way to its receiver (R172 to R174): module is the sender's, key its partition's. -/
structure Deposit where
  key : BitVec 16
  srcCore : Nat
  op : Nat
  module : Nat
  dstModule : Nat
  dstCore : Nat
  group : Nat
  epoch : Nat
  digest : BitVec 16
  off : Nat
  size : Nat
  v : Word
  deriving DecidableEq, Repr

/-- A multicast delivery (R176). -/
structure Delivery where
  key : BitVec 16
  srcCore : Nat
  op : Nat
  module : Nat
  dstCore : Nat
  off : Nat
  words : List Word
  fe : Bool
  deriving DecidableEq, Repr

/-- A halo push: the cells (offset, value) of one size, and the receiver's counter (R152). -/
structure Push where
  key : BitVec 16
  srcCore : Nat
  op : Nat
  dstCore : Nat
  side : Dir
  size : Nat
  cells : List (Nat × Word)
  deriving DecidableEq, Repr

/-- A reduction partial or result (R178); step is the s of the tree. -/
structure Partial where
  key : BitVec 16
  srcCore : Nat
  srcRank : Nat
  op : Nat
  module : Nat
  dstModule : Nat
  dstCore : Nat
  group : Nat
  step : Nat
  red : RedOp
  w32 : Bool
  off : Nat
  values : List Word
  deriving DecidableEq, Repr

/-- A SPAWN child's result on its way to its join slot (R223). -/
structure JoinDel where
  core : Nat
  off : Nat
  x10 : Word
  x11 : Word
  tag : Word
  launch : Nat
  deriving DecidableEq, Repr

/-- A supervisor notice (R408, R409). -/
structure Notice where
  pid : Nat
  octet : Nat
  kind : Nat
  core : Nat
  words : List Word
  deriving DecidableEq, Repr

/-- What a request to a group entry asks for (R162 to R165). -/
inductive GroupAsk where
  | join (n rank : Nat)
  | leave
  | drainUp
  | drainDown
  | read
  deriving DecidableEq, Repr

/-- A request to the home of a group entry. -/
structure GroupReq where
  who : Who
  pid : Nat
  group : Nat
  ask : GroupAsk
  deriving DecidableEq, Repr

/-- A management command of the host (R457): words 0 to 7. -/
structure Command where
  words : List Word
  deriving DecidableEq, Repr

/-- One command's or endpoint operation's message words as the host wrote them (R448). -/
structure RawMsg where
  words : List Word
  deriving DecidableEq, Repr

/-- How a host's operation reaches an endpoint (R446, R449, R452, R455): by which Ethernet port, whether under the session
that is established, whether it keeps to what the device supports, and whether its packets authenticate under that session. -/
structure HostVia where
  eth : Nat
  session : Bool
  supported : Bool
  authOk : Bool
  deriving DecidableEq, Repr

/-- A host's access to memory as it names what it reaches: how it comes, and the RMA key (R450). -/
structure RmaKey where
  via : HostVia
  key : Word
  deriving DecidableEq, Repr

/-- A group of a partition (R159). -/
structure GroupRef where
  pid : Nat
  group : Nat
  deriving DecidableEq, Repr

/-- A clock of an octet (R425): 0 to 7 those of its cores, 8 the octet clock. -/
structure ClockRef where
  octet : Nat
  clock : Nat
  deriving DecidableEq, Repr

/-- A request that a page be moved (R88), at its source port: who waits for the status, the page, the source frame, the
destination, and the PTE's key and value. -/
structure MoveReq where
  who : Who
  pid : Nat
  va : Word
  src : Nat
  dstModule : Nat
  dst : Nat
  pteKey : Nat
  pteValue : Word
  deriving DecidableEq, Repr

/-- What crosses the fabric (R436): a message, one of the hardware's own remote operations, an answer for a decombining
record (R103), or a step of a page move
(R79 to R88): a line with its words, their tags and poison, the acceptance of one, the request, its status, the switch of
the PTE, and the end. -/
inductive Cargo where
  | msg (core : Nat) (m : Message)
  | load (r : LoadReq)
  | store (r : StoreReq)
  | fe (r : FeReq)
  | feCancel (r : FeReq)
  | amo (r : AmoReq)
  | reply (r : Reply)
  | ack (core id : Nat)
  | split (octet idx : Nat) (a : Answer)
  | deposit (d : Deposit)
  | delivery (d : Delivery)
  | partialRed (p : Partial)
  | result (p : Partial)
  | engAck (pid core op : Nat)
  | depositBack (d : Deposit)
  | partialBack (p : Partial)
  | arrival (key : BitVec 16) (group core : Nat)
  | release (pid : Nat) (key : BitVec 16) (core group bgen : Nat)
  | refusal (core : Nat) (m : Message) (noName : Bool)
  | withdrawal (pid core : Nat) (m : Message)
  | accepted (m : Message)
  | correction (octet name module core : Nat)
  | line (pid port slot key : Nat) (words : List (Word × Bool × Bool))
  | lineDone (port slot : Nat)
  | moveReq (r : MoveReq)
  | moveStatus (r : MoveReq) (status : Nat)
  | pteSwitch (pid key : Nat) (old new : Word)
  | moveEnd (pid : Nat) (va : Word) (src : Nat)
  deriving DecidableEq, Repr

/-- One end-to-end packet between two modules on one network (R442). -/
structure Packet where
  src : Nat
  dst : Nat
  vn : Nat
  num : Nat
  cargo : Cargo
  deriving DecidableEq, Repr

/-- What a received Prosan flit shows (R439, R443, R456): whether FEC could correct it, its CRC and authentication
passed, its tail was stomped, and the packets it holds. -/
structure Flit where
  correctable : Bool
  crcOk : Bool
  authOk : Bool
  stomped : Bool
  packets : List Packet
  deriving DecidableEq, Repr

/-- What fails when an octet leaves retention (R422): nothing, or what the parity check finds. -/
structure RetLoss where
  lost : Bool
  accLost : List (Nat × Acc)
  bufLost : Bool
  bindLost : List Nat
  codeLost : List Nat
  words : List Nat
  deriving DecidableEq, Repr

/-! ## Instructions and events -/

/-- The rows without an encoding, but for ILLEGAL_INSTRUCTION, as the plain data that channels, timers and holds of the
state keep; Machine/Events.lean gives each the meaning of its constructor of Instr. (Lean's compiler cannot build a value
of a constructor beyond number 244, so the state keeps no Instr.) -/
inductive Event where
  | pageTableWalk (w : WalkReq)
  | taskStart (core : Nat)
  | firingStart (core : Nat)
  | messageAcceptance (core : Nat) (m : Message)
  | refused (core : Nat) (m : Message) (noName : Bool)
  | refusedMessageResend (core vn seq : Nat)
  | withdrawal (core module sender vn seq endpoint : Nat)
  | hardwareMessageResend (m : Message)
  | remoteStore (r : StoreReq)
  | remoteLoad (r : LoadReq)
  | loadReply (r : Reply)
  | storeAcknowledgement (core id : Nat)
  | fullEmptyRequest (r : FeReq)
  | fullEmptyResend (r : FeReq)
  | heldEntryTimeout (r : FeReq)
  | fullEmptyCancel (r : FeReq)
  | amoRequest (r : AmoReq)
  | amoReply (r : Reply)
  | decombineSplit (octet idx : Nat) (v : Answer)
  | amoLimitExpiry (w : Who)
  | pageLineCopy (port slot : Nat)
  | copyCommand (m : Message)
  | collectiveCommand (m : Message)
  | matrixCommand (m : Message)
  | channelOperationStart (core : Nat) (h : Chan)
  | channelOperationComplete (core : Nat) (h : Chan) (n : Nat)
  | engineFault (core : Nat) (e : Eng) (kind : Nat) (op : OpPlace)
  | streamRefill (core ctx slot : Nat)
  | haloPush (p : Push)
  | collectiveOperationStart (core : Nat)
  | collectiveOperationComplete (core : Nat)
  | deposit (d : Deposit)
  | depositResend (d : Deposit)
  | multicastDelivery (d : Delivery)
  | reducePartial (p : Partial)
  | partialResend (p : Partial)
  | reduceResult (p : Partial)
  | engineAcknowledgement (core op : Nat)
  | barrierArrival (pid group core : Nat)
  | barrierRelease (core : Nat) (group : GroupRef) (bgen : Nat)
  | matrixCommandStart (octet : Nat) (fill : Bool)
  | matrixCommandComplete (octet : Nat) (fill : Bool) (n : Nat)
  | joinDelivery (j : JoinDel)
  | drainMessagePost (core : Nat)
  | locatorCorrection (octet name : Nat) (module core : Nat)
  | supervisorNotice (n : Notice)
  | noticeResend (n : Notice)
  | swapInstant (pid : Nat)
  | swapControl (coreA coreB : Nat)
  | swapExchange (coreA coreB : Nat)
  | swapExchangeEnd (coreA coreB : Nat)
  | launchRequest (m : Message)
  | launchStart (pid stream : Nat)
  | launchComplete (pid num : Nat)
  | launchEndByFault (pid num cause : Nat) (tval path : Word)
  | ratioWindowEnd (octet : Nat)
  | alarmFire (core ctx slot : Nat)
  | deadlineTrap (core ctx : Nat)
  | waitDeadlineExpiry (core ctx : Nat)
  | waitTargetReached (core ctx : Nat)
  | regulatorRequestChange (octet : Nat)
  | phaseLoss (rail : Nat)
  | supplyEmergency (rail : Nat)
  | emergencyClear (rail : Nat)
  | retentionEntry (octet : Nat)
  | gatingEntry (octet : Nat)
  | octetWake (octet : Nat) (loss : RetLoss)
  | retentionTimedWake (octet : Nat)
  | fltgenAdvance (pid : Nat)
  | fltkill (pid : Nat) (lnum : BitVec 16)
  | mxstatRecover (core : Nat)
  | svlocWrite (pid : Nat) (v : Word)
  | stkcfgWrite (core : Nat) (v : Word)
  | hostepWrite (pid : Nat) (v : Word)
  | resync (k : Command)
  | ctrsel (k : Command)
  | ctrread (k : Command)
  | snaparm (k : Command)
  | snapread (k : Command)
  | snapshotLatch
  | pcreate (k : Command)
  | pdestroy (k : Command)
  | preempt (k : Command)
  | resume (k : Command)
  | brkhalt (k : Command)
  | attest (k : Command)
  | idkey (k : Command)
  | fabricMessageReceive (p : Packet)
  | fabricAcknowledgement (module vn num : Nat)
  | fabricRetransmit (module vn : Nat)
  | prosanFlitReceive (port : Nat) (f : Flit)
  | linkDegrade (port : Nat)
  | linkTraining (port peer : Nat)
  | linkKeyRenewal (port : Nat)
  | hostCommand (pid : Nat) (via : HostVia) (l : List RawMsg)
  | hostClassMessage (m : Message)
  | rmaWrite (pid : Nat) (key : RmaKey) (off : Nat) (data : List Word)
  | rmaRead (pid : Nat) (key : RmaKey) (off words : Nat)
  | sessionStart (pid : Nat) (ct : List Byte)
  | logStallExpiry (pid site : Nat)
  | replayHoldExpiry (pid site : Nat)
  | coldBoot (wallNs : Nat) (image : List (Option (Nat × List Byte)))
  | bootFailureFrame
  | writeQueueEntryFree (port : Nat)
  | groupEntryUpdate (r : GroupReq)
  | logReaderEntry (pid : Nat)
  | supplyChange (clock : ClockRef) (khz : Nat)
  | wallDiscipline (ppm : Int)
  | unknownOp (k : Command)
  deriving DecidableEq, Repr

/-- One constructor for each row of the opcode table. -/
inductive Instr where
  | add (d a b : Reg) -- ADD, R209
  | sub (d a b : Reg) -- SUB, R209
  | and (d a b : Reg) -- AND, R209
  | or (d a b : Reg) -- OR, R209
  | xor (d a b : Reg) -- XOR, R209
  | sll (d a b : Reg) -- SLL, R209
  | srl (d a b : Reg) -- SRL, R209
  | sra (d a b : Reg) -- SRA, R209
  | slt (d a b : Reg) -- SLT, R209
  | sltu (d a b : Reg) -- SLTU, R209
  | min (d a b : Reg) -- MIN, R209
  | max (d a b : Reg) -- MAX, R209
  | minu (d a b : Reg) -- MINU, R209
  | maxu (d a b : Reg) -- MAXU, R209
  | rol (d a b : Reg) -- ROL, R209
  | ror (d a b : Reg) -- ROR, R209
  | andn (d a b : Reg) -- ANDN, R209
  | orn (d a b : Reg) -- ORN, R209
  | xnor (d a b : Reg) -- XNOR, R209
  | addw (d a b : Reg) -- ADDW, R209
  | subw (d a b : Reg) -- SUBW, R209
  | sllw (d a b : Reg) -- SLLW, R209
  | srlw (d a b : Reg) -- SRLW, R209
  | sraw (d a b : Reg) -- SRAW, R209
  | mul (d a b : Reg) -- MUL, R209
  | mulh (d a b : Reg) -- MULH, R209
  | mulhu (d a b : Reg) -- MULHU, R209
  | mulhsu (d a b : Reg) -- MULHSU, R209
  | div (d a b : Reg) -- DIV, R209
  | divu (d a b : Reg) -- DIVU, R209
  | rem (d a b : Reg) -- REM, R209
  | remu (d a b : Reg) -- REMU, R209
  | clz (d a : Reg) -- CLZ, R209
  | ctz (d a : Reg) -- CTZ, R209
  | popc (d a : Reg) -- POPC, R209
  | bswap (d a : Reg) -- BSWAP, R209
  | sextb (d a : Reg) -- SEXTB, R209
  | sexth (d a : Reg) -- SEXTH, R209
  | zextw (d a : Reg) -- ZEXTW, R209
  | addi (d a : Reg) (i : BitVec 15) -- ADDI, R210
  | andi (d a : Reg) (i : BitVec 15) -- ANDI, R210
  | ori (d a : Reg) (i : BitVec 15) -- ORI, R210
  | xori (d a : Reg) (i : BitVec 15) -- XORI, R210
  | slli (d a : Reg) (s : BitVec 6) -- SLLI, R210
  | srli (d a : Reg) (s : BitVec 6) -- SRLI, R210
  | srai (d a : Reg) (s : BitVec 6) -- SRAI, R210
  | slti (d a : Reg) (i : BitVec 15) -- SLTI, R210
  | sltiu (d a : Reg) (i : BitVec 15) -- SLTIU, R210
  | addiw (d a : Reg) (i : BitVec 15) -- ADDIW, R210
  | lui (d : Reg) (i : BitVec 20) -- LUI, R210
  | addpc (d : Reg) (i : BitVec 20) -- ADDPC, R210
  | lca (d a : Reg) (i : BitVec 14) -- LCA, R212
  | addx2 (d a b : Reg) -- ADDX2, R211
  | addx4 (d a b : Reg) -- ADDX4, R211
  | addx8 (d a b : Reg) -- ADDX8, R211
  | lcr (d a b : Reg) -- LCR, R213
  | lcx (d a : Reg) -- LCX, R213
  | beq (a b : Reg) (i : BitVec 12) -- BEQ, R214
  | bne (a b : Reg) (i : BitVec 12) -- BNE, R214
  | blt (a b : Reg) (i : BitVec 12) -- BLT, R214
  | bge (a b : Reg) (i : BitVec 12) -- BGE, R214
  | bltu (a b : Reg) (i : BitVec 12) -- BLTU, R214
  | bgeu (a b : Reg) (i : BitVec 12) -- BGEU, R214
  | bto (i : BitVec 12) -- BTO, R214
  | bnto (i : BitVec 12) -- BNTO, R214
  | jal (d : Reg) (i : BitVec 20) -- JAL, R215
  | jalr (d a : Reg) (i : BitVec 15) -- JALR, R215
  | lb (d a : Reg) (i : BitVec 12) -- LB, R197
  | lh (d a : Reg) (i : BitVec 12) -- LH, R197
  | lw (d a : Reg) (i : BitVec 12) -- LW, R197
  | ld (d a : Reg) (i : BitVec 12) -- LD, R197
  | lbu (d a : Reg) (i : BitVec 12) -- LBU, R197
  | lhu (d a : Reg) (i : BitVec 12) -- LHU, R197
  | lwu (d a : Reg) (i : BitVec 12) -- LWU, R197
  | sb (d a : Reg) (i : BitVec 12) -- SB, R198
  | sh (d a : Reg) (i : BitVec 12) -- SH, R198
  | sw (d a : Reg) (i : BitVec 12) -- SW, R198
  | sd (d a : Reg) (i : BitVec 12) -- SD, R198
  | ldacq (d a : Reg) (i : BitVec 12) -- LDACQ, R200
  | ldf (d a : Reg) (o : BitVec 7) (b : Reg) -- LDF, R202
  | ldfe (d a : Reg) (o : BitVec 7) (b : Reg) -- LDFE, R202
  | probe (d a : Reg) (i : BitVec 12) -- PROBE, R202
  | sdrel (d a : Reg) (i : BitVec 12) -- SDREL, R200
  | ste (d a : Reg) (i : BitVec 12) -- STE, R202
  | stf (d a : Reg) (o : BitVec 7) (b : Reg) -- STF, R202
  | sete (a : Reg) (i : BitVec 12) -- SETE, R202
  | amoadd (w : Bool) (d a b : Reg) -- AMOADD, R110
  | amoand (w : Bool) (d a b : Reg) -- AMOAND, R110
  | amoor (w : Bool) (d a b : Reg) -- AMOOR, R110
  | amoxor (w : Bool) (d a b : Reg) -- AMOXOR, R110
  | amomin (w : Bool) (d a b : Reg) -- AMOMIN, R110
  | amomax (w : Bool) (d a b : Reg) -- AMOMAX, R110
  | amominu (w : Bool) (d a b : Reg) -- AMOMINU, R110
  | amomaxu (w : Bool) (d a b : Reg) -- AMOMAXU, R110
  | amoswap (w : Bool) (d a b : Reg) -- AMOSWAP, R110
  | amocas (w : Bool) (d a b c : Reg) -- AMOCAS, R110
  | redadd (w : Bool) (a b : Reg) -- REDADD, R115
  | redand (w : Bool) (a b : Reg) -- REDAND, R115
  | redor (w : Bool) (a b : Reg) -- REDOR, R115
  | redxor (w : Bool) (a b : Reg) -- REDXOR, R115
  | redmin (w : Bool) (a b : Reg) -- REDMIN, R115
  | redmax (w : Bool) (a b : Reg) -- REDMAX, R115
  | redminu (w : Bool) (a b : Reg) -- REDMINU, R115
  | redmaxu (w : Bool) (a b : Reg) -- REDMAXU, R115
  | fence (p s : BitVec 8) -- FENCE, R303
  | fadd (f : FFmt) (r : Rm) (d a b : Reg) -- FADD, R252
  | fsub (f : FFmt) (r : Rm) (d a b : Reg) -- FSUB, R252
  | fmul (f : FFmt) (r : Rm) (d a b : Reg) -- FMUL, R252
  | fdiv (f : FFmt) (r : Rm) (d a b : Reg) -- FDIV, R252
  | fsqrt (f : FFmt) (r : Rm) (d a : Reg) -- FSQRT, R252
  | fmin (f : FFmt) (d a b : Reg) -- FMIN, R252
  | fmax (f : FFmt) (d a b : Reg) -- FMAX, R252
  | fsgcpy (f : FFmt) (d a b : Reg) -- FSGCPY, R252
  | fsgneg (f : FFmt) (d a b : Reg) -- FSGNEG, R252
  | fsgxor (f : FFmt) (d a b : Reg) -- FSGXOR, R252
  | feq (f : FFmt) (d a b : Reg) -- FEQ, R252
  | flt (f : FFmt) (d a b : Reg) -- FLT, R252
  | fle (f : FFmt) (d a b : Reg) -- FLE, R252
  | fclass (f : FFmt) (d a : Reg) -- FCLASS, R252
  | frcpe (f : FFmt) (d a : Reg) -- FRCPE, R255
  | frsqe (f : FFmt) (d a : Reg) -- FRSQE, R256
  | fma (f : FFmt) (d a b c : Reg) -- FMA, R253
  | fms (f : FFmt) (d a b c : Reg) -- FMS, R253
  | fnma (f : FFmt) (d a b c : Reg) -- FNMA, R253
  | fnms (f : FFmt) (d a b c : Reg) -- FNMS, R253
  | fcvtI (r : Rm) (s : CvtTy) (t : IntTy) (d a : Reg) -- FCVT_I, R254
  | fcvtF (r : Rm) (s : IntTy) (t : CvtTy) (d a : Reg) -- FCVT_F, R254
  | fcvtFf (r : Rm) (s t : CvtTy) (d a : Reg) -- FCVT_FF, R254
  | vadd (t : IType) (d a b : VReg) -- VADD, R258
  | vsub (t : IType) (d a b : VReg) -- VSUB, R258
  | vmul (t : IType) (d a b : VReg) -- VMUL, R258
  | vand (t : IType) (d a b : VReg) -- VAND, R258
  | vor (t : IType) (d a b : VReg) -- VOR, R258
  | vxor (t : IType) (d a b : VReg) -- VXOR, R258
  | vsll (t : IType) (d a b : VReg) -- VSLL, R258
  | vsrl (t : IType) (d a b : VReg) -- VSRL, R258
  | vsra (t : IType) (d a b : VReg) -- VSRA, R258
  | vfadd (t : FType) (d a b : VReg) -- VFADD, R258
  | vfsub (t : FType) (d a b : VReg) -- VFSUB, R258
  | vfmul (t : FType) (d a b : VReg) -- VFMUL, R258
  | vfdiv (t : FType) (d a b : VReg) -- VFDIV, R258
  | vfmin (t : FType) (d a b : VReg) -- VFMIN, R258
  | vfmax (t : FType) (d a b : VReg) -- VFMAX, R258
  | vrcpe (d a : VReg) -- VRCPE, R258
  | vrsqe (d a : VReg) -- VRSQE, R258
  | vfma (t : FType) (d a b c : VReg) -- VFMA, R258
  | vfnma (t : FType) (d a b c : VReg) -- VFNMA, R258
  | vld (d : VReg) (a : Reg) (i : BitVec 12) -- VLD, R259
  | vst (d : VReg) (a : Reg) (i : BitVec 12) -- VST, R259
  | vlds (d : VReg) (a : Reg) (i : BitVec 12) -- VLDS, R259
  | vsts (d : VReg) (a : Reg) (i : BitVec 12) -- VSTS, R259
  | vgath (d : VReg) (a : Reg) (v : VReg) -- VGATH, R259
  | vscat (d : VReg) (a : Reg) (v : VReg) -- VSCAT, R259
  | vbcast (t : IType) (d : VReg) (a : Reg) -- VBCAST, R262
  | vext (t : IType) (d : Reg) (a : VReg) (b : Reg) -- VEXT, R262
  | vins (t : IType) (d : VReg) (a b : Reg) -- VINS, R262
  | vsel (t : IType) (d a b : VReg) -- VSEL, R262
  | vcmp (o : VCmpOp) (d a b : VReg) -- VCMP, R262
  | vred (o : VRedOp) (d : Reg) (a : VReg) -- VRED, R263
  | vperm (t : IType) (d a b : VReg) -- VPERM, R262
  | vcvt (k : VCvt) (d a : VReg) -- VCVT, R264
  | vpack (m : BxFmt) (d a : VReg) -- VPACK, R265
  | vunpk (m : BxFmt) (d a : VReg) -- VUNPK, R265
  | mma (n : Acc) (d a b c : Reg) -- MMA, R286
  | accz (n : Acc) (d : Reg) -- ACCZ, R287
  | accld (n : Acc) (d a : Reg) -- ACCLD, R287
  | accst (n : Acc) (d a : Reg) -- ACCST, R287
  | accmv (n : Acc) (d : Reg) -- ACCMV, R287
  | wbld (d a b c : Reg) -- WBLD, R288
  | shpchk (d a : Reg) -- SHPCHK, R140
  | cpyin (h : Chan) (d a b c : Reg) -- CPYIN, R141
  | cpyout (h : Chan) (d a b c : Reg) -- CPYOUT, R141
  | cpyll (h : Chan) (d a b c : Reg) -- CPYLL, R142
  | cstat (h : Chan) (d : Reg) -- CSTAT, R143
  | sbind (q : BitVec 2) (a : Reg) -- SBIND, R149
  | sunb (q : BitVec 2) -- SUNB, R149
  | qcnt (d : Reg) (q : BitVec 2) -- QCNT, R149
  | sbindV (q : BitVec 1) (a : Reg) -- SBIND_V, R149
  | sunbV (q : BitVec 1) -- SUNB_V, R149
  | qcntV (d : Reg) (q : BitVec 1) -- QCNT_V, R149
  | xchg (d a b : Reg) -- XCHG, R173
  | mcast (n : Bool) (d a b c : Reg) -- MCAST, R176
  | mcastWin (n : Bool) (d a b c : Reg) -- MCAST_WIN, R176
  | reduce (o : RedOp) (d a b c : Reg) -- REDUCE, R177
  | halo (d a b : Reg) -- HALO, R154
  | gjoin (d a b : Reg) -- GJOIN, R163
  | gleave (d a : Reg) -- GLEAVE, R164
  | gbar (a b : Reg) -- GBAR, R168
  | garr (d a : Reg) -- GARR, R168
  | gwait (a b : Reg) -- GWAIT, R168
  | ginfo (d a b : Reg) -- GINFO, R165
  | cwait (e : Eng) (a b : Reg) -- CWAIT, R144
  | hwait (e : Dir) (a b : Reg) -- HWAIT, R155
  | waitc (a : Reg) -- WAITC, R362
  | waitw (a b : Reg) -- WAITW, R362
  | waita (d b : Reg) -- WAITA, R362
  | send (a b : Reg) (k : BitVec 8) -- SEND, R335
  | sendr (a b : Reg) (k : BitVec 8) -- SENDR, R335
  | spawn (d a : Reg) (k : BitVec 8) -- SPAWN, R336
  | join (d a b : Reg) -- JOIN, R337
  | bind (d a b : Reg) -- BIND, R338
  | unbind (d a : Reg) -- UNBIND, R338
  | reside (d a b : Reg) -- RESIDE, R339
  | rule (d a b : Reg) -- RULE, R340
  | codeld (d a b : Reg) -- CODELD, R341
  | rdcyc (d : Reg) -- RDCYC, R368
  | rdwall (d : Reg) -- RDWALL, R368
  | alc (s : BitVec 1) (a : Reg) -- ALC, R364
  | alw (s : BitVec 1) (a : Reg) -- ALW, R364
  | alx (s : BitVec 1) -- ALX, R364
  | dlarm (a : Reg) -- DLARM, R366
  | dlclr -- DLCLR, R366
  | crr (d : Reg) (n : BitVec 12) -- CRR, R217
  | crw (n : BitVec 12) (a : Reg) -- CRW, R217
  | crs (d : Reg) (n : BitVec 12) (a : Reg) -- CRS, R217
  | crc (d : Reg) (n : BitVec 12) (a : Reg) -- CRC, R217
  | trap (i : BitVec 6) -- TRAP, R219
  | tret -- TRET, R220
  | brk (i : BitVec 6) -- BREAK, R219
  | taskDone -- DONE, R222
  | yieldCtx -- YIELD, R221
  | tlbinv (a b : Reg) -- TLBINV, R86
  | pgmove (d a b : Reg) -- PGMOVE, R88
  | swapok (a : Reg) -- SWAPOK, R356
  | dpoint (d a : Reg) -- DPOINT, R399
  | rddig (d a : Reg) -- RDDIG, R400
  | hAddi (a : Reg) (i : BitVec 6) -- H_ADDI, R54
  | hSeti (a : Reg) (i : BitVec 6) -- H_SETI, R54
  | hCopy (a b : Reg) -- H_COPY, R54
  | hAdd (a b : Reg) -- H_ADD, R54
  | hSub (a b : Reg) -- H_SUB, R54
  | hAnd (a b : Reg) -- H_AND, R54
  | hShl (a : Reg) (s : BitVec 6) -- H_SHL, R54
  | hShr (a : Reg) (s : BitVec 6) -- H_SHR, R54
  | hLds (a : Reg) (o : BitVec 6) -- H_LDS, R54
  | hSds (a : Reg) (o : BitVec 6) -- H_SDS, R54
  | hBz (a : Reg) (i : BitVec 6) -- H_BZ, R54
  | hBnz (a : Reg) (i : BitVec 6) -- H_BNZ, R54
  | hJmp (i : BitVec 11) -- H_JMP, R54
  | hJreg (a : Reg) -- H_JREG, R54
  | hCallr (a : Reg) -- H_CALLR, R54
  | hDone -- H_DONE, R54
  | pageTableWalk (w : WalkReq) -- PAGE_TABLE_WALK, R76
  | taskStart (core : Nat) -- TASK_START, R321
  | firingStart (core : Nat) -- FIRING_START, R326
  | messageAcceptance (core : Nat) (m : Message) -- MESSAGE_ACCEPTANCE, R312
  | refused (core : Nat) (m : Message) (noName : Bool) -- REFUSED, R315
  | refusedMessageResend (core vn seq : Nat) -- REFUSED_MESSAGE_RESEND, R315
  | withdrawal (core module sender vn seq endpoint : Nat) -- WITHDRAWAL, R315
  | hardwareMessageResend (m : Message) -- HARDWARE_MESSAGE_RESEND, R480
  | remoteStore (r : StoreReq) -- REMOTE_STORE, R90
  | remoteLoad (r : LoadReq) -- REMOTE_LOAD, R197
  | loadReply (r : Reply) -- LOAD_REPLY, R197
  | storeAcknowledgement (core id : Nat) -- STORE_ACKNOWLEDGEMENT, R294
  | fullEmptyRequest (r : FeReq) -- FULL_EMPTY_REQUEST, R202
  | fullEmptyResend (r : FeReq) -- FULL_EMPTY_RESEND, R192
  | heldEntryTimeout (r : FeReq) -- HELD_ENTRY_TIMEOUT, R193
  | fullEmptyCancel (r : FeReq) -- FULL_EMPTY_CANCEL, R194
  | amoRequest (r : AmoReq) -- AMO_REQUEST, R110
  | amoReply (r : Reply) -- AMO_REPLY, R110
  | decombineSplit (octet idx : Nat) (v : Answer) -- DECOMBINE_SPLIT, R103
  | amoLimitExpiry (w : Who) -- AMO_LIMIT_EXPIRY, R106
  | pageLineCopy (port slot : Nat) -- PAGE_LINE_COPY, R80
  | copyCommand (m : Message) -- COPY_COMMAND, R122
  | collectiveCommand (m : Message) -- COLLECTIVE_COMMAND, R157
  | matrixCommand (m : Message) -- MATRIX_COMMAND, R157
  | channelOperationStart (core : Nat) (h : Chan) -- CHANNEL_OPERATION_START, R118
  | channelOperationComplete (core : Nat) (h : Chan) (n : Nat) -- CHANNEL_OPERATION_COMPLETE, R119
  | engineFault (core : Nat) (e : Eng) (kind : Nat) (op : OpPlace) -- ENGINE_FAULT, R135
  | streamRefill (core ctx slot : Nat) -- STREAM_REFILL, R147
  | haloPush (p : Push) -- HALO_PUSH, R153
  | collectiveOperationStart (core : Nat) -- COLLECTIVE_OPERATION_START, R156
  | collectiveOperationComplete (core : Nat) -- COLLECTIVE_OPERATION_COMPLETE, R173
  | deposit (d : Deposit) -- DEPOSIT, R174
  | depositResend (d : Deposit) -- DEPOSIT_RESEND, R174
  | multicastDelivery (d : Delivery) -- MULTICAST_DELIVERY, R176
  | reducePartial (p : Partial) -- REDUCE_PARTIAL, R178
  | partialResend (p : Partial) -- PARTIAL_RESEND, R158
  | reduceResult (p : Partial) -- REDUCE_RESULT, R178
  | engineAcknowledgement (core op : Nat) -- ENGINE_ACKNOWLEDGEMENT, R156
  | barrierArrival (pid group core : Nat) -- BARRIER_ARRIVAL, R166
  | barrierRelease (core : Nat) (group : GroupRef) (bgen : Nat) -- BARRIER_RELEASE, R166
  | matrixCommandStart (octet : Nat) (fill : Bool) -- MATRIX_COMMAND_START, R270
  | matrixCommandComplete (octet : Nat) (fill : Bool) (n : Nat) -- MATRIX_COMMAND_COMPLETE, R282
  | joinDelivery (j : JoinDel) -- JOIN_DELIVERY, R223
  | drainMessagePost (core : Nat) -- DRAIN_MESSAGE_POST, R317
  | locatorCorrection (octet name : Nat) (module core : Nat) -- LOCATOR_CORRECTION, R352
  | supervisorNotice (n : Notice) -- SUPERVISOR_NOTICE, R408
  | noticeResend (n : Notice) -- NOTICE_RESEND, R408
  | swapInstant (pid : Nat) -- SWAP_INSTANT, R346
  | swapControl (coreA coreB : Nat) -- SWAP_CONTROL, R348
  | swapExchange (coreA coreB : Nat) -- SWAP_EXCHANGE, R349
  | swapExchangeEnd (coreA coreB : Nat) -- SWAP_EXCHANGE_END, R351
  | launchRequest (m : Message) -- LAUNCH_REQUEST, R328
  | launchStart (pid stream : Nat) -- LAUNCH_START, R329
  | launchComplete (pid num : Nat) -- LAUNCH_COMPLETE, R330
  | launchEndByFault (pid num cause : Nat) (tval path : Word) -- LAUNCH_END_BY_FAULT, R330
  | ratioWindowEnd (octet : Nat) -- RATIO_WINDOW_END, R359
  | alarmFire (core ctx slot : Nat) -- ALARM_FIRE, R364
  | deadlineTrap (core ctx : Nat) -- DEADLINE_TRAP, R366
  | waitDeadlineExpiry (core ctx : Nat) -- WAIT_DEADLINE_EXPIRY, R370
  | waitTargetReached (core ctx : Nat) -- WAIT_TARGET_REACHED, R362
  | regulatorRequestChange (octet : Nat) -- REGULATOR_REQUEST_CHANGE, R427
  | phaseLoss (rail : Nat) -- PHASE_LOSS, R429
  | supplyEmergency (rail : Nat) -- SUPPLY_EMERGENCY, R430
  | emergencyClear (rail : Nat) -- EMERGENCY_CLEAR, R430
  | retentionEntry (octet : Nat) -- RETENTION_ENTRY, R431
  | gatingEntry (octet : Nat) -- GATING_ENTRY, R431
  | octetWake (octet : Nat) (loss : RetLoss) -- OCTET_WAKE, R433
  | retentionTimedWake (octet : Nat) -- RETENTION_TIMED_WAKE, R373
  | fltgenAdvance (pid : Nat) -- FLTGEN_ADVANCE, R414
  | fltkill (pid : Nat) (lnum : BitVec 16) -- FLTKILL, R415
  | mxstatRecover (core : Nat) -- MXSTAT_RECOVER, R271
  | svlocWrite (pid : Nat) (v : Word) -- SVLOC_WRITE, R407
  | stkcfgWrite (core : Nat) (v : Word) -- STKCFG_WRITE, R321
  | hostepWrite (pid : Nat) (v : Word) -- HOSTEP_WRITE, R447
  | resync (k : Command) -- RESYNC, R459
  | ctrsel (k : Command) -- CTRSEL, R460
  | ctrread (k : Command) -- CTRREAD, R460
  | snaparm (k : Command) -- SNAPARM, R462
  | snapread (k : Command) -- SNAPREAD, R462
  | snapshotLatch -- SNAPSHOT_LATCH, R462
  | pcreate (k : Command) -- PCREATE, R457
  | pdestroy (k : Command) -- PDESTROY, R457
  | preempt (k : Command) -- PREEMPT, R418
  | resume (k : Command) -- RESUME, R421
  | brkhalt (k : Command) -- BRKHALT, R463
  | attest (k : Command) -- ATTEST, R454
  | idkey (k : Command) -- IDKEY, R454
  | fabricMessageReceive (p : Packet) -- FABRIC_MESSAGE_RECEIVE, R442
  | fabricAcknowledgement (module vn num : Nat) -- FABRIC_ACKNOWLEDGEMENT, R442
  | fabricRetransmit (module vn : Nat) -- FABRIC_RETRANSMIT, R442
  | prosanFlitReceive (port : Nat) (f : Flit) -- PROSAN_FLIT_RECEIVE, R439
  | linkDegrade (port : Nat) -- LINK_DEGRADE, R440
  | linkTraining (port peer : Nat) -- LINK_TRAINING, R456
  | linkKeyRenewal (port : Nat) -- LINK_KEY_RENEWAL, R456
  | hostCommand (pid : Nat) (via : HostVia) (l : List RawMsg) -- HOST_COMMAND, R448
  | hostClassMessage (m : Message) -- HOST_CLASS_MESSAGE, R449
  | rmaWrite (pid : Nat) (key : RmaKey) (off : Nat) (data : List Word) -- RMA_WRITE, R451
  | rmaRead (pid : Nat) (key : RmaKey) (off words : Nat) -- RMA_READ, R451
  | sessionStart (pid : Nat) (ct : List Byte) -- SESSION_START, R455
  | logStallExpiry (pid site : Nat) -- LOG_STALL_EXPIRY, R392
  | replayHoldExpiry (pid site : Nat) -- REPLAY_HOLD_EXPIRY, R395
  | coldBoot (wallNs : Nat) (image : List (Option (Nat × List Byte))) -- COLD_BOOT, R464
  | bootFailureFrame -- BOOT_FAILURE_FRAME, R464
  | illegalInstruction (w : BitVec 32) -- ILLEGAL_INSTRUCTION, R56
  | writeQueueEntryFree (port : Nat) -- WRITE_QUEUE_ENTRY_FREE, R92
  | groupEntryUpdate (r : GroupReq) -- GROUP_ENTRY_UPDATE, R162
  | logReaderEntry (pid : Nat) -- LOG_READER_ENTRY, R393
  | supplyChange (clock : ClockRef) (khz : Nat) -- SUPPLY_CHANGE, R425
  | wallDiscipline (ppm : Int) -- WALL_DISCIPLINE, R358
  | unknownOp (k : Command) -- UNKNOWN_OP, R457
  deriving DecidableEq, Repr

end Sys2Proof
end

