-- ==== Sys2Proof/WellFormed.lean ====
section
/-! DEFINITION. Which terms of Instr are instructions of the machine (R29, R30, R43, R54, R56, R333): a term the check
refuses has no encoding, its words trap ILLOP. For an event, that its place exists on the die (R2). -/

namespace Sys2Proof

/-- The control register numbers that R30 and the owning chapters allocate (R30, R271, R321, R344, R384). -/
def ctlAllocated (n : Nat) : Bool :=
  n ≤ 0x004 || n == 0x010 || (0x020 ≤ n && n ≤ 0x024) || (0x030 ≤ n && n ≤ 0x033) || (0x040 ≤ n && n ≤ 0x043)
    || (0x050 ≤ n && n ≤ 0x052) || (0x060 ≤ n && n ≤ 0x062) || (0x070 ≤ n && n ≤ 0x07C) || (0x080 ≤ n && n ≤ 0x082)
    || n == 0xC10 || n == 0xC20 || n == 0xC30 || n == 0xC40 || n == 0xC50 || (0xC60 ≤ n && n ≤ 0xC63)
    || (0xC70 ≤ n && n ≤ 0xC75) || (0xC80 ≤ n && n ≤ 0xC92) || (0xCA0 ≤ n && n ≤ 0xCA7) || n == 0xCC0 || n == 0xCC1

/-- The classes a SEND may name (R333). -/
def sendClass (k : BitVec 8) : Bool :=
  (7 ≤ k.toNat && k.toNat ≤ 9) || k.toNat == 0x0E || 0x10 ≤ k.toNat

/-- The classes a SENDR or a SPAWN may name (R333). -/
def userClass (k : BitVec 8) : Bool := 0x10 ≤ k.toNat

/-- A core number of the die (R2). -/
def coreOk (c : Nat) : Bool := c < 12288

/-- An octet number of the die (R2). -/
def octetOk (o : Nat) : Bool := o < 1536

/-- A partition number (R310). -/
def pidOk (p : Nat) : Bool := p < 64

/-- A context number (R204); the limit of a RED, which no context awaits, names 8. -/
def ctxOk (k : Nat) : Bool := k < 8

/-- The well-formedness of a term: of an instruction, that its encoding is one of chapter 2; of an event, that the core,
octet, context, partition, rail or port it names exists. -/
def Instr.wf : Instr → Bool
  | .fcvtFf _ s t _ _ => s != t
  | .send _ _ k => sendClass k
  | .sendr _ _ k => userClass k
  | .spawn _ _ k => userClass k
  | .crr _ n => ctlAllocated n.toNat
  | .crw n _ => ctlAllocated n.toNat
  | .crs _ n _ => ctlAllocated n.toNat
  | .crc _ n _ => ctlAllocated n.toNat
  | .hAddi a _ => a != 0
  | .hSeti a _ => a != 0
  | .hCopy a _ => a != 0
  | .hAdd a _ => a != 0
  | .hSub a _ => a != 0
  | .hAnd a _ => a != 0
  | .hShl a _ => a != 0
  | .hShr a _ => a != 0
  | .hLds a _ => a != 0
  | .hJreg a => a != 0
  | .hCallr a => a != 0
  | .pageTableWalk w => coreOk w.core && ctxOk w.ctx
  | .taskStart c => coreOk c
  | .firingStart c => coreOk c
  | .messageAcceptance c _ => coreOk c
  | .refused c _ _ => coreOk c
  | .refusedMessageResend c vn _ => coreOk c && vn < 3
  | .withdrawal c _ _ vn _ _ => coreOk c && vn < 3
  | .storeAcknowledgement c _ => coreOk c
  | .decombineSplit o i _ => octetOk o && i < 32
  | .amoLimitExpiry w => coreOk w.core && w.ctx < 9
  | .pageLineCopy p k => p < 272 && k < 4
  | .channelOperationStart c _ => coreOk c
  | .channelOperationComplete c _ _ => coreOk c
  | .engineFault c _ _ _ => coreOk c
  | .streamRefill c k r => coreOk c && ctxOk k && r < 6
  | .haloPush p => coreOk p.dstCore
  | .collectiveOperationStart c => coreOk c
  | .collectiveOperationComplete c => coreOk c
  | .engineAcknowledgement c _ => coreOk c
  | .barrierArrival p _ _ => pidOk p
  | .barrierRelease c g _ => pidOk g.pid && coreOk c
  | .matrixCommandStart o _ => octetOk o
  | .matrixCommandComplete o _ _ => octetOk o
  | .joinDelivery j => coreOk j.core
  | .drainMessagePost c => coreOk c
  | .locatorCorrection o _ _ _ => octetOk o
  | .supervisorNotice n => pidOk n.pid && octetOk n.octet
  | .noticeResend n => pidOk n.pid && octetOk n.octet
  | .swapInstant p => pidOk p
  | .swapControl a b => coreOk a && coreOk b
  | .swapExchange a b => coreOk a && coreOk b
  | .swapExchangeEnd a b => coreOk a && coreOk b
  | .launchStart p k => pidOk p && k < 4
  | .launchComplete p _ => pidOk p
  | .launchEndByFault p _ _ _ _ => pidOk p
  | .ratioWindowEnd o => octetOk o
  | .alarmFire c k a => coreOk c && ctxOk k && a < 2
  | .deadlineTrap c k => coreOk c && ctxOk k
  | .waitDeadlineExpiry c k => coreOk c && ctxOk k
  | .waitTargetReached c k => coreOk c && ctxOk k
  | .regulatorRequestChange o => octetOk o
  | .phaseLoss r => r < 16
  | .supplyEmergency r => r < 16
  | .emergencyClear r => r < 16
  | .retentionEntry o => octetOk o
  | .gatingEntry o => octetOk o
  | .octetWake o _ => octetOk o
  | .retentionTimedWake o => octetOk o
  | .fltgenAdvance p => pidOk p
  | .fltkill p _ => pidOk p
  | .mxstatRecover c => coreOk c
  | .svlocWrite p _ => pidOk p
  | .stkcfgWrite c _ => coreOk c
  | .hostepWrite p _ => pidOk p
  | .prosanFlitReceive p _ => p < 8
  | .linkDegrade p => p < 8
  | .linkTraining p m => p < 8 && m < 4096
  | .linkKeyRenewal p => p < 8
  | .hostCommand p v _ => pidOk p && v.eth < 4
  | .rmaWrite p k _ _ => pidOk p && k.via.eth < 4
  | .rmaRead p k _ _ => pidOk p && k.via.eth < 4
  | .sessionStart p _ => pidOk p
  | .logStallExpiry p _ => pidOk p
  | .replayHoldExpiry p _ => pidOk p
  | .writeQueueEntryFree p => p < 272
  | .groupEntryUpdate r => pidOk r.pid
  | .logReaderEntry p => pidOk p
  | .supplyChange c k => octetOk c.octet && c.clock < 9 && 0 < k
  | .wallDiscipline ppm => -100 ≤ ppm && ppm ≤ 100
  | _ => true

end Sys2Proof
end

