-- ==== Sys2Proof/Decode.lean ====
section
/-! DEFINITION. Decoding an instruction's bytes (R22, R32 to R56), rejecting by name, and the encoder written from the
same tables. A rejected word is no instruction: it traps ILLOP (R56). -/

namespace Sys2Proof

/-- Why a word is not an instruction (R56). -/
inductive Reject where
  | short        -- fewer bytes than the length bit asks for (R22)
  | major        -- a reserved major opcode (R33)
  | selector     -- a selector or fn value that is not listed (R34 to R53)
  | mustBeZero   -- a nonzero must-be-zero field (R29)
  | register     -- a vector or stream register field out of range (R29, R48)
  | unallocated  -- an unallocated control register number (R30)
  | half         -- a 16-bit pattern marked ILLOP (R54)
  deriving DecidableEq, Repr

/-- A decoding: an instruction, or a rejection by name. -/
abbrev Decoded := Except Reject Instr

/-- Continue when the check holds, else reject. -/
def need (c : Bool) (r : Reject) (x : Decoded) : Decoded := if c then x else .error r

/-! ## Fields of a 32-bit word (R32) -/

def fMajor (w : BitVec 32) : Nat := (w.extractLsb' 1 6).toNat
def fRd (w : BitVec 32) : Reg := w.extractLsb' 7 5
def fRs1 (w : BitVec 32) : Reg := w.extractLsb' 12 5
def fRs2 (w : BitVec 32) : Reg := w.extractLsb' 17 5
def fRs3 (w : BitVec 32) : Reg := w.extractLsb' 22 5
def fFn (w : BitVec 32) : Nat := (w.extractLsb' 22 10).toNat
def fFn5 (w : BitVec 32) : Nat := (w.extractLsb' 27 5).toNat
def fImm15 (w : BitVec 32) : BitVec 15 := w.extractLsb' 17 15
def fImm12 (w : BitVec 32) : BitVec 12 := w.extractLsb' 20 12
def fImm20 (w : BitVec 32) : BitVec 20 := w.extractLsb' 12 20
def fSize (w : BitVec 32) : Nat := (w.extractLsb' 17 3).toNat

/-- A field that names a vector register must hold 0 to 7 (R27). -/
def vOk (r : Reg) : Bool := r.toNat < 8

/-- The vector register a checked field names. -/
def toV (r : Reg) : VReg := r.extractLsb' 0 3

/-! ## Operand codes -/

def decFFmt : Nat → Option FFmt
  | 0 => some .s | 1 => some .d | 2 => some .h | _ => none

def encFFmt : FFmt → BitVec 2
  | .s => 0 | .d => 1 | .h => 2

def decRm : Nat → Option Rm
  | 0 => some .rne | 1 => some .rtz | 2 => some .rdn | 3 => some .rup | 4 => some .rmm | 7 => some .dyn | _ => none

def encRm : Rm → BitVec 3
  | .rne => 0 | .rtz => 1 | .rdn => 2 | .rup => 3 | .rmm => 4 | .dyn => 7

def decIntTy : Nat → IntTy
  | 0 => .w | 1 => .wu | 2 => .l | _ => .lu

def encIntTy : IntTy → BitVec 2
  | .w => 0 | .wu => 1 | .l => 2 | .lu => 3

def decCvtTy : Nat → CvtTy
  | 0 => .s | 1 => .d | 2 => .h | _ => .bf

def encCvtTy : CvtTy → BitVec 2
  | .s => 0 | .d => 1 | .h => 2 | .bf => 3

def decIType : Nat → IType
  | 0 => .b | 1 => .h | 2 => .w | _ => .d

def encIType : IType → BitVec 2
  | .b => 0 | .h => 1 | .w => 2 | .d => 3

def decFType : Nat → FType
  | 0 => .h | 1 => .bf | 2 => .s | _ => .d

def encFType : FType → BitVec 2
  | .h => 0 | .bf => 1 | .s => 2 | .d => 3

def decVCmp (c t : Nat) : VCmpOp :=
  match c with
  | 0 => .int .eq (decIType t) | 1 => .int .ne (decIType t) | 2 => .int .lt (decIType t) | 3 => .int .ge (decIType t)
  | 4 => .int .ltu (decIType t) | 5 => .int .geu (decIType t) | 6 => .flt (decFType t) | _ => .fle (decFType t)

/-- The condition code [7:5] and type [9:8] of VCMP (R46). -/
def encVCmp : VCmpOp → BitVec 3 × BitVec 2
  | .int .eq t => (0, encIType t) | .int .ne t => (1, encIType t) | .int .lt t => (2, encIType t)
  | .int .ge t => (3, encIType t) | .int .ltu t => (4, encIType t) | .int .geu t => (5, encIType t)
  | .flt t => (6, encFType t) | .fle t => (7, encFType t)

def decVRed (c t : Nat) : VRedOp :=
  match c with
  | 0 => .int .add (decIType t) | 1 => .int .min (decIType t) | 2 => .int .max (decIType t) | 3 => .int .and (decIType t)
  | 4 => .int .or (decIType t) | 5 => .int .xor (decIType t) | 6 => .fadd (decFType t) | _ => .fmax (decFType t)

/-- The operation code [7:5] and type [9:8] of VRED (R46). -/
def encVRed : VRedOp → BitVec 3 × BitVec 2
  | .int .add t => (0, encIType t) | .int .min t => (1, encIType t) | .int .max t => (2, encIType t)
  | .int .and t => (3, encIType t) | .int .or t => (4, encIType t) | .int .xor t => (5, encIType t)
  | .fadd t => (6, encFType t) | .fmax t => (7, encFType t)

def decVCvt : Nat → Option VCvt
  | 0 => some .hS | 1 => some .sH | 2 => some .bfS | 3 => some .sBf | 4 => some .dS | 5 => some .sD
  | 6 => some .e4m3S | 7 => some .sE4m3 | 8 => some .e5m2S | 9 => some .sE5m2 | 10 => some .wS | 11 => some .sW
  | 12 => some .i8S | 13 => some .sI8 | 14 => some .lD | 15 => some .dL | _ => none

def encVCvt : VCvt → BitVec 5
  | .hS => 0 | .sH => 1 | .bfS => 2 | .sBf => 3 | .dS => 4 | .sD => 5 | .e4m3S => 6 | .sE4m3 => 7 | .e5m2S => 8
  | .sE5m2 => 9 | .wS => 10 | .sW => 11 | .i8S => 12 | .sI8 => 13 | .lD => 14 | .dL => 15

def decBx : Nat → Option BxFmt
  | 0 => some .bx2 | 1 => some .bx4 | 2 => some .bx7 | _ => none

def encBx : BxFmt → BitVec 2
  | .bx2 => 0 | .bx4 => 1 | .bx7 => 2

def decAcc (b : Bool) : Acc := if b then .acc1 else .acc0
def encAcc : Acc → BitVec 1
  | .acc0 => 0 | .acc1 => 1

def decChan (b : Bool) : Chan := if b then .cp1 else .cp0
def encChan : Chan → BitVec 1
  | .cp0 => 0 | .cp1 => 1

def decEng : Nat → Option Eng
  | 0 => some .cp0 | 1 => some .cp1 | 2 => some .mx | 3 => some .cl | _ => none

def encEng : Eng → BitVec 3
  | .cp0 => 0 | .cp1 => 1 | .mx => 2 | .cl => 3

def decDir : Nat → Option Dir
  | 0 => some .n | 1 => some .e | 2 => some .s | 3 => some .w | _ => none

def encDir : Dir → BitVec 3
  | .n => 0 | .e => 1 | .s => 2 | .w => 3

def decRed : Nat → RedOp
  | 0 => .add | 1 => .fadd | 2 => .min | _ => .max

def encRed : RedOp → BitVec 2
  | .add => 0 | .fadd => 1 | .min => 2 | .max => 3

/-! ## Majors -/

/-- OP (R34). -/
def decOp (w : BitVec 32) : Decoded :=
  let d := fRd w; let a := fRs1 w; let b := fRs2 w
  match fFn w with
  | 0x000 => .ok (.add d a b) | 0x001 => .ok (.sub d a b) | 0x002 => .ok (.and d a b) | 0x003 => .ok (.or d a b)
  | 0x004 => .ok (.xor d a b) | 0x005 => .ok (.sll d a b) | 0x006 => .ok (.srl d a b) | 0x007 => .ok (.sra d a b)
  | 0x008 => .ok (.slt d a b) | 0x009 => .ok (.sltu d a b) | 0x00A => .ok (.min d a b) | 0x00B => .ok (.max d a b)
  | 0x00C => .ok (.minu d a b) | 0x00D => .ok (.maxu d a b) | 0x00E => .ok (.rol d a b) | 0x00F => .ok (.ror d a b)
  | 0x010 => .ok (.andn d a b) | 0x011 => .ok (.orn d a b) | 0x012 => .ok (.xnor d a b)
  | _ => .error .selector

/-- OPW (R34). -/
def decOpw (w : BitVec 32) : Decoded :=
  let d := fRd w; let a := fRs1 w; let b := fRs2 w
  match fFn w with
  | 0x000 => .ok (.addw d a b) | 0x001 => .ok (.subw d a b) | 0x005 => .ok (.sllw d a b)
  | 0x006 => .ok (.srlw d a b) | 0x007 => .ok (.sraw d a b)
  | _ => .error .selector

/-- MULDIV (R34). -/
def decMulDiv (w : BitVec 32) : Decoded :=
  let d := fRd w; let a := fRs1 w; let b := fRs2 w
  match fFn w with
  | 0x000 => .ok (.mul d a b) | 0x001 => .ok (.mulh d a b) | 0x002 => .ok (.mulhu d a b) | 0x003 => .ok (.mulhsu d a b)
  | 0x004 => .ok (.div d a b) | 0x005 => .ok (.divu d a b) | 0x006 => .ok (.rem d a b) | 0x007 => .ok (.remu d a b)
  | _ => .error .selector

/-- SHIFTI (R35). -/
def decShifti (w : BitVec 32) : Decoded :=
  let d := fRd w; let a := fRs1 w; let s : BitVec 6 := w.extractLsb' 17 6
  need (w.extractLsb' 25 7 == 0) .mustBeZero <|
  match (w.extractLsb' 23 2).toNat with
  | 0 => .ok (.slli d a s) | 1 => .ok (.srli d a s) | 2 => .ok (.srai d a s)
  | _ => .error .selector

/-- BITOP (R34). -/
def decBitop (w : BitVec 32) : Decoded :=
  let d := fRd w; let a := fRs1 w
  need (fRs2 w == 0) .mustBeZero <|
  match fFn w with
  | 0x000 => .ok (.clz d a) | 0x001 => .ok (.ctz d a) | 0x002 => .ok (.popc d a) | 0x003 => .ok (.bswap d a)
  | 0x004 => .ok (.sextb d a) | 0x005 => .ok (.sexth d a) | 0x006 => .ok (.zextw d a)
  | _ => .error .selector

/-- ADDR (R36). -/
def decAddr (w : BitVec 32) : Decoded :=
  let d := fRd w; let a := fRs1 w; let b := fRs2 w
  if w.getLsbD 31 then
    match fFn w with
    | 0x200 => .ok (.addx2 d a b) | 0x201 => .ok (.addx4 d a b) | 0x202 => .ok (.addx8 d a b) | 0x203 => .ok (.lcr d a b)
    | 0x204 => need (b == 0) .mustBeZero (.ok (.lcx d a))
    | _ => .error .selector
  else .ok (.lca d a (w.extractLsb' 17 14))

/-- BRANCH (R37): rs2 stands in [16:12] and rs1 in [11:7] (R32, form B). -/
def decBranch (w : BitVec 32) : Decoded :=
  let a := fRd w; let b := fRs1 w; let i := fImm12 w
  match fSize w with
  | 0 => .ok (.beq a b i) | 1 => .ok (.bne a b i) | 2 => .ok (.blt a b i) | 3 => .ok (.bge a b i)
  | 4 => .ok (.bltu a b i) | 5 => .ok (.bgeu a b i)
  | 6 => need (a == 0 && b == 0) .mustBeZero (.ok (.bto i))
  | _ => need (a == 0 && b == 0) .mustBeZero (.ok (.bnto i))

/-- LOAD (R38). -/
def decLoad (w : BitVec 32) : Decoded :=
  let d := fRd w; let a := fRs1 w; let i := fImm12 w
  match fSize w with
  | 0 => .ok (.lb d a i) | 1 => .ok (.lh d a i) | 2 => .ok (.lw d a i) | 3 => .ok (.ld d a i)
  | 4 => .ok (.lbu d a i) | 5 => .ok (.lhu d a i) | 6 => .ok (.lwu d a i)
  | _ => .error .selector

/-- STORE (R38). -/
def decStore (w : BitVec 32) : Decoded :=
  let d := fRd w; let a := fRs1 w; let i := fImm12 w
  match fSize w with
  | 0 => .ok (.sb d a i) | 1 => .ok (.sh d a i) | 2 => .ok (.sw d a i) | 3 => .ok (.sd d a i)
  | _ => .error .selector

/-- LOADX, with the divided imm12 of LDF and LDFE (R38, R201). -/
def decLoadx (w : BitVec 32) : Decoded :=
  let d := fRd w; let a := fRs1 w; let i := fImm12 w; let b : Reg := w.extractLsb' 27 5; let o : BitVec 7 := w.extractLsb' 20 7
  match fSize w with
  | 0 => .ok (.ldacq d a i) | 1 => .ok (.ldf d a o b) | 2 => .ok (.ldfe d a o b) | 3 => .ok (.probe d a i)
  | _ => .error .selector

/-- STOREX, with the divided imm12 of STF (R38, R201). -/
def decStorex (w : BitVec 32) : Decoded :=
  let d := fRd w; let a := fRs1 w; let i := fImm12 w; let b : Reg := w.extractLsb' 27 5; let o : BitVec 7 := w.extractLsb' 20 7
  match fSize w with
  | 0 => .ok (.sdrel d a i) | 1 => .ok (.ste d a i) | 2 => .ok (.stf d a o b)
  | 3 => need (d == 0) .mustBeZero (.ok (.sete a i))
  | _ => .error .selector

/-- AMO (R39). -/
def decAmo (w : BitVec 32) : Decoded :=
  let d := fRd w; let a := fRs1 w; let b := fRs2 w; let c := fRs3 w; let x := w.getLsbD 31
  match (w.extractLsb' 27 4).toNat with
  | 0 => need (c == 0) .mustBeZero (.ok (.amoadd x d a b)) | 1 => need (c == 0) .mustBeZero (.ok (.amoand x d a b))
  | 2 => need (c == 0) .mustBeZero (.ok (.amoor x d a b)) | 3 => need (c == 0) .mustBeZero (.ok (.amoxor x d a b))
  | 4 => need (c == 0) .mustBeZero (.ok (.amomin x d a b)) | 5 => need (c == 0) .mustBeZero (.ok (.amomax x d a b))
  | 6 => need (c == 0) .mustBeZero (.ok (.amominu x d a b)) | 7 => need (c == 0) .mustBeZero (.ok (.amomaxu x d a b))
  | 8 => need (c == 0) .mustBeZero (.ok (.amoswap x d a b)) | 9 => .ok (.amocas x d a b c)
  | _ => .error .selector

/-- RED (R39, R114): fn 0x000 to 0x007 at 64 bits, 0x100 to 0x107 at 32 bits. -/
def decRedMajor (w : BitVec 32) : Decoded :=
  let a := fRs1 w; let b := fRs2 w; let x := w.getLsbD 30
  need (fRd w == 0) .mustBeZero <|
  need (w.extractLsb' 25 5 == 0 && !w.getLsbD 31) .selector <|
  match (w.extractLsb' 22 3).toNat with
  | 0 => .ok (.redadd x a b) | 1 => .ok (.redand x a b) | 2 => .ok (.redor x a b) | 3 => .ok (.redxor x a b)
  | 4 => .ok (.redmin x a b) | 5 => .ok (.redmax x a b) | 6 => .ok (.redminu x a b) | _ => .ok (.redmaxu x a b)

/-- FP (R41). -/
def decFp (w : BitVec 32) : Decoded :=
  let d := fRd w; let a := fRs1 w; let b := fRs2 w
  let rz := w.extractLsb' 27 3 == 0
  match decFFmt (w.extractLsb' 30 2).toNat, decRm (w.extractLsb' 27 3).toNat with
  | some f, some r =>
    match (w.extractLsb' 22 5).toNat with
    | 0 => .ok (.fadd f r d a b) | 1 => .ok (.fsub f r d a b) | 2 => .ok (.fmul f r d a b) | 3 => .ok (.fdiv f r d a b)
    | 4 => need (b == 0) .mustBeZero (.ok (.fsqrt f r d a))
    | 5 => need rz .mustBeZero (.ok (.fmin f d a b)) | 6 => need rz .mustBeZero (.ok (.fmax f d a b))
    | 7 => need rz .mustBeZero (.ok (.fsgcpy f d a b)) | 8 => need rz .mustBeZero (.ok (.fsgneg f d a b))
    | 9 => need rz .mustBeZero (.ok (.fsgxor f d a b)) | 10 => need rz .mustBeZero (.ok (.feq f d a b))
    | 11 => need rz .mustBeZero (.ok (.flt f d a b)) | 12 => need rz .mustBeZero (.ok (.fle f d a b))
    | 13 => need (rz && b == 0) .mustBeZero (.ok (.fclass f d a))
    | 14 => need (rz && b == 0) .mustBeZero (.ok (.frcpe f d a))
    | 15 => need (rz && b == 0) .mustBeZero (.ok (.frsqe f d a))
    | _ => .error .selector
  | _, _ => .error .selector

/-- FMA (R42). -/
def decFma (w : BitVec 32) : Decoded :=
  let d := fRd w; let a := fRs1 w; let b := fRs2 w; let c := fRs3 w
  need (!w.getLsbD 31) .mustBeZero <|
  match decFFmt (w.extractLsb' 29 2).toNat with
  | some f =>
    match (w.extractLsb' 27 2).toNat with
    | 0 => .ok (.fma f d a b c) | 1 => .ok (.fms f d a b c) | 2 => .ok (.fnma f d a b c) | _ => .ok (.fnms f d a b c)
  | none => .error .selector

/-- FCVT (R43). -/
def decFcvt (w : BitVec 32) : Decoded :=
  let d := fRd w; let a := fRs1 w
  let s := (w.extractLsb' 25 2).toNat; let t := (w.extractLsb' 23 2).toNat
  need (fRs2 w == 0 && !w.getLsbD 22) .mustBeZero <|
  match decRm (w.extractLsb' 29 3).toNat with
  | some r =>
    match (w.extractLsb' 27 2).toNat with
    | 0 => .ok (.fcvtI r (decCvtTy s) (decIntTy t) d a)
    | 1 => .ok (.fcvtF r (decIntTy s) (decCvtTy t) d a)
    | 2 => need (s != t) .selector (.ok (.fcvtFf r (decCvtTy s) (decCvtTy t) d a))
    | _ => .error .selector
  | none => .error .selector

/-- VARITH (R44). -/
def decVarith (w : BitVec 32) : Decoded :=
  let d := toV (fRd w); let a := toV (fRs1 w); let b := toV (fRs2 w)
  let ty := (w.extractLsb' 30 2).toNat
  need (!w.getLsbD 29) .mustBeZero <|
  need (vOk (fRd w) && vOk (fRs1 w) && vOk (fRs2 w)) .register <|
  if w.getLsbD 28 then
    let t := decFType ty
    match (w.extractLsb' 22 6).toNat with
    | 0 => .ok (.vfadd t d a b) | 1 => .ok (.vfsub t d a b) | 2 => .ok (.vfmul t d a b) | 3 => .ok (.vfdiv t d a b)
    | 4 => .ok (.vfmin t d a b) | 5 => .ok (.vfmax t d a b)
    | 6 => need (ty == 2) .selector <| need (fRs2 w == 0) .mustBeZero (.ok (.vrcpe d a))
    | 7 => need (ty == 2) .selector <| need (fRs2 w == 0) .mustBeZero (.ok (.vrsqe d a))
    | _ => .error .selector
  else
    let t := decIType ty
    match (w.extractLsb' 22 6).toNat with
    | 0 => .ok (.vadd t d a b) | 1 => .ok (.vsub t d a b) | 2 => .ok (.vmul t d a b) | 3 => .ok (.vand t d a b)
    | 4 => .ok (.vor t d a b) | 5 => .ok (.vxor t d a b) | 6 => .ok (.vsll t d a b) | 7 => .ok (.vsrl t d a b)
    | 8 => .ok (.vsra t d a b)
    | _ => .error .selector

/-- VFMA (R44). -/
def decVfma (w : BitVec 32) : Decoded :=
  let d := toV (fRd w); let a := toV (fRs1 w); let b := toV (fRs2 w); let c := toV (fRs3 w)
  let t := decFType (w.extractLsb' 28 2).toNat
  need (w.extractLsb' 30 2 == 0) .mustBeZero <|
  need (vOk (fRd w) && vOk (fRs1 w) && vOk (fRs2 w) && vOk (fRs3 w)) .register <|
  if w.getLsbD 27 then .ok (.vfnma t d a b c) else .ok (.vfma t d a b c)

/-- VMEM (R45). -/
def decVmem (w : BitVec 32) : Decoded :=
  let d := toV (fRd w); let a := fRs1 w; let i := fImm12 w; let v : VReg := w.extractLsb' 29 3
  let iz := w.extractLsb' 20 9 == 0
  need (vOk (fRd w)) .register <|
  match fSize w with
  | 0 => .ok (.vld d a i) | 1 => .ok (.vst d a i) | 2 => .ok (.vlds d a i) | 3 => .ok (.vsts d a i)
  | 4 => need iz .mustBeZero (.ok (.vgath d a v)) | 5 => need iz .mustBeZero (.ok (.vscat d a v))
  | _ => .error .selector

/-- VMISC (R46, R261). -/
def decVmisc (w : BitVec 32) : Decoded :=
  let rd := fRd w; let r1 := fRs1 w; let r2 := fRs2 w
  let ty := (w.extractLsb' 30 2).toNat; let sub := (w.extractLsb' 27 3).toNat
  let t := decIType ty
  match (w.extractLsb' 22 5).toNat with
  | 0 => need (sub == 0 && r2 == 0) .mustBeZero <| need (vOk rd) .register (.ok (.vbcast t (toV rd) r1))
  | 1 => need (sub == 0) .mustBeZero <| need (vOk r1) .register (.ok (.vext t rd (toV r1) r2))
  | 2 => need (sub == 0) .mustBeZero <| need (vOk rd) .register (.ok (.vins t (toV rd) r1 r2))
  | 3 => need (sub == 0) .mustBeZero <| need (vOk rd && vOk r1 && vOk r2) .register (.ok (.vsel t (toV rd) (toV r1) (toV r2)))
  | 4 => need (vOk rd && vOk r1 && vOk r2) .register (.ok (.vcmp (decVCmp sub ty) (toV rd) (toV r1) (toV r2)))
  | 5 => need (r2 == 0) .mustBeZero <| need (vOk r1) .register (.ok (.vred (decVRed sub ty) rd (toV r1)))
  | 6 => need (sub == 0) .mustBeZero <| need (vOk rd && vOk r1 && vOk r2) .register (.ok (.vperm t (toV rd) (toV r1) (toV r2)))
  | 7 =>
    need (r2 == 0) .mustBeZero <| need (vOk rd && vOk r1) .register <|
    match decVCvt (w.extractLsb' 27 5).toNat with
    | some k => .ok (.vcvt k (toV rd) (toV r1))
    | none => .error .selector
  | 8 =>
    need (sub == 0 && r2 == 0) .mustBeZero <| need (vOk rd && vOk r1) .register <|
    match decBx ty with
    | some m => .ok (.vpack m (toV rd) (toV r1))
    | none => .error .selector
  | 9 =>
    need (sub == 0 && r2 == 0) .mustBeZero <| need (vOk rd && vOk r1) .register <|
    match decBx ty with
    | some m => .ok (.vunpk m (toV rd) (toV r1))
    | none => .error .selector
  | _ => .error .selector

/-- MATRIX (R47, R285). -/
def decMatrix (w : BitVec 32) : Decoded :=
  let d := fRd w; let a := fRs1 w; let b := fRs2 w; let c := fRs3 w
  let n := decAcc (w.getLsbD 27)
  match (w.extractLsb' 28 4).toNat with
  | 0 => .ok (.mma n d a b c)
  | 1 => need (a == 0 && b == 0 && c == 0) .mustBeZero (.ok (.accz n d))
  | 2 => need (b == 0 && c == 0) .mustBeZero (.ok (.accld n d a))
  | 3 => need (b == 0 && c == 0) .mustBeZero (.ok (.accst n d a))
  | 4 => need (a == 0 && b == 0 && c == 0) .mustBeZero (.ok (.accmv n d))
  | 5 => need (!w.getLsbD 27) .mustBeZero (.ok (.wbld d a b c))
  | _ => .error .selector

/-- COPY (R47). -/
def decCopy (w : BitVec 32) : Decoded :=
  let d := fRd w; let a := fRs1 w; let b := fRs2 w; let c := fRs3 w
  let h := decChan (w.getLsbD 27)
  match (w.extractLsb' 28 4).toNat with
  | 0 => need (!w.getLsbD 27 && b == 0 && c == 0) .mustBeZero (.ok (.shpchk d a))
  | 1 => .ok (.cpyin h d a b c)
  | 2 => .ok (.cpyout h d a b c)
  | 3 => .ok (.cpyll h d a b c)
  | 4 => need (a == 0 && b == 0 && c == 0) .mustBeZero (.ok (.cstat h d))
  | _ => .error .selector

/-- STREAM (R48): x streams are register numbers 28 to 31, v streams 6 and 7. -/
def decStream (w : BitVec 32) : Decoded :=
  let rd := fRd w; let r1 := fRs1 w
  let xq (r : Reg) : Bool := 28 ≤ r.toNat
  let vq (r : Reg) : Bool := r.toNat == 6 || r.toNat == 7
  need (fRs2 w == 0) .mustBeZero <|
  match fFn w with
  | 0 => need (xq rd) .register (.ok (.sbind (rd.extractLsb' 0 2) r1))
  | 1 => need (r1 == 0) .mustBeZero <| need (xq rd) .register (.ok (.sunb (rd.extractLsb' 0 2)))
  | 2 => need (xq r1) .register (.ok (.qcnt rd (r1.extractLsb' 0 2)))
  | 4 => need (vq rd) .register (.ok (.sbindV (rd.extractLsb' 0 1) r1))
  | 5 => need (r1 == 0) .mustBeZero <| need (vq rd) .register (.ok (.sunbV (rd.extractLsb' 0 1)))
  | 6 => need (vq r1) .register (.ok (.qcntV rd (r1.extractLsb' 0 1)))
  | _ => .error .selector

/-- COLL (R47): [29:27] the operation, [31:30] the modifier. -/
def decColl (w : BitVec 32) : Decoded :=
  let d := fRd w; let a := fRs1 w; let b := fRs2 w; let c := fRs3 w
  let m := (w.extractLsb' 30 2).toNat
  match (w.extractLsb' 27 3).toNat with
  | 0 => need (m == 0) .selector <| need (c == 0) .mustBeZero (.ok (.xchg d a b))
  | 1 => need (!w.getLsbD 31) .selector (.ok (.mcast (w.getLsbD 30) d a b c))
  | 2 => need (!w.getLsbD 31) .selector (.ok (.mcastWin (w.getLsbD 30) d a b c))
  | 3 => .ok (.reduce (decRed m) d a b c)
  | 4 => need (m == 0) .selector <| need (c == 0) .mustBeZero (.ok (.halo d a b))
  | _ => .error .selector

/-- GROUP (R51). -/
def decGroup (w : BitVec 32) : Decoded :=
  let d := fRd w; let a := fRs1 w; let b := fRs2 w
  match fFn w with
  | 0 => .ok (.gjoin d a b)
  | 1 => need (b == 0) .mustBeZero (.ok (.gleave d a))
  | 2 => need (d == 0) .mustBeZero (.ok (.gbar a b))
  | 3 => need (b == 0) .mustBeZero (.ok (.garr d a))
  | 4 => need (d == 0) .mustBeZero (.ok (.gwait a b))
  | 5 => .ok (.ginfo d a b)
  | _ => .error .selector

/-- WAIT (R49). -/
def decWait (w : BitVec 32) : Decoded :=
  let d := fRd w; let a := fRs1 w; let b := fRs2 w
  let sel := (w.extractLsb' 25 3).toNat
  need (w.extractLsb' 28 4 == 0) .mustBeZero <|
  match (w.extractLsb' 22 3).toNat with
  | 0 =>
    need (d == 0) .mustBeZero <|
    match decEng sel with
    | some e => .ok (.cwait e a b)
    | none => .error .selector
  | 1 =>
    need (d == 0) .mustBeZero <|
    match decDir sel with
    | some e => .ok (.hwait e a b)
    | none => .error .selector
  | 2 => need (sel == 0 && d == 0 && b == 0) .mustBeZero (.ok (.waitc a))
  | 3 => need (sel == 0 && d == 0) .mustBeZero (.ok (.waitw a b))
  | 4 => need (sel == 0 && a == 0) .mustBeZero (.ok (.waita d b))
  | _ => .error .selector

/-- MSG (R50, R333). -/
def decMsg (w : BitVec 32) : Decoded :=
  let d := fRd w; let a := fRs1 w; let b := fRs2 w
  let k : BitVec 8 := w.extractLsb' 24 8
  match (w.extractLsb' 22 2).toNat with
  | 0 => need (d == 0) .mustBeZero <| need (sendClass k) .selector (.ok (.send a b k))
  | 1 => need (d == 0) .mustBeZero <| need (userClass k) .selector (.ok (.sendr a b k))
  | 2 => need (b == 0) .mustBeZero <| need (userClass k) .selector (.ok (.spawn d a k))
  | _ =>
    match k.toNat with
    | 0 => .ok (.join d a b)
    | 1 => .ok (.bind d a b)
    | 2 => need (b == 0) .mustBeZero (.ok (.unbind d a))
    | 3 => .ok (.reside d a b)
    | 4 => .ok (.rule d a b)
    | 5 => .ok (.codeld d a b)
    | _ => .error .selector

/-- TIME (R51, R365, R366, R368). -/
def decTime (w : BitVec 32) : Decoded :=
  let d := fRd w; let a := fRs1 w
  let s : BitVec 1 := w.extractLsb' 26 1
  need (w.extractLsb' 27 5 == 0 && fRs2 w == 0) .mustBeZero <|
  match (w.extractLsb' 22 4).toNat with
  | 0 => need (s == 0 && a == 0) .mustBeZero (.ok (.rdcyc d))
  | 1 => need (s == 0 && a == 0) .mustBeZero (.ok (.rdwall d))
  | 2 => need (d == 0) .mustBeZero (.ok (.alc s a))
  | 3 => need (d == 0) .mustBeZero (.ok (.alw s a))
  | 4 => need (d == 0 && a == 0) .mustBeZero (.ok (.alx s))
  | 5 => need (s == 0 && d == 0) .mustBeZero (.ok (.dlarm a))
  | 6 => need (s == 0 && d == 0 && a == 0) .mustBeZero (.ok .dlclr)
  | _ => .error .selector

/-- CTL (R52, R30). -/
def decCtl (w : BitVec 32) : Decoded :=
  let d := fRd w; let a := fRs1 w; let n : BitVec 12 := w.extractLsb' 17 12
  need (!w.getLsbD 31) .selector <|
  need (ctlAllocated n.toNat) .unallocated <|
  match (w.extractLsb' 29 2).toNat with
  | 0 => need (a == 0) .mustBeZero (.ok (.crr d n))
  | 1 => need (d == 0) .mustBeZero (.ok (.crw n a))
  | 2 => .ok (.crs d n a)
  | _ => .ok (.crc d n a)

/-- SYS (R53). -/
def decSys (w : BitVec 32) : Decoded :=
  let d := fRd w; let a := fRs1 w; let b := fRs2 w; let i : BitVec 6 := w.extractLsb' 26 6
  match (w.extractLsb' 22 4).toNat with
  | 0 => need (d == 0 && a == 0 && b == 0) .mustBeZero (.ok (.trap i))
  | 1 => need (i == 0 && d == 0 && a == 0 && b == 0) .mustBeZero (.ok .tret)
  | 2 => need (d == 0 && a == 0 && b == 0) .mustBeZero (.ok (.brk i))
  | 3 => need (i == 0 && d == 0 && a == 0 && b == 0) .mustBeZero (.ok .taskDone)
  | 4 => need (i == 0 && d == 0 && a == 0 && b == 0) .mustBeZero (.ok .yieldCtx)
  | 5 => need (i == 0 && d == 0) .mustBeZero (.ok (.tlbinv a b))
  | 6 => need (i == 0) .mustBeZero (.ok (.pgmove d a b))
  | 7 => need (i == 0 && d == 0 && b == 0) .mustBeZero (.ok (.swapok a))
  | _ => .error .selector

/-- REPLAY (R51). -/
def decReplay (w : BitVec 32) : Decoded :=
  need (fRs2 w == 0) .mustBeZero <|
  match fFn w with
  | 0 => .ok (.dpoint (fRd w) (fRs1 w))
  | 1 => .ok (.rddig (fRd w) (fRs1 w))
  | _ => .error .selector

/-- FENCE (R40). -/
def decFence (w : BitVec 32) : Decoded :=
  need (w.extractLsb' 7 9 == 0) .mustBeZero (.ok (.fence (w.extractLsb' 24 8) (w.extractLsb' 16 8)))

/-- A 32-bit word (R33). -/
def decode32 (w : BitVec 32) : Decoded :=
  match fMajor w with
  | 0x01 => decOp w
  | 0x02 => decOpw w
  | 0x03 => decMulDiv w
  | 0x04 => .ok (.addi (fRd w) (fRs1 w) (fImm15 w))
  | 0x05 => .ok (.andi (fRd w) (fRs1 w) (fImm15 w))
  | 0x06 => .ok (.ori (fRd w) (fRs1 w) (fImm15 w))
  | 0x07 => .ok (.xori (fRd w) (fRs1 w) (fImm15 w))
  | 0x08 => decShifti w
  | 0x09 => .ok (.slti (fRd w) (fRs1 w) (fImm15 w))
  | 0x0A => .ok (.sltiu (fRd w) (fRs1 w) (fImm15 w))
  | 0x0B => .ok (.addiw (fRd w) (fRs1 w) (fImm15 w))
  | 0x0C => .ok (.lui (fRd w) (fImm20 w))
  | 0x0D => .ok (.addpc (fRd w) (fImm20 w))
  | 0x0E => decBitop w
  | 0x0F => decAddr w
  | 0x10 => decBranch w
  | 0x11 => .ok (.jal (fRd w) (fImm20 w))
  | 0x12 => .ok (.jalr (fRd w) (fRs1 w) (fImm15 w))
  | 0x14 => decLoad w
  | 0x15 => decStore w
  | 0x16 => decLoadx w
  | 0x17 => decStorex w
  | 0x18 => decAmo w
  | 0x19 => decRedMajor w
  | 0x1A => decFence w
  | 0x1B => decFp w
  | 0x1C => decFma w
  | 0x1D => decFcvt w
  | 0x1E => decVarith w
  | 0x1F => decVfma w
  | 0x20 => decVmem w
  | 0x21 => decVmisc w
  | 0x22 => decMatrix w
  | 0x23 => decCopy w
  | 0x24 => decStream w
  | 0x25 => decColl w
  | 0x26 => decGroup w
  | 0x27 => decWait w
  | 0x28 => decMsg w
  | 0x29 => decTime w
  | 0x2A => decCtl w
  | 0x2B => decSys w
  | 0x2C => decReplay w
  | _ => .error .major

/-- A 16-bit halfword (R54): the major in [4:1], A in [9:5], B in [14:10], F in [15]. -/
def decode16 (w : BitVec 16) : Decoded :=
  let a : Reg := w.extractLsb' 5 5; let b : Reg := w.extractLsb' 10 5; let i : BitVec 6 := w.extractLsb' 10 6
  let f := w.getLsbD 15
  match (w.extractLsb' 1 4).toNat with
  | 0x0 => need (a != 0) .half (.ok (.hAddi a i))
  | 0x1 => need (a != 0) .half (.ok (.hSeti a i))
  | 0x2 => need (a != 0) .half (if f then .ok (.hAdd a b) else .ok (.hCopy a b))
  | 0x3 => need (a != 0) .half (if f then .ok (.hAnd a b) else .ok (.hSub a b))
  | 0x4 => need (a != 0) .half (.ok (.hShl a i))
  | 0x5 => need (a != 0) .half (.ok (.hShr a i))
  | 0x6 => need (a != 0) .half (.ok (.hLds a i))
  | 0x7 => .ok (.hSds a i)
  | 0x8 => .ok (.hBz a i)
  | 0x9 => .ok (.hBnz a i)
  | 0xA => .ok (.hJmp (w.extractLsb' 5 11))
  | 0xB => need (a != 0 && b == 0) .half (if f then .ok (.hCallr a) else .ok (.hJreg a))
  | 0xC => need (a == 0 && b == 0 && !f) .half (.ok .hDone)
  | _ => .error .half

/-- The instruction at the head of a byte list, with the rest of the list. Bit 0 of the first halfword sets the length
(R22); halfwords are little-endian (R7). -/
def decode (l : List Byte) : Except Reject (Instr × List Byte) :=
  match l with
  | b0 :: b1 :: rest =>
    if b0.getLsbD 0 then
      match rest with
      | b2 :: b3 :: rest' => (decode32 (b3 ++ b2 ++ b1 ++ b0)).map (·, rest')
      | _ => .error .short
    else (decode16 (b1 ++ b0)).map (·, rest)
  | _ => .error .short

/-! ## The encoder -/

/-- R form (R32). -/
def rForm (fn : BitVec 10) (b a d : Reg) (m : BitVec 6) : BitVec 32 := fn ++ b ++ a ++ d ++ m ++ 1#1

/-- I form (R32). -/
def iForm (i : BitVec 15) (a d : Reg) (m : BitVec 6) : BitVec 32 := i ++ a ++ d ++ m ++ 1#1

/-- L, S and B forms (R32). -/
def lForm (i : BitVec 12) (size : BitVec 3) (a d : Reg) (m : BitVec 6) : BitVec 32 := i ++ size ++ a ++ d ++ m ++ 1#1

/-- J and U forms (R32). -/
def uForm (i : BitVec 20) (d : Reg) (m : BitVec 6) : BitVec 32 := i ++ d ++ m ++ 1#1

/-- E form (R32). -/
def eForm (fn5 : BitVec 5) (c b a d : Reg) (m : BitVec 6) : BitVec 32 := fn5 ++ c ++ b ++ a ++ d ++ m ++ 1#1

/-- A vector register in a 5-bit field. -/
def v5 (v : VReg) : Reg := 0#2 ++ v

/-- An x stream register in a 5-bit field: 28 to 31 (R48). -/
def q5 (q : BitVec 2) : Reg := 7#3 ++ q

/-- A v stream register in a 5-bit field: 6 or 7 (R48). -/
def vq5 (q : BitVec 1) : Reg := 3#4 ++ q

/-- 1 for true. -/
def b1 (b : Bool) : BitVec 1 := BitVec.ofBool b

/-- 16-bit forms with A and the 6-bit field F:B (R54). -/
def hForm (i : BitVec 6) (a : Reg) (m : BitVec 4) : BitVec 16 := i ++ a ++ m ++ 0#1

/-- 16-bit forms with A, B and F (R54). -/
def habForm (f : BitVec 1) (b a : Reg) (m : BitVec 4) : BitVec 16 := f ++ b ++ a ++ m ++ 0#1

/-- FP's fn (R41). -/
def fpFn (f : FFmt) (r : BitVec 3) (op : BitVec 5) : BitVec 10 := encFFmt f ++ r ++ op

/-- FCVT's fn (R43). -/
def cvtFn (r : Rm) (op s t : BitVec 2) : BitVec 10 := encRm r ++ op ++ s ++ t ++ 0#1

/-- VARITH's fn (R44): type, must-be-zero, class, operation. -/
def vaFn (t : BitVec 2) (cls : BitVec 1) (op : BitVec 6) : BitVec 10 := t ++ 0#1 ++ cls ++ op

/-- VMISC's fn (R46): type, sub-operation, operation. -/
def vmFn (t : BitVec 2) (sub : BitVec 3) (op : BitVec 5) : BitVec 10 := t ++ sub ++ op

/-- RED's fn (R114). -/
def redFn (w : Bool) (op : BitVec 3) : BitVec 10 := 0#1 ++ b1 w ++ 0#5 ++ op

/-- The word of an instruction, written from the encoding tables of chapter 2; none for an event. -/
inductive Code where
  | w32 (w : BitVec 32)
  | w16 (w : BitVec 16)
  | none
  deriving DecidableEq, Repr

/-- The encoding of an instruction (R32 to R54). -/
def encode : Instr → Code
  | .add d a b => .w32 (rForm 0 b a d 0x01)
  | .sub d a b => .w32 (rForm 1 b a d 0x01)
  | .and d a b => .w32 (rForm 2 b a d 0x01)
  | .or d a b => .w32 (rForm 3 b a d 0x01)
  | .xor d a b => .w32 (rForm 4 b a d 0x01)
  | .sll d a b => .w32 (rForm 5 b a d 0x01)
  | .srl d a b => .w32 (rForm 6 b a d 0x01)
  | .sra d a b => .w32 (rForm 7 b a d 0x01)
  | .slt d a b => .w32 (rForm 8 b a d 0x01)
  | .sltu d a b => .w32 (rForm 9 b a d 0x01)
  | .min d a b => .w32 (rForm 10 b a d 0x01)
  | .max d a b => .w32 (rForm 11 b a d 0x01)
  | .minu d a b => .w32 (rForm 12 b a d 0x01)
  | .maxu d a b => .w32 (rForm 13 b a d 0x01)
  | .rol d a b => .w32 (rForm 14 b a d 0x01)
  | .ror d a b => .w32 (rForm 15 b a d 0x01)
  | .andn d a b => .w32 (rForm 16 b a d 0x01)
  | .orn d a b => .w32 (rForm 17 b a d 0x01)
  | .xnor d a b => .w32 (rForm 18 b a d 0x01)
  | .addw d a b => .w32 (rForm 0 b a d 0x02)
  | .subw d a b => .w32 (rForm 1 b a d 0x02)
  | .sllw d a b => .w32 (rForm 5 b a d 0x02)
  | .srlw d a b => .w32 (rForm 6 b a d 0x02)
  | .sraw d a b => .w32 (rForm 7 b a d 0x02)
  | .mul d a b => .w32 (rForm 0 b a d 0x03)
  | .mulh d a b => .w32 (rForm 1 b a d 0x03)
  | .mulhu d a b => .w32 (rForm 2 b a d 0x03)
  | .mulhsu d a b => .w32 (rForm 3 b a d 0x03)
  | .div d a b => .w32 (rForm 4 b a d 0x03)
  | .divu d a b => .w32 (rForm 5 b a d 0x03)
  | .rem d a b => .w32 (rForm 6 b a d 0x03)
  | .remu d a b => .w32 (rForm 7 b a d 0x03)
  | .clz d a => .w32 (rForm 0 0 a d 0x0E)
  | .ctz d a => .w32 (rForm 1 0 a d 0x0E)
  | .popc d a => .w32 (rForm 2 0 a d 0x0E)
  | .bswap d a => .w32 (rForm 3 0 a d 0x0E)
  | .sextb d a => .w32 (rForm 4 0 a d 0x0E)
  | .sexth d a => .w32 (rForm 5 0 a d 0x0E)
  | .zextw d a => .w32 (rForm 6 0 a d 0x0E)
  | .addi d a i => .w32 (iForm i a d 0x04)
  | .andi d a i => .w32 (iForm i a d 0x05)
  | .ori d a i => .w32 (iForm i a d 0x06)
  | .xori d a i => .w32 (iForm i a d 0x07)
  | .slli d a s => .w32 (iForm (0#7 ++ 0#2 ++ s) a d 0x08)
  | .srli d a s => .w32 (iForm (0#7 ++ 1#2 ++ s) a d 0x08)
  | .srai d a s => .w32 (iForm (0#7 ++ 2#2 ++ s) a d 0x08)
  | .slti d a i => .w32 (iForm i a d 0x09)
  | .sltiu d a i => .w32 (iForm i a d 0x0A)
  | .addiw d a i => .w32 (iForm i a d 0x0B)
  | .lui d i => .w32 (uForm i d 0x0C)
  | .addpc d i => .w32 (uForm i d 0x0D)
  | .lca d a i => .w32 (iForm (0#1 ++ i) a d 0x0F)
  | .addx2 d a b => .w32 (rForm 0x200 b a d 0x0F)
  | .addx4 d a b => .w32 (rForm 0x201 b a d 0x0F)
  | .addx8 d a b => .w32 (rForm 0x202 b a d 0x0F)
  | .lcr d a b => .w32 (rForm 0x203 b a d 0x0F)
  | .lcx d a => .w32 (rForm 0x204 0 a d 0x0F)
  | .beq a b i => .w32 (lForm i 0 b a 0x10)
  | .bne a b i => .w32 (lForm i 1 b a 0x10)
  | .blt a b i => .w32 (lForm i 2 b a 0x10)
  | .bge a b i => .w32 (lForm i 3 b a 0x10)
  | .bltu a b i => .w32 (lForm i 4 b a 0x10)
  | .bgeu a b i => .w32 (lForm i 5 b a 0x10)
  | .bto i => .w32 (lForm i 6 0 0 0x10)
  | .bnto i => .w32 (lForm i 7 0 0 0x10)
  | .jal d i => .w32 (uForm i d 0x11)
  | .jalr d a i => .w32 (iForm i a d 0x12)
  | .lb d a i => .w32 (lForm i 0 a d 0x14)
  | .lh d a i => .w32 (lForm i 1 a d 0x14)
  | .lw d a i => .w32 (lForm i 2 a d 0x14)
  | .ld d a i => .w32 (lForm i 3 a d 0x14)
  | .lbu d a i => .w32 (lForm i 4 a d 0x14)
  | .lhu d a i => .w32 (lForm i 5 a d 0x14)
  | .lwu d a i => .w32 (lForm i 6 a d 0x14)
  | .sb d a i => .w32 (lForm i 0 a d 0x15)
  | .sh d a i => .w32 (lForm i 1 a d 0x15)
  | .sw d a i => .w32 (lForm i 2 a d 0x15)
  | .sd d a i => .w32 (lForm i 3 a d 0x15)
  | .ldacq d a i => .w32 (lForm i 0 a d 0x16)
  | .ldf d a o b => .w32 (lForm (b ++ o) 1 a d 0x16)
  | .ldfe d a o b => .w32 (lForm (b ++ o) 2 a d 0x16)
  | .probe d a i => .w32 (lForm i 3 a d 0x16)
  | .sdrel d a i => .w32 (lForm i 0 a d 0x17)
  | .ste d a i => .w32 (lForm i 1 a d 0x17)
  | .stf d a o b => .w32 (lForm (b ++ o) 2 a d 0x17)
  | .sete a i => .w32 (lForm i 3 a 0 0x17)
  | .amoadd w d a b => .w32 (eForm (b1 w ++ 0#4) 0 b a d 0x18)
  | .amoand w d a b => .w32 (eForm (b1 w ++ 1#4) 0 b a d 0x18)
  | .amoor w d a b => .w32 (eForm (b1 w ++ 2#4) 0 b a d 0x18)
  | .amoxor w d a b => .w32 (eForm (b1 w ++ 3#4) 0 b a d 0x18)
  | .amomin w d a b => .w32 (eForm (b1 w ++ 4#4) 0 b a d 0x18)
  | .amomax w d a b => .w32 (eForm (b1 w ++ 5#4) 0 b a d 0x18)
  | .amominu w d a b => .w32 (eForm (b1 w ++ 6#4) 0 b a d 0x18)
  | .amomaxu w d a b => .w32 (eForm (b1 w ++ 7#4) 0 b a d 0x18)
  | .amoswap w d a b => .w32 (eForm (b1 w ++ 8#4) 0 b a d 0x18)
  | .amocas w d a b c => .w32 (eForm (b1 w ++ 9#4) c b a d 0x18)
  | .redadd w a b => .w32 (rForm (redFn w 0) b a 0 0x19)
  | .redand w a b => .w32 (rForm (redFn w 1) b a 0 0x19)
  | .redor w a b => .w32 (rForm (redFn w 2) b a 0 0x19)
  | .redxor w a b => .w32 (rForm (redFn w 3) b a 0 0x19)
  | .redmin w a b => .w32 (rForm (redFn w 4) b a 0 0x19)
  | .redmax w a b => .w32 (rForm (redFn w 5) b a 0 0x19)
  | .redminu w a b => .w32 (rForm (redFn w 6) b a 0 0x19)
  | .redmaxu w a b => .w32 (rForm (redFn w 7) b a 0 0x19)
  | .fence p s => .w32 (p ++ s ++ 0#9 ++ 0x1A#6 ++ 1#1)
  | .fadd f r d a b => .w32 (rForm (fpFn f (encRm r) 0) b a d 0x1B)
  | .fsub f r d a b => .w32 (rForm (fpFn f (encRm r) 1) b a d 0x1B)
  | .fmul f r d a b => .w32 (rForm (fpFn f (encRm r) 2) b a d 0x1B)
  | .fdiv f r d a b => .w32 (rForm (fpFn f (encRm r) 3) b a d 0x1B)
  | .fsqrt f r d a => .w32 (rForm (fpFn f (encRm r) 4) 0 a d 0x1B)
  | .fmin f d a b => .w32 (rForm (fpFn f 0 5) b a d 0x1B)
  | .fmax f d a b => .w32 (rForm (fpFn f 0 6) b a d 0x1B)
  | .fsgcpy f d a b => .w32 (rForm (fpFn f 0 7) b a d 0x1B)
  | .fsgneg f d a b => .w32 (rForm (fpFn f 0 8) b a d 0x1B)
  | .fsgxor f d a b => .w32 (rForm (fpFn f 0 9) b a d 0x1B)
  | .feq f d a b => .w32 (rForm (fpFn f 0 10) b a d 0x1B)
  | .flt f d a b => .w32 (rForm (fpFn f 0 11) b a d 0x1B)
  | .fle f d a b => .w32 (rForm (fpFn f 0 12) b a d 0x1B)
  | .fclass f d a => .w32 (rForm (fpFn f 0 13) 0 a d 0x1B)
  | .frcpe f d a => .w32 (rForm (fpFn f 0 14) 0 a d 0x1B)
  | .frsqe f d a => .w32 (rForm (fpFn f 0 15) 0 a d 0x1B)
  | .fma f d a b c => .w32 (eForm (0#1 ++ encFFmt f ++ 0#2) c b a d 0x1C)
  | .fms f d a b c => .w32 (eForm (0#1 ++ encFFmt f ++ 1#2) c b a d 0x1C)
  | .fnma f d a b c => .w32 (eForm (0#1 ++ encFFmt f ++ 2#2) c b a d 0x1C)
  | .fnms f d a b c => .w32 (eForm (0#1 ++ encFFmt f ++ 3#2) c b a d 0x1C)
  | .fcvtI r s t d a => .w32 (rForm (cvtFn r 0 (encCvtTy s) (encIntTy t)) 0 a d 0x1D)
  | .fcvtF r s t d a => .w32 (rForm (cvtFn r 1 (encIntTy s) (encCvtTy t)) 0 a d 0x1D)
  | .fcvtFf r s t d a => .w32 (rForm (cvtFn r 2 (encCvtTy s) (encCvtTy t)) 0 a d 0x1D)
  | .vadd t d a b => .w32 (rForm (vaFn (encIType t) 0 0) (v5 b) (v5 a) (v5 d) 0x1E)
  | .vsub t d a b => .w32 (rForm (vaFn (encIType t) 0 1) (v5 b) (v5 a) (v5 d) 0x1E)
  | .vmul t d a b => .w32 (rForm (vaFn (encIType t) 0 2) (v5 b) (v5 a) (v5 d) 0x1E)
  | .vand t d a b => .w32 (rForm (vaFn (encIType t) 0 3) (v5 b) (v5 a) (v5 d) 0x1E)
  | .vor t d a b => .w32 (rForm (vaFn (encIType t) 0 4) (v5 b) (v5 a) (v5 d) 0x1E)
  | .vxor t d a b => .w32 (rForm (vaFn (encIType t) 0 5) (v5 b) (v5 a) (v5 d) 0x1E)
  | .vsll t d a b => .w32 (rForm (vaFn (encIType t) 0 6) (v5 b) (v5 a) (v5 d) 0x1E)
  | .vsrl t d a b => .w32 (rForm (vaFn (encIType t) 0 7) (v5 b) (v5 a) (v5 d) 0x1E)
  | .vsra t d a b => .w32 (rForm (vaFn (encIType t) 0 8) (v5 b) (v5 a) (v5 d) 0x1E)
  | .vfadd t d a b => .w32 (rForm (vaFn (encFType t) 1 0) (v5 b) (v5 a) (v5 d) 0x1E)
  | .vfsub t d a b => .w32 (rForm (vaFn (encFType t) 1 1) (v5 b) (v5 a) (v5 d) 0x1E)
  | .vfmul t d a b => .w32 (rForm (vaFn (encFType t) 1 2) (v5 b) (v5 a) (v5 d) 0x1E)
  | .vfdiv t d a b => .w32 (rForm (vaFn (encFType t) 1 3) (v5 b) (v5 a) (v5 d) 0x1E)
  | .vfmin t d a b => .w32 (rForm (vaFn (encFType t) 1 4) (v5 b) (v5 a) (v5 d) 0x1E)
  | .vfmax t d a b => .w32 (rForm (vaFn (encFType t) 1 5) (v5 b) (v5 a) (v5 d) 0x1E)
  | .vrcpe d a => .w32 (rForm (vaFn 2 1 6) 0 (v5 a) (v5 d) 0x1E)
  | .vrsqe d a => .w32 (rForm (vaFn 2 1 7) 0 (v5 a) (v5 d) 0x1E)
  | .vfma t d a b c => .w32 (eForm (0#2 ++ encFType t ++ 0#1) (v5 c) (v5 b) (v5 a) (v5 d) 0x1F)
  | .vfnma t d a b c => .w32 (eForm (0#2 ++ encFType t ++ 1#1) (v5 c) (v5 b) (v5 a) (v5 d) 0x1F)
  | .vld d a i => .w32 (lForm i 0 a (v5 d) 0x20)
  | .vst d a i => .w32 (lForm i 1 a (v5 d) 0x20)
  | .vlds d a i => .w32 (lForm i 2 a (v5 d) 0x20)
  | .vsts d a i => .w32 (lForm i 3 a (v5 d) 0x20)
  | .vgath d a v => .w32 (lForm (v ++ 0#9) 4 a (v5 d) 0x20)
  | .vscat d a v => .w32 (lForm (v ++ 0#9) 5 a (v5 d) 0x20)
  | .vbcast t d a => .w32 (rForm (vmFn (encIType t) 0 0) 0 a (v5 d) 0x21)
  | .vext t d a b => .w32 (rForm (vmFn (encIType t) 0 1) b (v5 a) d 0x21)
  | .vins t d a b => .w32 (rForm (vmFn (encIType t) 0 2) b a (v5 d) 0x21)
  | .vsel t d a b => .w32 (rForm (vmFn (encIType t) 0 3) (v5 b) (v5 a) (v5 d) 0x21)
  | .vcmp o d a b => .w32 (rForm (vmFn (encVCmp o).2 (encVCmp o).1 4) (v5 b) (v5 a) (v5 d) 0x21)
  | .vred o d a => .w32 (rForm (vmFn (encVRed o).2 (encVRed o).1 5) 0 (v5 a) d 0x21)
  | .vperm t d a b => .w32 (rForm (vmFn (encIType t) 0 6) (v5 b) (v5 a) (v5 d) 0x21)
  | .vcvt k d a => .w32 (rForm (encVCvt k ++ 7#5) 0 (v5 a) (v5 d) 0x21)
  | .vpack m d a => .w32 (rForm (vmFn (encBx m) 0 8) 0 (v5 a) (v5 d) 0x21)
  | .vunpk m d a => .w32 (rForm (vmFn (encBx m) 0 9) 0 (v5 a) (v5 d) 0x21)
  | .mma n d a b c => .w32 (eForm (0#4 ++ encAcc n) c b a d 0x22)
  | .accz n d => .w32 (eForm (1#4 ++ encAcc n) 0 0 0 d 0x22)
  | .accld n d a => .w32 (eForm (2#4 ++ encAcc n) 0 0 a d 0x22)
  | .accst n d a => .w32 (eForm (3#4 ++ encAcc n) 0 0 a d 0x22)
  | .accmv n d => .w32 (eForm (4#4 ++ encAcc n) 0 0 0 d 0x22)
  | .wbld d a b c => .w32 (eForm (5#4 ++ 0#1) c b a d 0x22)
  | .shpchk d a => .w32 (eForm 0 0 0 a d 0x23)
  | .cpyin h d a b c => .w32 (eForm (1#4 ++ encChan h) c b a d 0x23)
  | .cpyout h d a b c => .w32 (eForm (2#4 ++ encChan h) c b a d 0x23)
  | .cpyll h d a b c => .w32 (eForm (3#4 ++ encChan h) c b a d 0x23)
  | .cstat h d => .w32 (eForm (4#4 ++ encChan h) 0 0 0 d 0x23)
  | .sbind q a => .w32 (rForm 0 0 a (q5 q) 0x24)
  | .sunb q => .w32 (rForm 1 0 0 (q5 q) 0x24)
  | .qcnt d q => .w32 (rForm 2 0 (q5 q) d 0x24)
  | .sbindV q a => .w32 (rForm 4 0 a (vq5 q) 0x24)
  | .sunbV q => .w32 (rForm 5 0 0 (vq5 q) 0x24)
  | .qcntV d q => .w32 (rForm 6 0 (vq5 q) d 0x24)
  | .xchg d a b => .w32 (eForm (0#2 ++ 0#3) 0 b a d 0x25)
  | .mcast n d a b c => .w32 (eForm (0#1 ++ b1 n ++ 1#3) c b a d 0x25)
  | .mcastWin n d a b c => .w32 (eForm (0#1 ++ b1 n ++ 2#3) c b a d 0x25)
  | .reduce o d a b c => .w32 (eForm (encRed o ++ 3#3) c b a d 0x25)
  | .halo d a b => .w32 (eForm (0#2 ++ 4#3) 0 b a d 0x25)
  | .gjoin d a b => .w32 (rForm 0 b a d 0x26)
  | .gleave d a => .w32 (rForm 1 0 a d 0x26)
  | .gbar a b => .w32 (rForm 2 b a 0 0x26)
  | .garr d a => .w32 (rForm 3 0 a d 0x26)
  | .gwait a b => .w32 (rForm 4 b a 0 0x26)
  | .ginfo d a b => .w32 (rForm 5 b a d 0x26)
  | .cwait e a b => .w32 (rForm (0#4 ++ encEng e ++ 0#3) b a 0 0x27)
  | .hwait e a b => .w32 (rForm (0#4 ++ encDir e ++ 1#3) b a 0 0x27)
  | .waitc a => .w32 (rForm 2 0 a 0 0x27)
  | .waitw a b => .w32 (rForm 3 b a 0 0x27)
  | .waita d b => .w32 (rForm 4 b 0 d 0x27)
  | .send a b k => .w32 (rForm (k ++ 0#2) b a 0 0x28)
  | .sendr a b k => .w32 (rForm (k ++ 1#2) b a 0 0x28)
  | .spawn d a k => .w32 (rForm (k ++ 2#2) 0 a d 0x28)
  | .join d a b => .w32 (rForm (0#8 ++ 3#2) b a d 0x28)
  | .bind d a b => .w32 (rForm (1#8 ++ 3#2) b a d 0x28)
  | .unbind d a => .w32 (rForm (2#8 ++ 3#2) 0 a d 0x28)
  | .reside d a b => .w32 (rForm (3#8 ++ 3#2) b a d 0x28)
  | .rule d a b => .w32 (rForm (4#8 ++ 3#2) b a d 0x28)
  | .codeld d a b => .w32 (rForm (5#8 ++ 3#2) b a d 0x28)
  | .rdcyc d => .w32 (rForm 0 0 0 d 0x29)
  | .rdwall d => .w32 (rForm 1 0 0 d 0x29)
  | .alc s a => .w32 (rForm (0#5 ++ s ++ 2#4) 0 a 0 0x29)
  | .alw s a => .w32 (rForm (0#5 ++ s ++ 3#4) 0 a 0 0x29)
  | .alx s => .w32 (rForm (0#5 ++ s ++ 4#4) 0 0 0 0x29)
  | .dlarm a => .w32 (rForm 5 0 a 0 0x29)
  | .dlclr => .w32 (rForm 6 0 0 0 0x29)
  | .crr d n => .w32 (iForm (0#3 ++ n) 0 d 0x2A)
  | .crw n a => .w32 (iForm (1#3 ++ n) a 0 0x2A)
  | .crs d n a => .w32 (iForm (2#3 ++ n) a d 0x2A)
  | .crc d n a => .w32 (iForm (3#3 ++ n) a d 0x2A)
  | .trap i => .w32 (rForm (i ++ 0#4) 0 0 0 0x2B)
  | .tret => .w32 (rForm 1 0 0 0 0x2B)
  | .brk i => .w32 (rForm (i ++ 2#4) 0 0 0 0x2B)
  | .taskDone => .w32 (rForm 3 0 0 0 0x2B)
  | .yieldCtx => .w32 (rForm 4 0 0 0 0x2B)
  | .tlbinv a b => .w32 (rForm 5 b a 0 0x2B)
  | .pgmove d a b => .w32 (rForm 6 b a d 0x2B)
  | .swapok a => .w32 (rForm 7 0 a 0 0x2B)
  | .dpoint d a => .w32 (rForm 0 0 a d 0x2C)
  | .rddig d a => .w32 (rForm 1 0 a d 0x2C)
  | .hAddi a i => .w16 (hForm i a 0x0)
  | .hSeti a i => .w16 (hForm i a 0x1)
  | .hCopy a b => .w16 (habForm 0 b a 0x2)
  | .hAdd a b => .w16 (habForm 1 b a 0x2)
  | .hSub a b => .w16 (habForm 0 b a 0x3)
  | .hAnd a b => .w16 (habForm 1 b a 0x3)
  | .hShl a s => .w16 (hForm s a 0x4)
  | .hShr a s => .w16 (hForm s a 0x5)
  | .hLds a o => .w16 (hForm o a 0x6)
  | .hSds a o => .w16 (hForm o a 0x7)
  | .hBz a i => .w16 (hForm i a 0x8)
  | .hBnz a i => .w16 (hForm i a 0x9)
  | .hJmp i => .w16 (i ++ 0xA#4 ++ 0#1)
  | .hJreg a => .w16 (habForm 0 0 a 0xB)
  | .hCallr a => .w16 (habForm 1 0 a 0xB)
  | .hDone => .w16 (habForm 0 0 0 0xC)
  | _ => .none

/-- The instruction word as a trap's tval holds it: a 16-bit one zero-extended (R59). -/
def Code.toWord : Code → Word
  | .w32 w => w.setWidth 64
  | .w16 w => w.setWidth 64
  | .none => 0

/-- The bytes of an instruction as the code store holds them (R7). -/
def Code.bytes : Code → List Byte
  | .w32 w => [w.extractLsb' 0 8, w.extractLsb' 8 8, w.extractLsb' 16 8, w.extractLsb' 24 8]
  | .w16 w => [w.extractLsb' 0 8, w.extractLsb' 8 8]
  | .none => []

/-- The bytes of an instruction of nbits bits numbered as the opcode table numbers them, completed with zero bytes to
the longest instruction. -/
def tableBytes (nbits w : Nat) : List Byte :=
  let v : BitVec 32 := BitVec.ofNat 32 (w % 2 ^ nbits)
  [v.extractLsb' 0 8, v.extractLsb' 8 8, v.extractLsb' 16 8, v.extractLsb' 24 8]

/-- The instruction the decoder reads from an opcode-table word; none where it rejects. -/
def decodeTableWord (nbits w : Nat) : Option Instr :=
  match decode (tableBytes nbits w) with
  | .ok (i, _) => some i
  | .error _ => none

end Sys2Proof
end

