-- ==== Sys2Proof/Config.lean ====
section
/-! DEFINITION. What one implementation fixes and the spec leaves open: free values and uninterpreted functions.
None has a body, so a statement about them holds for every value. -/

namespace Sys2Proof.Config

/-- Free bits for the reads that race with a write, where the spec allows the old or the new value of each word
(R137, R175, R274, R281), drawn at State.freeCount. UNVERIFIED: log entry 8. -/
opaque freeBit : Nat → Bool

/-- A free choice of one of n prefixes, for the words a premature ACCST reads (R280), drawn at State.freeCount.
UNVERIFIED: log entry 8. -/
opaque freePick : Nat → Nat

/-- A free value for a place where the spec gives an effect and no value, drawn at State.freeCount. UNVERIFIED: log entry 8. -/
opaque freeWord : Nat → Word

/-- The 64-bit value that stands in a digest for a unit of n bytes, wider than 8, of value v (R386): the spec gives it none.
UNVERIFIED: log entry 8. -/
opaque wideValue : Nat → Nat → Word

/-- The firmware's route table as it stands at boot (R437): the fabric port that leads to a module, modulo 8. DESIGN
CHOICE: log entry 8. -/
opaque route : Nat → Nat

/-- SHA3-256 of a byte string (R453, R455, R464): uninterpreted. DESIGN CHOICE: log entry 7. -/
opaque sha3 : List Byte → BitVec 256

/-- ML-KEM-768 decapsulation of a ciphertext under the key of report number n (R455): uninterpreted. DESIGN CHOICE: log entry 7. -/
opaque mlkemSecret : Nat → List Byte → BitVec 256

/-- The encapsulation key of report number n, 1,184 bytes (R454): uninterpreted. DESIGN CHOICE: log entry 7. -/
opaque mlkemKey : Nat → Vector Byte 1184

/-- The ML-DSA-44 signature, 2,420 bytes, of a byte string under the device identity key (R454): uninterpreted. DESIGN CHOICE: log entry 7. -/
opaque mldsaSign : List Byte → Vector Byte 2420

/-- Whether an image's ML-DSA-44 signature verifies against the fused vendor key (R464): uninterpreted. DESIGN CHOICE: log entry 7. -/
opaque mldsaVerify : List Byte → Bool

/-- The fused rollback counter (R464). DESIGN CHOICE: log entry 7. -/
opaque rollback : Nat

/-- The public identity key of the device (R454). DESIGN CHOICE: log entry 7. -/
opaque identityKey : List Byte

/-- The serial number of the device (R454). DESIGN CHOICE: log entry 7. -/
opaque serialNumber : Word

end Sys2Proof.Config
end

