-- ==== Sys2Proof/Machine/State.lean ====
section
/-! DEFINITION. The state of one AK-12 module as plain data: everything the spec gives the machine, and the model's own
schedule (log entry 1). Numbers of cores, octets, ports and partitions are those of R2; a place in memory is a key of
Machine/Ops.lean's one byte space. -/

namespace Sys2Proof.Machine

/-- A sparse table: pairs of a key and a value, keys rising; an unlisted key has its default. -/
abbrev SMap (α : Type) := List (Nat × α)

/-- How a run can stop. -/
inductive Fault where
  /-- Raised by the home operations when a table of the hardware (page table, group table, directory, log, reference
  table, queue, window table) that a register names lies where R60 says there is no memory. Safe. -/
  | noSuchAddress
  deriving DecidableEq, Repr

/-- Why there is no meaning. -/
inductive Refusal where
  /-- Raised by an arm of exec whose instruction has no meaning in the model. Safe. -/
  | notModelled (mnemonic : String)
  deriving DecidableEq, Repr

/-! ## A context -/

/-- The mark on a register whose AMO was lost or met a poisoned word (R93, R106), with the AMO's VA. -/
inductive Mark where
  | lost (va : Word)
  | poisoned (va : Word)
  deriving DecidableEq, Repr

/-- What an outstanding result is of: a load with its width and extension (R196), or an AMO (R110). -/
inductive PendKind where
  | load (width : Nat) (signed : Bool)
  | amo (w32 : Bool)
  deriving DecidableEq, Repr


/-- An alarm slot (R364). A cycle slot holds the cycle count of its octet at which it fires, a fired slot its stamp. -/
inductive Alarm where
  | idle
  | cycle (target : Nat)
  | wall (t : Word)
  | fired (stamp : Nat)
  deriving DecidableEq, Repr

/-- A bound stream register (R145 to R147): descriptor, position of the next pop, and the elements read ahead. An
element outside the local memory is read as none. -/
structure Stream where
  vec : Bool
  size : Nat
  signed : Bool
  base : Nat
  dims : List (Int × Nat)
  pos : Nat
  ahead : List (Option VWord)
  deriving DecidableEq, Repr

/-- The barrier set of a FENCE (R303): the classes it holds back, and what was outstanding when it issued: store-buffer
entries, posted stores, loads and AMOs, messages, engine operations (engine, number, writes), and whether X is in pred. -/
structure Fence where
  succ : BitVec 8
  scope : Bool
  stores : List Nat
  posted : List Nat
  loads : List Nat
  msgs : List Nat
  ops : List (Eng × Nat × Bool)
  deriving DecidableEq, Repr

/-- What the instructions that run ahead of an unanswered load may change in their context: kept so that a POISON reply can
take the trap precisely (R15, R93, R299). pend: the results outstanding at the load's issue, and where they were to go. -/
structure Regs where
  x : Vector Word 32
  v : Vector VWord 8
  pc : Word
  ih : Bool
  tmo : Bool
  ap : Bool
  pap : Bool
  cause : BitVec 8
  tval : Word
  tpc : Word
  tvec : BitVec 13
  frm : BitVec 3
  fflags : BitVec 5
  mfmt : BitVec 8
  mascale : Word
  mbscale : BitVec 18
  deadline : Word
  dlDue : Option Word
  joinNext : Nat
  joinBase : BitVec 12
  digest : Word
  dordE : BitVec 32
  alarm0 : Alarm
  alarm1 : Alarm
  streams : Vector (Option Stream) 6
  marks : List (Reg × Mark)
  fences : List Fence
  issued : Nat
  brkPass : Option Word
  pend : List (Nat × Reg)
  deriving DecidableEq, Repr

/-- An outstanding load or AMO: where the result goes (x0: nowhere), the module and place of its home (R295), whether it is
an LDACQ (R200), and for a load its context as it was before its issue. -/
structure Pend where
  id : Nat
  reg : Reg
  kind : PendKind
  va : Word
  home : Nat × Nat
  acq : Bool
  saved : Option Regs
  deriving DecidableEq, Repr

/-- A wait of a blocked instruction (R144, R155, R168, R337, R362), with its operands. -/
inductive Wait where
  | engine (e : Eng) (n t : Word)
  | halo (d : Dir) (n t : Word)
  | barrier (g : Nat) (n : BitVec 32) (t : Word) (gbar : Bool)
  | join (rd : Reg) (n base : Nat) (t : Word)
  | cycles (target : Nat)
  | wall (t d : Word)
  | alarm (rd : Reg) (d : Word)
  deriving DecidableEq, Repr

/-- The request whose reply the context's instruction waits for: a full/empty operation with rd, whether a cancel was sent
(R194), and the stream slots before it, for a trap (R15); or a request to a group's entry (R162). -/
inductive ReqWait where
  | fe (req : FeReq) (reg : Reg) (va : Word) (exempt cancelled : Bool) (back : Vector (Option Stream) 6)
  | group (id : Nat)
  deriving DecidableEq, Repr

/-- The state of a context between instructions (R205, R412). blocked: its instruction issues again after the next
change; waiting: a reply completes it; walking: the translation miss of an access is being walked (R76). -/
inductive CtxMode where
  | ready
  | blocked
  | waiting
  | walking (va : Word) (access : Access)
  | parked (va : Word) (access : Access) (level : Nat) (gen : BitVec 32)
  deriving DecidableEq, Repr

/-- What runs in a context (R204): nothing; a task of a class with its priority, the join slot of a SPAWN child (module,
core, offset) and whether it is a launch root; a firing with its rule's counts by port. -/
inductive Run where
  | none
  | task (cls : BitVec 8) (prio : Nat) (join : Option (Nat × Nat × Nat)) (root : Bool)
  | firing (name : Nat) (prio : Nat) (counts : List (Nat × Nat))
  deriving DecidableEq, Repr

/-- A CODELD under way (R341): the image's address, the target core, the stream slots before it, the header words read so
far, the number of 8-byte words copied, the bytes copied (R453), and whether the copy has reached the target. -/
structure CodeCopy where
  va : Word
  target : Nat
  back : Vector (Option Stream) 6
  header : List Word
  pos : Nat
  code : List Byte
  reached : Bool
  deriving DecidableEq, Repr

/-- One hardware context (R204). again: something has changed since its instruction blocked, which is looked at again;
vread: the words that a vector load has read so far, by their offset (R260); mapCopy: the map that an XCHG waiting for
room has copied, with its epoch (R173); inval: a TLBINV under way, with the accesses it waits for (R86): kind, core, context
or engine, number. -/
structure Ctx where
  run : Run
  task : Nat
  mode : CtxMode
  again : Bool
  x : Vector Word 32
  v : Vector VWord 8
  pc : Word
  prv : Bool
  ih : Bool
  tmo : Bool
  ap : Bool
  pap : Bool
  cause : BitVec 8
  tval : Word
  tpc : Word
  tvec : BitVec 13
  frm : BitVec 3
  fflags : BitVec 5
  mfmt : BitVec 8
  mascale : Word
  mbscale : BitVec 18
  deadline : Word
  path : Word
  idem : Bool
  lmode : BitVec 3
  stream : BitVec 2
  lnum : BitVec 16
  joinNext : Nat
  joinBase : BitVec 12
  digest : Word
  dkey : Word
  dordJ : BitVec 32
  dordE : BitVec 32
  alarm0 : Alarm
  alarm1 : Alarm
  streams : Vector (Option Stream) 6
  pend : List Pend
  marks : List (Reg × Mark)
  wait : Option Wait
  waitBack : Vector (Option Stream) 6
  waitGen : BitVec 32
  waitTarget : Option Nat
  req : Option ReqWait
  fences : List Fence
  posted : List Nat
  dlDue : Option Word
  issued : Nat
  serialHeld : Bool
  groupReply : Option (Nat × Word)
  mapCopy : Option (List Word × Nat)
  brkPass : Option Word
  copy : Option CodeCopy
  inval : Option (List (Nat × Nat × Nat × Nat))
  vread : List (Nat × Word)
  dying : Bool
  deriving DecidableEq, Repr

/-! ## A core -/

/-- A store-buffer entry (R198, R294): its request, the context's loads it waits for, whether it is an SDREL, and whether
it has been sent. -/
structure SbEntry where
  id : Nat
  ctx : Nat
  req : StoreReq
  home : Nat
  loads : List Nat
  rel : Bool
  sent : Bool
  deriving DecidableEq, Repr

/-- An entry of the binding table (R318). -/
inductive Binding where
  | task (pc : Word) (prio : Nat)
  | port (p : Nat)
  deriving DecidableEq, Repr

/-- An accepted message with its acceptance stamp (R313) and the order it was accepted in. stays: at its start its class was
unbound and the hold full, so that it stays in the inbox until the class is bound again (R320). -/
structure InEntry where
  msg : Message
  stamp : Nat
  order : Nat
  stays : Bool
  deriving DecidableEq, Repr

/-- An entry of a refusal table (R315): the sender (module, core, the endpoint's port number plus 1 or 0), the network and
the SEQ of the oldest refused message. With endpoint 9 it names a message that hardware built, by the building unit's module
and place and the number under which it built it (R480): no entry of the table, but of the list of what is still refused. -/
structure RefEntry where
  module : Nat
  core : Nat
  endpoint : Nat
  vn : Nat
  seq : Nat
  deriving DecidableEq, Repr

/-- The state of a message in a send queue (R315, R316). -/
inductive SqMode where
  | waiting
  | sent
  | refused
  deriving DecidableEq, Repr

/-- A message in a send queue, with the stores it waits for (R297); one by name with the name, and the module and core
it was last sent to (R327, R353). bounced: the module and core at which it was last refused (R301). -/
structure SqEntry where
  id : Nat
  ctx : Nat
  msg : Message
  stores : List Nat
  posted : List Nat
  name : Option Nat
  target : Nat × Nat
  mode : SqMode
  bounced : Option (Nat × Nat)
  deriving DecidableEq, Repr

/-- The commands of the engine contexts (R118, R156, R269), with what they copied at issue. -/
inductive Cmd where
  | cpyin (dst : Nat) (rec crd : List Word)
  | cpyout (src : Nat) (rec crd : List Word)
  | cpyll (dst src : Word) (len : Nat)
  | halo (desc : List Word) (mask : Nat)
  | xchg (g : Nat) (map : List Word) (rank nmem epoch : Nat)
  | mcast (g : Option Nat) (targets : List (Nat × Nat)) (src dst words : Nat) (fe : Bool)
  | reduce (g rank nmem : Nat) (op : RedOp) (w32 : Bool) (src dst cnt : Nat)
  | mma (n : Acc) (a b k : Word)
  | accz (n : Acc)
  | accld (n : Acc) (a : Nat)
  | accst (n : Acc) (a : Nat) (premature : Bool)
  | accmv (n : Acc)
  | wbld (d : Nat) (a : Word) (len : Nat)
  deriving DecidableEq, Repr

/-- The task an operation belongs to for its digest (R386): the issuing task's serial number, launch, K and J; for a
command over network 2, the carrying SEND's launch and tag. -/
structure Owner where
  task : Nat
  ctx : Nat
  launch : Nat
  key : Word
  j : Nat
  remote : Bool
  path : Word
  deriving DecidableEq, Repr

/-- An issued operation of an engine context. next counts the elements performed, out the pushes, deposits, deliveries
and element accesses sent and not yet acknowledged; read that every read is performed; got the reduction partials combined,
or the lines that a channel has written of its unit; snap what a matrix command read at its start, or the pieces that a
channel has read of its unit; hist the accumulator states since a premature ACCST issued (R280); sample the mfmt, mascale
and mbscale a task left at its end (R278); reply whom a remote copy command answers (R122); walked the page and the KIND of
a walk that gave the operation's access no translation (R76, R78). -/
structure EngOp where
  num : Nat
  owner : Owner
  cmd : Cmd
  stores : List Nat
  posted : List Nat
  started : Bool
  next : Nat
  out : Nat
  read : Bool
  values : List Word
  got : Nat
  result : Bool
  snap : List (Nat × Word)
  hist : List (List (BitVec 32))
  sample : Option (BitVec 8 × Word × BitVec 18)
  fmt : BitVec 8 × Word × BitVec 18
  e : Word
  reply : Option (Nat × Nat)
  walked : Option (Nat × Nat)
  deriving DecidableEq, Repr

/-- A completed operation whose digest has not been folded (R386). -/
structure DoneOp where
  num : Nat
  owner : Owner
  e : Word
  deriving DecidableEq, Repr

/-- An operation that has left its queue with accesses still under way: what it has sent and is not acknowledged, and its
posted stores. -/
structure LateOp where
  num : Nat
  out : Nat
  posted : List Nat
  deriving DecidableEq, Repr

/-- An engine context (R118, R135). halt: KIND, EIDX and F with the stamp; aband: the range that recovery abandoned, its EIDX
and the stamp; hist: the values C took and when; late: the operations dropped or abandoned whose accesses are not all
performed. -/
structure Engine where
  i : Nat
  c : Nat
  queue : List EngOp
  halt : Option (Nat × Nat × Nat × Nat)
  aband : Option (Nat × Nat × Nat × Nat)
  hist : List (Nat × Nat)
  done : List DoneOp
  late : List LateOp
  deriving DecidableEq, Repr

/-- A halo counter with the stamps of its increments (R153, R369). -/
structure HaloCount where
  count : Nat
  hist : List (Nat × Nat)
  deriving DecidableEq, Repr

/-- A group slot (R161). a0, a1: the arrival counters with their map digests. bseenStamp: when BSEEN was last released,
with the releases before it. -/
structure GroupSlot where
  group : Nat
  rank : Nat
  arr : Bool
  bseen : BitVec 32
  hist : List (BitVec 32 × Nat)
  xep : Nat
  xc : Nat
  a0 : Nat
  d0 : Option (BitVec 16)
  a1 : Nat
  d1 : Option (BitVec 16)
  deriving DecidableEq, Repr

/-- An arrival at a group's barrier that waits for the stores it releases (R167). -/
structure Arrival where
  group : Nat
  stores : List Nat
  posted : List Nat
  deriving DecidableEq, Repr

/-- A SPAWN child's delivery that waits for the stores and engine operations it releases (R223). -/
structure JoinOut where
  del : JoinDel
  stores : List Nat
  posted : List Nat
  ops : List (Eng × Nat)
  deriving DecidableEq, Repr

/-- A firing rule (R326): counts by port, priority, handler offset, and since when it has been ready (R321). -/
structure Rule where
  counts : List (Nat × Nat)
  prio : Nat
  pc : Word
  since : Option Nat
  deriving DecidableEq, Repr

/-- A port of a resident: ring head and unconsumed entries (R325), with the origin tags of their messages (R381). -/
structure PortRing where
  head : Nat
  count : Nat
  tags : List Word
  deriving DecidableEq, Repr

/-- A resident (R324, R326, R343). maker: the core, context and task whose RESIDE made it and has not ended (R339). -/
structure Resident where
  name : Nat
  base : Nat
  cls : Nat
  ports : List PortRing
  rules : SMap Rule
  firing : Bool
  ok : Bool
  hcnt : Nat
  maker : Option (Nat × Nat × Nat)
  deriving DecidableEq, Repr

/-- An entry of the partner table (R344). -/
structure Partner where
  name : Nat
  sent : Nat
  recv : Nat
  module : Nat
  core : Nat
  deriving DecidableEq, Repr

/-- What a swap unit knows of the instant under way (R342, R346 to R349): the partner core; its own half of the gain and
its resident's consent as they were sent; whether the partner's half has come; THRESH and HOLDOFF as the instant found
them; and once the pair is to swap, the earlier accesses that the exchange waits for (kind, core, context, number). -/
structure Pairing where
  partner : Nat
  half : Int
  consent : Bool
  heard : Bool
  thresh : Nat
  holdoff : Nat
  swaps : Bool
  waits : List (Nat × Nat × Nat × Nat)
  deriving DecidableEq, Repr

/-- A held full/empty request of a wait table (R190), or with word0 a join delivery that is held as an STF of its word 1
(R223). -/
structure HeldFe where
  req : FeReq
  word0 : Option Word
  stamp : Nat
  order : Nat
  deriving DecidableEq, Repr

/-- The Madder state of a site (R392 to R395): replay queue by partition, held events, and the decisions that are held, in
the order they came: each with its partition, when its hold ends, its context (8 for none) and its tag. -/
structure Site where
  queue : List (Nat × Word)
  hold : List Event
  stalls : List (Nat × Nat × Nat × Word)
  deriving DecidableEq, Repr

/-- One core (R204): what its eight contexts share, and the contexts. stopped: what network 0 has brought while the core's
replay hold is full (R394). -/
structure Core where
  ctxs : Vector Ctx 8
  feat : BitVec 11
  badCode : List Nat
  sb : List SbEntry
  binds : SMap Binding
  inbox : List InEntry
  hold : List InEntry
  refTab : List RefEntry
  refused : List RefEntry
  sq0 : List SqEntry
  sq1 : List SqEntry
  sq2 : List SqEntry
  seq0 : Nat
  seq1 : Nat
  seq2 : Nat
  amolim : BitVec 16
  mode0 : Bool
  mode1 : Bool
  mode2 : Bool
  arm : Bool
  low : BitVec 4
  drainCls : BitVec 8
  drainLaunch : Nat
  drainTag : Word
  drainPath : Word
  latch : Option Message
  stkBase : BitVec 16
  stkSize : BitVec 16
  cp0 : Engine
  cp1 : Engine
  mx : Engine
  cl : Engine
  mxq : Nat
  w0 : Nat
  w1 : Nat
  mxwt : BitVec 4
  haloN : HaloCount
  haloE : HaloCount
  haloS : HaloCount
  haloW : HaloCount
  groups : List GroupSlot
  arrivals : List Arrival
  joins : List JoinOut
  waitTab : List HeldFe
  resident : Option Resident
  partners : Vector (Option Partner) 8
  fwd : Nat
  fwdName : Nat
  fwdTo : Nat
  pairing : Option Pairing
  exch : Option Nat
  exchHeld : List Event
  stopped : List Event
  rr : Vector Nat 4
  site : Site
  dtlb : List (Nat × Word × Word × Bool)
  lastIssue : Option Nat
  deriving DecidableEq, Repr

/-! ## An octet, a memory port -/

/-- Power states (R431). -/
inductive Power where | active | retention | gated
  deriving DecidableEq, Repr

/-- A decombining record (R103): the two requesters, operation, width and operand a; red marks a merge of REDs, lost a
record that cannot be read (R106). -/
structure Record where
  f : ReplyTo
  l : ReplyTo
  op : AmoOp
  w32 : Bool
  a : Word
  red : Bool
  lost : Bool
  deriving DecidableEq, Repr

/-- A staged reduction partial (R158). -/
structure Staged where
  p : Partial
  deriving DecidableEq, Repr

/-- A locator cache entry (R327). -/
structure Locator where
  name : Nat
  module : Nat
  core : Nat
  deriving DecidableEq, Repr

/-- An event on its way, on the channel from src to dst on one network (R99). also: the further sources whose requests
the routers have merged into it (R103); held: its octet's router has held it (R433). -/
structure Flight where
  src : Nat
  dst : Nat
  vn : Nat
  ev : Event
  also : List Nat
  held : Bool
  deriving DecidableEq, Repr

/-- A clock of an octet's island (R425). It has made acc / 1,600,000 cycles by uncore cycle at' and runs at khz from there
(an uncore cycle is 1,600,000 kHz). -/
structure Clock where
  khz : Nat
  at' : Nat
  acc : Nat
  deriving DecidableEq, Repr

/-- A vector unit (R248): the octet-clock cycle in which it last accepted an instruction, and the in-octet index from which
its round robin looks next. -/
structure Quad where
  last : Option Nat
  next : Nat
  deriving DecidableEq, Repr

/-- One octet's shared state. clocks: those of the cores by in-octet index, then the octet clock; winIdx counts the ratio
windows captured, winBase holds the cores' counts at the last one's end, winWhole whether the octet has been active since
then; occupant is the partition that occupies its cores, or did last (R435). -/
structure Octet where
  power : Power
  idleSince : Option Nat
  held : List Flight
  clocks : Vector Clock 9
  winIdx : Nat
  winBase : Vector Nat 8
  winWhole : Bool
  ratio : Vector (BitVec 10) 8
  quads : Vector Quad 2
  level : Nat
  arbIdx : Nat
  arbLeft : Nat
  array : Option (Nat × Nat)
  fill : Option (Nat × Nat)
  staging : List Staged
  engInbox : List Message
  locators : List Locator
  notices : List Notice
  counters : Vector (BitVec 48) 8
  sources : Vector (BitVec 8) 8
  overflow : BitVec 8
  records : List (Nat × Record)
  occupant : Option Nat
  deriving DecidableEq, Repr

/-- A page move served by its source port (R83): source frame key, destination module and frame key, the PTE's module and
key, lines copied, whether a line is on its way to another module, whether switched, and the module and partition that
asked. -/
structure Move where
  src : Nat
  dstModule : Nat
  dst : Nat
  pteModule : Nat
  pteKey : Nat
  pteValue : Word
  copied : Nat
  sending : Bool
  switched : Bool
  pid : Nat
  va : Word
  deriving DecidableEq, Repr

/-- One memory port (R90 to R92, R190, R84). queue lists the lines with a write-queue entry; lastIn is the uncore cycle of
the last access accepted and the router input port it came by (R90); fwd the requests forwarded to another module, by the
number under which their replies return here (R79). -/
structure Port where
  queue : List Nat
  stopped : List Event
  waitTab : List HeldFe
  moves : List (Nat × Move)
  site : Site
  lastIn : Option (Nat × Nat)
  fwd : List (Nat × Event)
  deriving DecidableEq, Repr

/-! ## A partition -/

/-- A launch (R328 to R331, R387). -/
structure Launch where
  num : Nat
  mode : Nat
  idem : Bool
  stream : Nat
  request : Message
  path : Word
  digest : Word
  unrecorded : Bool
  reexec : Bool
  deriving DecidableEq, Repr

/-- What a pre-empted partition left behind (R419): cores, octets, the cells, tags and poison of local memory, code store,
weight buffers and accumulators, the refused deposits and partials to be sent again, and the decisions that memory ports
hold for it, with the accesses of them; the contexts' remaining run cycles and the remaining time of a core's Madder holds
are part of the cores. -/
structure Saved where
  cores : SMap Core
  octets : SMap Octet
  cells : List Host.Cell
  tags : SMap Nat
  poison : List Nat
  resends : List Event
  stalls : SMap (List (Nat × Nat × Nat × Word))
  holds : SMap (List Event)
  deriving DecidableEq, Repr

/-- The stages of a partition (R418); stopped by a fatal machine check (R429). -/
inductive Stage where
  | running
  | preempting (host : Nat)
  | saved
  | stopped
  deriving DecidableEq, Repr

/-- A host's access to the memory of a partition under way (R451): the number of the load or store that is out, the
partition, whether it writes, the window's base, the offset of the word that is out, the words to write from there on (one
for each word to read), and what has been read. -/
structure Rma where
  id : Nat
  pid : Nat
  write : Bool
  base : Nat
  off : Nat
  left : List Word
  got : List Word
  deriving DecidableEq, Repr

/-- A host send whose messages have not all met their end at a receiver (R448): its port, the SEQ of those, and the index
of its first discarded message. -/
structure HostSend where
  eth : Nat
  seqs : List Nat
  error : Option Nat
  deriving DecidableEq, Repr

/-- One partition: its rectangle and key, its supervisor registers (R30) and its launch sequencer. -/
structure Partition where
  ox0 : Nat
  oy0 : Nat
  wm1 : Nat
  hm1 : Nat
  key : BitVec 16
  conf : Bool
  stage : Stage
  saved : Option Saved
  featmask : BitVec 11
  ptBase : BitVec 32
  ptEn : Bool
  grpBase : BitVec 32
  grpLimit : BitVec 13
  resBase : BitVec 32
  resEn : Bool
  swThresh : BitVec 32
  swHoldoff : BitVec 4
  swPeriod : BitVec 16
  swEn : Bool
  mlogBase : BitVec 32
  mlogLsz : BitVec 4
  mlogEn : Bool
  logHigh : Bool
  logFull : Bool
  logAband : Bool
  logNext : BitVec 40
  mstall : BitVec 32
  mrefBase : BitVec 32
  mrefRsz : BitVec 5
  mrefWr : Bool
  mrefEn : Bool
  svqBase : BitVec 32
  svqSz : BitVec 4
  svqEn : Bool
  svqHead : BitVec 32
  svqTail : BitVec 32
  fltOvf : BitVec 16
  fltGen : BitVec 32
  filter : List (BitVec 39)
  svNdrop : BitVec 16
  svEn : Bool
  svPort : BitVec 2
  svCore : BitVec 14
  psave : BitVec 32
  pwIdle : BitVec 3
  pwP0 : BitVec 3
  pwP1 : BitVec 3
  pwP2 : BitVec 3
  pwP3 : BitVec 3
  gate : BitVec 16
  ret : BitVec 16
  penergy : Word
  hcls : BitVec 8
  hostEn : Bool
  hostCore : BitVec 14
  rmaBase : BitVec 32
  rmaN : BitVec 12
  streams : Vector (List (Message × Bool)) 4
  active : Vector (Option Nat) 4
  seqRef : List RefEntry
  seqRefused : List RefEntry
  launches : List Launch
  nextNum : Nat
  brkHalt : Bool
  epSeq : Vector Nat 4
  epCount : Nat
  epQ : List SqEntry
  sends : List HostSend
  lastEth : Nat
  session : Option (BitVec 256 × BitVec 256)
  authFails : Nat
  report : Option (Nat × BitVec 256)
  measG : BitVec 256
  measM : BitVec 256
  readPos : Nat
  recorder : Option Nat
  deriving DecidableEq, Repr

/-! ## The device -/

/-- A rail (R428). overAt: when the current last exceeded LIMIT, in wall units (R430). -/
structure Rail where
  emerg : Bool
  derate : Bool
  cap : Nat
  ph : Nat
  limit : Nat
  overAt : Nat
  deriving DecidableEq, Repr

/-- A fabric port (R441). keys counts the keys that the link's ends have agreed, flits the flits received under the present
ones (R456). -/
structure FabPort where
  retry : BitVec 16
  stomp : BitVec 16
  lanes : BitVec 4
  mode : BitVec 2
  peer : BitVec 12
  keys : Nat
  flits : Nat
  deriving DecidableEq, Repr

/-- A packet that is not acknowledged: its last transmission, in wall units, and their number so far (R442). -/
structure Unacked where
  packet : Packet
  last : Nat
  tries : Nat
  deriving DecidableEq, Repr

/-- End-to-end delivery to and from one module on one network (R442). -/
structure Pair where
  module : Nat
  vn : Nat
  nextNum : Nat
  unacked : List Unacked
  expect : Nat
  deriving DecidableEq, Repr

/-- What leaves the device for the host (R448, R449, R451, R457, R458, R464). -/
inductive HostOut where
  | answer (words : List Word)
  | event (evseq : Nat) (words : List Word)
  | send (pid eth : Nat) (words : List Word)
  | sendDone (pid : Nat) (error : Option Nat)
  | rmaDone (pid : Nat) (error : Option Nat) (data : List Word)
  | report (bytes : List Byte)
  | bootFailure
  deriving DecidableEq, Repr

/-- The latched snapshot (R462). -/
structure Snapshot where
  octets : SMap (Vector (BitVec 48) 8 × BitVec 8)
  rails : List Rail
  ports : List FabPort
  summary : List Word
  deriving DecidableEq, Repr

/-- The boot state (R464). -/
inductive Boot where | off | failed | running
  deriving DecidableEq, Repr

/-! ## The schedule (the model's own, log entry 1) -/

/-- What can go wrong with the hardware, as an input of the run (R93, R106, R186, R423). -/
inductive Upset where
  | poison (key : Nat)
  | record (octet idx : Nat)
  | code (core off : Nat)
  deriving DecidableEq, Repr

/-- One turn of the schedule: a core issues; a flight lands; two waiting requests meet in a router (R102); an input of
the surroundings; an upset; uncore cycles pass. -/
inductive Turn where
  | issue (core : Nat)
  | deliver (k : Nat)
  | combine (i j octet : Nat)
  | input (ev : Event)
  | upset (u : Upset)
  | elapse (n : Nat)
  deriving DecidableEq, Repr

/-- A walk of a cluster's page-table walkers (R76): the partition, the page, whether it starts afresh from ptroot (R78), and
the accesses that wait for it. -/
structure Walk where
  pid : Nat
  page : Nat
  fresh : Bool
  waiters : List WalkReq
  deriving DecidableEq, Repr

/-- A move of a page of this module's address spaces that a port of another module serves (R83, R88). -/
structure FarMove where
  pid : Nat
  va : Word
  module : Nat
  src : Nat
  deriving DecidableEq, Repr

/-- The state of the module. now counts uncore cycles since cold boot. commonOctet is the state of every octet that octets
does not list. walkers holds each cluster's walks in arrival order, of which the first eight are under way. routes are the
changes of the route table of R437. far holds the words of the hardware's own tables that an event has read on other modules,
where a move has taken them (R79), and farReads such events: with the number of the read that is out, 0 for none, and its
key. rmas are the host's accesses under way (R451). fabOut lists the packets that have left, each by its port. -/
structure State where
  now : Nat
  wallUnits : Nat
  ppm : Int
  mem : List Host.Cell
  tags : SMap Nat
  poison : List Nat
  cores : SMap Core
  octets : SMap Octet
  ports : SMap Port
  parts : SMap Partition
  tlbs : SMap (List (Nat × Word × Word × Bool))
  walkCache : SMap (List (Nat × Word × Word))
  walkers : SMap (List Walk)
  commonOctet : Octet
  routes : SMap Nat
  farMoves : List FarMove
  far : SMap Word
  farReads : List (Nat × Nat × Event)
  rmas : List Rma
  rails : Vector Rail 16
  fabPorts : Vector FabPort 8
  fabric : List Pair
  module : Nat
  boot : Boot
  measF : BitVec 256
  evseq : Nat
  mchecks : Nat
  snapAt : Option Nat
  snapshot : Option Snapshot
  snapTaken : Option Snapshot
  reports : Nat
  hostOut : List HostOut
  fabOut : List (Nat × Packet)
  fabAcks : List (Nat × Nat × Nat)
  focusCore : Nat
  focusCtx : Nat
  flights : List Flight
  timers : List (Nat × Event)
  turns : List Turn
  serial : Nat
  freeCount : Nat
  deriving DecidableEq, Repr

/-! ## Reset -/

/-- A context that holds nothing (R321 states a task's start; before any task, log entry 5). -/
def Ctx.reset : Ctx where
  run := .none
  task := 0
  mode := .ready
  again := false
  x := Vector.replicate 32 0
  v := Vector.replicate 8 0
  pc := 0
  prv := false
  ih := false
  tmo := false
  ap := false
  pap := false
  cause := 0
  tval := 0
  tpc := 0
  tvec := 0
  frm := 0
  fflags := 0
  mfmt := 0
  mascale := 0
  mbscale := 0
  deadline := 0
  path := 0
  idem := false
  lmode := 0
  stream := 0
  lnum := 0
  joinNext := 0
  joinBase := 0
  digest := 0
  dkey := 0
  dordJ := 0
  dordE := 0
  alarm0 := .idle
  alarm1 := .idle
  streams := Vector.replicate 6 none
  pend := []
  marks := []
  wait := none
  waitBack := Vector.replicate 6 none
  waitGen := 0
  waitTarget := none
  req := none
  fences := []
  posted := []
  dlDue := none
  issued := 0
  serialHeld := false
  groupReply := none
  mapCopy := none
  brkPass := none
  copy := none
  inval := none
  vread := []
  dying := false

/-- An engine context as a partition's creation leaves it (R118). -/
def Engine.reset : Engine where
  i := 0
  c := 0
  queue := []
  halt := none
  aband := none
  hist := []
  done := []
  late := []

/-- A halo counter at partition creation (R153). -/
def HaloCount.reset : HaloCount where
  count := 0
  hist := []

/-- A Madder site with nothing in it. -/
def Site.reset : Site where
  queue := []
  hold := []
  stalls := []

/-- A core as a partition's creation leaves it (R118, R153, R183, R280, R317, R318, R321, R332; log entry 5). -/
def Core.reset : Core where
  ctxs := Vector.replicate 8 Ctx.reset
  feat := 0
  badCode := []
  sb := []
  binds := []
  inbox := []
  hold := []
  refTab := []
  refused := []
  sq0 := []
  sq1 := []
  sq2 := []
  seq0 := 0
  seq1 := 0
  seq2 := 0
  amolim := 20
  mode0 := false
  mode1 := true
  mode2 := false
  arm := false
  low := 0
  drainCls := 0
  drainLaunch := 0
  drainTag := 0
  drainPath := 0
  latch := none
  stkBase := 0xDFF0
  stkSize := 0x0400
  cp0 := Engine.reset
  cp1 := Engine.reset
  mx := Engine.reset
  cl := Engine.reset
  mxq := 0
  w0 := 0
  w1 := 0
  mxwt := 1
  haloN := HaloCount.reset
  haloE := HaloCount.reset
  haloS := HaloCount.reset
  haloW := HaloCount.reset
  groups := []
  arrivals := []
  joins := []
  waitTab := []
  resident := none
  partners := Vector.replicate 8 none
  fwd := 0
  fwdName := 0
  fwdTo := 0
  pairing := none
  exch := none
  exchHeld := []
  stopped := []
  rr := Vector.replicate 4 0
  site := Site.reset
  dtlb := []
  lastIssue := none

/-- An octet at reset (R270, R431, R460; the clock is the nominal 1.2 GHz, log entry 5). -/
def Octet.reset : Octet where
  power := .active
  idleSince := none
  held := []
  clocks := Vector.replicate 9 ⟨1200000, 0, 0⟩
  winIdx := 0
  winBase := Vector.replicate 8 0
  winWhole := false
  ratio := Vector.replicate 8 0
  quads := Vector.replicate 2 ⟨none, 0⟩
  level := 0
  arbIdx := 7
  arbLeft := 0
  array := none
  fill := none
  staging := []
  engInbox := []
  locators := []
  notices := []
  counters := Vector.replicate 8 0
  sources := Vector.replicate 8 0
  overflow := 0
  records := []
  occupant := none

/-- A memory port at reset. -/
def Port.reset : Port where
  queue := []
  stopped := []
  waitTab := []
  moves := []
  site := Site.reset
  lastIn := none
  fwd := []

/-- A partition's registers at the reset values of R31, R69, R159, R327, R342, R389, R407, R410, R414, R419, R426, R432,
R435, R447, R450, and an idle launch sequencer. -/
def Partition.reset : Partition where
  ox0 := 0
  oy0 := 0
  wm1 := 0
  hm1 := 0
  key := 0
  conf := false
  stage := .running
  saved := none
  featmask := 0x7FF
  ptBase := 0
  ptEn := false
  grpBase := 0
  grpLimit := 0
  resBase := 0
  resEn := false
  swThresh := 0x00010000
  swHoldoff := 8
  swPeriod := 50
  swEn := false
  mlogBase := 0
  mlogLsz := 0
  mlogEn := false
  logHigh := false
  logFull := false
  logAband := false
  logNext := 0
  mstall := 100
  mrefBase := 0
  mrefRsz := 4
  mrefWr := false
  mrefEn := false
  svqBase := 0
  svqSz := 0
  svqEn := false
  svqHead := 0
  svqTail := 0
  fltOvf := 0
  fltGen := 0
  filter := []
  svNdrop := 0
  svEn := false
  svPort := 0
  svCore := 0
  psave := 0
  pwIdle := 0
  pwP0 := 3
  pwP1 := 3
  pwP2 := 3
  pwP3 := 3
  gate := 0
  ret := 0
  penergy := 0
  hcls := 0
  hostEn := false
  hostCore := 0
  rmaBase := 0
  rmaN := 0
  streams := Vector.replicate 4 []
  active := Vector.replicate 4 none
  seqRef := []
  seqRefused := []
  launches := []
  nextNum := 1
  brkHalt := false
  epSeq := Vector.replicate 4 0
  epCount := 0
  epQ := []
  sends := []
  lastEth := 0
  session := none
  authFails := 0
  report := none
  measG := 0
  measM := 0
  readPos := 0
  recorder := none

/-- A rail at reset (R428). -/
def Rail.reset : Rail where
  emerg := false
  derate := false
  cap := 7
  ph := 8
  limit := 800
  overAt := 0

/-- A fabric port at reset (R441). -/
def FabPort.reset : FabPort where
  retry := 0
  stomp := 0
  lanes := 0
  mode := 0
  peer := 0
  keys := 0
  flits := 0

/-- The module right after reset: no partition exists, nothing has been booted, memory lists nothing (log entries 3 and
5 name the values the spec leaves open). -/
def State.reset : State where
  now := 0
  wallUnits := 0
  ppm := 0
  mem := []
  tags := []
  poison := []
  cores := []
  octets := []
  ports := []
  parts := []
  tlbs := []
  walkCache := []
  walkers := []
  commonOctet := Octet.reset
  routes := []
  farMoves := []
  far := []
  farReads := []
  rmas := []
  rails := Vector.replicate 16 Rail.reset
  fabPorts := Vector.replicate 8 FabPort.reset
  fabric := []
  module := 0
  boot := .off
  measF := 0
  evseq := 1
  mchecks := 0
  snapAt := none
  snapshot := none
  snapTaken := none
  reports := 0
  hostOut := []
  fabOut := []
  fabAcks := []
  focusCore := 0
  focusCtx := 0
  flights := []
  timers := []
  turns := []
  serial := 0
  freeCount := 0

end Sys2Proof.Machine
end

