-- ==== Sys2Proof/Machine/Ops.lean ====
section
/-! DEFINITION. The named operations over the state: sparse tables, the one byte space, time, registers, the schedule,
taking a trap and returning from one. -/

namespace Sys2Proof.Machine

/-! ## Sparse tables -/

/-- The value at a key, d where the key is not listed. -/
def mapGet {α : Type} (d : α) : SMap α → Nat → α
  | [], _ => d
  | (j, w) :: t, k => if k = j then w else mapGet d t k

/-- The value at a key, if it is listed. -/
def mapFind {α : Type} : SMap α → Nat → Option α
  | [], _ => none
  | (j, w) :: t, k => if k = j then some w else mapFind t k

/-- The table with a new value at a key, its place kept in rising order. -/
def mapSet {α : Type} : SMap α → Nat → α → SMap α
  | [], k, v => [(k, v)]
  | (j, w) :: t, k, v =>
    if k < j then (k, v) :: (j, w) :: t
    else if k = j then (k, v) :: t
    else (j, w) :: mapSet t k v

/-- The table without a key. -/
def mapDel {α : Type} : SMap α → Nat → SMap α
  | [], _ => []
  | (j, w) :: t, k => if k = j then mapDel t k else (j, w) :: mapDel t k

/-! ## The one byte space

Keys: device memory at its PA (R60); the local memory of core c at 2^48 + 65,536 c; its code store at 2^49 + 16,384 c;
the weight buffer of octet o at 2^50 + 262,144 o; the accumulators of core c at 2^51 + 8,192 c. -/

/-- The key of a local memory byte. -/
def localKey (core off : Nat) : Nat := 0x1000000000000 + core * 65536 + off

/-- The key of a code store byte. -/
def codeKey (core off : Nat) : Nat := 0x2000000000000 + core * 16384 + off

/-- The key of a weight buffer byte. -/
def bufKey (octet off : Nat) : Nat := 0x4000000000000 + octet * 262144 + off

/-- The key of an accumulator byte. -/
def accKey (core : Nat) (a : Acc) (off : Nat) : Nat :=
  0x8000000000000 + core * 8192 + (match a with | .acc0 => 0 | .acc1 => 4096) + off

/-- A PA that is memory (R60). -/
def paOk (pa : Nat) : Bool :=
  pa < 0x2000000000 || (0x10000000000 ≤ pa && pa < 0x18000000000)

/-- A key of device memory. -/
def isDevice (key : Nat) : Bool := key < 0x1000000000000

/-- The memory port of a PA, 0 to 255 the vaults, 256 to 271 the edge ports (R61, R62). -/
def portOf (pa : Nat) : Nat :=
  if pa < 0x2000000000 then pa / 65536 % 256 else 256 + pa / 65536 % 16

/-- Places of the mesh: cores, then ports at 12,288 (the sites of R390), octet engines, sequencers, the outside. -/
def portPlace (p : Nat) : Nat := 12288 + p

/-- The place of an octet's engines. -/
def octetPlace (o : Nat) : Nat := 20000 + o

/-- The place of a partition's launch sequencer. -/
def seqPlace (p : Nat) : Nat := 22000 + p

/-- The place of the host and of the Ethernet ports. -/
def outside : Nat := 30000

/-- The fabric port by which everything for a module leaves (R437): as the firmware's route table has it, with the changes
that followed it. -/
def State.routeOf (s : State) (m : Nat) : Nat :=
  match mapFind s.routes m with
  | some p => p
  | none => Config.route m % 8

/-- The place of a module beyond the fabric: what comes from it or goes there passes the fabric port of its route, and
keeps its order when that route changes (R99, R440). -/
def fabPlace (m : Nat) : Nat := 30001 + m

/-- The place that is the home of a key (R64, R111). -/
def homePlace (key : Nat) : Nat :=
  if isDevice key then portPlace (portOf key) else (key - 0x1000000000000) / 65536

/-- The byte at a key. An unlisted byte reads zero: local memory, code store and weight buffer as R183, R332 and R273
say, device memory and accumulators by log entries 3 and 5 (DESIGN CHOICE). -/
def memGet : List Host.Cell → Nat → Byte
  | [], _ => 0
  | (j, w) :: t, k => if k = j then w else memGet t k

/-- The memory without a listed byte. -/
def memDel : List Host.Cell → Nat → List Host.Cell
  | [], _ => []
  | (j, w) :: t, k => if k = j then memDel t k else (j, w) :: memDel t k

/-- The memory with a listed byte. -/
def memIns : List Host.Cell → Nat → Byte → List Host.Cell
  | [], k, v => [(k, v)]
  | (j, w) :: t, k, v =>
    if k < j then (k, v) :: (j, w) :: t
    else if k = j then (k, v) :: t
    else (j, w) :: memIns t k v

/-- One byte stored: zero is not listed, so that equal memories are equal lists. -/
def memSet (m : List Host.Cell) (k : Nat) (v : Byte) : List Host.Cell :=
  if v = 0 then memDel m k else memIns m k v

/-- Keys rising, all at or above lo, no byte zero. -/
def memSorted : Nat → List Host.Cell → Bool
  | _, [] => true
  | lo, (k, v) :: t => lo ≤ k && v != 0 && memSorted (k + 1) t

/-- The canonical form of a memory. -/
def Memory.wf (m : List Host.Cell) : Bool := memSorted 0 m

/-- n bytes from a key, the lowest address least significant (R7). -/
def memRead (m : List Host.Cell) : Nat → Nat → Nat
  | _, 0 => 0
  | k, n + 1 => (memGet m k).toNat + 256 * memRead m (k + 1) n

/-- n bytes of a value stored at a key, the least significant first (R7). -/
def memWrite (m : List Host.Cell) : Nat → Nat → Nat → List Host.Cell
  | _, 0, _ => m
  | k, n + 1, v => memWrite (memSet m k (BitVec.ofNat 8 v)) (k + 1) n (v / 256)

/-- A range of bytes cleared. -/
def memClear (m : List Host.Cell) (lo n : Nat) : List Host.Cell :=
  m.filter fun c => c.1 < lo || lo + n ≤ c.1

/-- A range of bytes alone. -/
def memRange (m : List Host.Cell) (lo n : Nat) : List Host.Cell :=
  m.filter fun c => lo ≤ c.1 && c.1 < lo + n

/-- The cells of a list stored. -/
def memPut (m : List Host.Cell) : List Host.Cell → List Host.Cell
  | [] => m
  | (k, v) :: t => memPut (memSet m k v) t

/-- One byte of the machine's memory. -/
def State.byte (s : State) (key : Nat) : Byte := memGet s.mem key

/-- A little-endian value of n bytes. -/
def State.read (s : State) (key n : Nat) : Nat := memRead s.mem key n

/-- The 64-bit word at a key. -/
def State.word (s : State) (key : Nat) : Word := BitVec.ofNat 64 (memRead s.mem key 8)

/-- A value of n bytes stored. -/
def State.write (s : State) (key n v : Nat) : State := { s with mem := memWrite s.mem key n v }

/-- The key of the 8-byte word that holds a byte. -/
def wordKey (key : Nat) : Nat := key / 8 * 8

/-- The tag of the word that holds a byte (R182, R188). -/
def State.tag (s : State) (key : Nat) : Bool := (mapFind s.tags (wordKey key)).isSome

/-- The word's tag set full, stamped now, or emptied. -/
def State.setTag (s : State) (key : Nat) (full : Bool) : State :=
  if full then { s with tags := mapSet s.tags (wordKey key) s.wallUnits }
  else { s with tags := mapDel s.tags (wordKey key) }

/-- Whether the word that holds a byte is poisoned (R93, R186). -/
def State.poisoned (s : State) (key : Nat) : Bool := s.poison.contains (wordKey key)

/-- A key placed in a rising list. -/
def insertKey : List Nat → Nat → List Nat
  | [], k => [k]
  | j :: t, k => if k < j then k :: j :: t else if k = j then j :: t else j :: insertKey t k

/-- A word poisoned. The tag of a poisoned word cannot be read; a whole-word store leaves it empty (R186). -/
def State.setPoison (s : State) (key : Nat) : State := { s with poison := insertKey s.poison (wordKey key) }

/-- A word's poison cleared by a whole-word store, which leaves the tag empty (R186). -/
def State.clearPoison (s : State) (key : Nat) : State :=
  if s.poisoned key then
    { s with poison := s.poison.filter (· != wordKey key), tags := mapDel s.tags (wordKey key) }
  else s

/-! ## The parts of the die -/

/-- The core's state. -/
def State.core (s : State) (c : Nat) : Core := mapGet Core.reset s.cores c

/-- The state with one core's state replaced. -/
def State.setCore (s : State) (c : Nat) (k : Core) : State := { s with cores := mapSet s.cores c k }

/-- One core changed. -/
def State.modCore (s : State) (c : Nat) (f : Core → Core) : State := s.setCore c (f (s.core c))

/-- A core's context. -/
def Core.ctx (k : Core) (i : Nat) : Ctx := k.ctxs[i % 8]'(Nat.mod_lt _ (by decide))

/-- A core with one context replaced. -/
def Core.setCtx (k : Core) (i : Nat) (c : Ctx) : Core :=
  { k with ctxs := k.ctxs.set (i % 8) c (Nat.mod_lt _ (by decide)) }

/-- The context k of core c. -/
def State.ctx (s : State) (c k : Nat) : Ctx := (s.core c).ctx k

/-- The state with one context replaced. -/
def State.setCtx (s : State) (c k : Nat) (x : Ctx) : State := s.setCore c ((s.core c).setCtx k x)

/-- One context changed. -/
def State.modCtx (s : State) (c k : Nat) (f : Ctx → Ctx) : State := s.setCtx c k (f (s.ctx c k))

/-- The octet's state. -/
def State.octet (s : State) (o : Nat) : Octet := mapGet s.commonOctet s.octets o

/-- The state with one octet's state replaced. -/
def State.setOctet (s : State) (o : Nat) (x : Octet) : State := { s with octets := mapSet s.octets o x }

/-- One octet changed. -/
def State.modOctet (s : State) (o : Nat) (f : Octet → Octet) : State := s.setOctet o (f (s.octet o))

/-- The memory port's state. -/
def State.port (s : State) (p : Nat) : Port := mapGet Port.reset s.ports p

/-- One port changed. -/
def State.modPort (s : State) (p : Nat) (f : Port → Port) : State :=
  { s with ports := mapSet s.ports p (f (s.port p)) }

/-! ## Where a line is (R79) -/

/-- The move of a frame that its source port serves. -/
def findMove (frame : Nat) : List (Nat × Move) → Option Move
  | [] => none
  | (_, m) :: t => if m.src = frame then some m else findMove frame t

/-- The module and key at which an access that reaches the home of a device byte is performed, where that port has copied
the line (R79). -/
def State.forward (s : State) (key : Nat) : Option (Nat × Nat) :=
  if !isDevice key then none
  else match findMove (key / 65536 * 65536) (s.port (portOf key)).moves with
    | none => none
    | some m => if key % 65536 / 64 < m.copied then some (m.dstModule, m.dst + key % 65536) else none

/-- Where an access at a key is performed: through at most n moves, as long as they stay on this module. -/
def State.homeOf (s : State) : Nat → Nat → Nat × Nat
  | 0, key => (s.module, key)
  | n + 1, key => match s.forward key with
    | none => (s.module, key)
    | some (m, k) => if m = s.module then s.homeOf n k else (m, k)

/-- Where an access at a key is performed now (R79): the moves of the ports chain at most once each. -/
def State.homeNow (s : State) (key : Nat) : Nat × Nat :=
  s.homeOf ((s.ports.map fun p => p.2.moves.length).sum + 1) key

/-- The key at which a byte of the own module's device memory now lies, the old one where its line has gone to another
module. -/
def State.settle (s : State) (key : Nat) : Nat :=
  let r := s.homeNow key
  if r.1 = s.module then r.2 else key

/-- The line of a device key is on its way to another module (R79). -/
def State.lineAway (s : State) (key : Nat) : Bool :=
  match findMove (key / 65536 * 65536) (s.port (portOf key)).moves with
  | some m => m.sending && key % 65536 / 64 == m.copied
  | none => false

/-- A partition that exists. -/
def State.part (s : State) (p : Nat) : Option Partition := mapFind s.parts p

/-- One existing partition changed. -/
def State.modPart (s : State) (p : Nat) (f : Partition → Partition) : State :=
  match s.part p with
  | some x => { s with parts := mapSet s.parts p (f x) }
  | none => s

/-- x of a core number (R307). -/
def coreX (c : Nat) : Nat := c % 192

/-- y of a core number (R307). -/
def coreY (c : Nat) : Nat := c / 192

/-- The core at (x, y). -/
def coreAt (x y : Nat) : Nat := y * 192 + x

/-- The octet of a core (R2): 4 × 2 cores. -/
def octetOf (c : Nat) : Nat := coreY c / 2 * 48 + coreX c / 4

/-- The index of a core in its octet (R346). -/
def inOctet (c : Nat) : Nat := coreY c % 2 * 4 + coreX c % 4

/-- The core of index i in an octet. -/
def octetCore (o i : Nat) : Nat := coreAt (o % 48 * 4 + i % 4) (o / 48 * 2 + i / 4)

/-- The cluster of a core: 4 × 4 octets (R74). -/
def clusterOf (c : Nat) : Nat := octetOf c / 48 / 4 * 12 + octetOf c % 48 / 4

/-- The rail that feeds an octet (R428). -/
def railOf (o : Nat) : Nat := o % 48 / 3

/-- Whether an octet lies in a partition's rectangle (R310). -/
def Partition.hasOctet (p : Partition) (o : Nat) : Bool :=
  p.ox0 ≤ o % 48 && o % 48 ≤ p.ox0 + p.wm1 && p.oy0 ≤ o / 48 && o / 48 ≤ p.oy0 + p.hm1

/-- Whether a core lies in a partition. -/
def Partition.hasCore (p : Partition) (c : Nat) : Bool := c < 12288 && p.hasOctet (octetOf c)

/-- The number of cores of a partition (R311). -/
def Partition.cores (p : Partition) : Nat := 8 * (p.wm1 + 1) * (p.hm1 + 1)

/-- The core at an index of the partition (R311). -/
def Partition.coreOf (p : Partition) (i : Nat) : Nat :=
  coreAt (4 * p.ox0 + i % (4 * (p.wm1 + 1))) (2 * p.oy0 + i / (4 * (p.wm1 + 1)))

/-- The octets of a partition. -/
def Partition.octets (p : Partition) : List Nat :=
  (List.range (p.hm1 + 1)).flatMap fun y => (List.range (p.wm1 + 1)).map fun x => (p.oy0 + y) * 48 + p.ox0 + x

/-- The partition that occupies a core: a saved one occupies nothing (R418). -/
def findPart (c : Nat) : SMap Partition → Option (Nat × Partition)
  | [] => none
  | (i, p) :: t => if p.hasCore c && p.stage != .saved then some (i, p) else findPart c t

/-- The partition of a core, if it has one. -/
def State.partOf (s : State) (c : Nat) : Option (Nat × Partition) := findPart c s.parts

/-- The number of a core's partition; 64 stands for none. -/
def State.pidOf (s : State) (c : Nat) : Nat := match s.partOf c with | some (i, _) => i | none => 64

/-- A core's partition, or one at reset values where it has none. -/
def State.partAt (s : State) (c : Nat) : Partition := match s.partOf c with | some (_, p) => p | none => Partition.reset

/-! ## Time (R357, R358, R369) -/

/-- Wall units in a wall nanosecond. -/
def unitsPerNs : Nat := 1600000

/-- Wall time in whole ns (R357). -/
def State.wallNs (s : State) : Nat := s.wallUnits / unitsPerNs

/-- A stamp lies before the wall time t (R370). -/
def before (stamp : Nat) (t : Word) : Bool := stamp < t.toNat * unitsPerNs

/-- Wall has reached t. -/
def State.reached (s : State) (t : Word) : Bool := t.toNat * unitsPerNs ≤ s.wallUnits

/-- A stamp counts under a deadline t, 0 for none (R370). -/
def counts (stamp : Nat) (t : Word) : Bool := t == 0 || before stamp t

/-- Wall units of one uncore cycle, by the discipline's rate (R358). -/
def State.rate (s : State) : Nat := (1000000 + s.ppm).toNat

/-- A clock of an octet (R425): those of its cores by in-octet index, 8 the octet clock. -/
def Octet.clock (o : Octet) (i : Nat) : Clock := o.clocks[i % 9]'(Nat.mod_lt _ (by decide))

/-- A clock's accumulated count at uncore cycle n, in 1/1,600,000 cycle. It stands still in retention and while gated
(R357). -/
def Octet.accAt (o : Octet) (i n : Nat) : Nat :=
  let k := o.clock i
  if o.power = .active then k.acc + (n - k.at') * k.khz else k.acc

/-- Cycles of an octet's clock by uncore cycle n. -/
def Octet.cyclesAt (o : Octet) (i n : Nat) : Nat := o.accAt i n / 1600000

/-- A clock of an octet replaced. -/
def Octet.setClock (o : Octet) (i : Nat) (k : Clock) : Octet :=
  { o with clocks := o.clocks.set (i % 9) k (Nat.mod_lt _ (by decide)) }

/-- A clock of an octet at a new frequency from now on: the first edge after the change falls one new period after the last
edge before it (R425). -/
def Octet.retime (o : Octet) (i now khz : Nat) : Octet :=
  let acc := o.accAt i now
  let part := Nat.min (acc % 1600000 * khz / (o.clock i).khz) 1600000
  o.setClock i ⟨khz, now, acc / 1600000 * 1600000 + part⟩

/-- The clocks of an octet stop, or go on, at uncore cycle n. -/
def Octet.settleClocks (o : Octet) (n : Nat) : Octet :=
  { o with clocks := Vector.ofFn fun i : Fin 9 => ⟨(o.clock i).khz, n, o.accAt i n⟩ }

/-- The frequencies of an octet's clocks brought between two bounds. -/
def Octet.boundClocks (o : Octet) (now lo hi : Nat) : Octet :=
  (List.range 9).foldl (fun o i =>
    let k := Nat.min hi (Nat.max lo (o.clock i).khz)
    if k = (o.clock i).khz then o else o.retime i now k) o

/-- Cycles of a core's clock (R357). -/
def State.cycle (s : State) (c : Nat) : Nat := (s.octet (octetOf c)).cyclesAt (inOctet c) s.now

/-- The wall time in units, rounded down, at which a core's clock made its cycle n, since the last change of its rate
(R5, R364). -/
def State.wallOfCycle (s : State) (c n : Nat) : Nat :=
  let x := s.octet (octetOf c)
  let k := (x.clock (inOctet c)).khz
  s.wallUnits - ((x.accAt (inOctet c) s.now - n * 1600000) * s.rate + (k - 1)) / k

/-- The wall time in units of the uncore cycle in which a core's clock made its cycle n (R369). -/
def State.stampOfCycle (s : State) (c n : Nat) : Nat :=
  let x := s.octet (octetOf c)
  let k := (x.clock (inOctet c)).khz
  s.wallUnits - (x.accAt (inOctet c) s.now - n * 1600000 + (k - 1)) / k * s.rate

/-! ## The schedule (log entry 1) -/

/-- An event sent on a channel. -/
def State.fly (s : State) (src dst vn : Nat) (ev : Event) : State :=
  { s with flights := s.flights ++ [⟨src, dst, vn, ev, [], false⟩] }

/-- A request sent towards its home on the mesh: to the place of its key, or to the fabric port that leads to its module. -/
def State.ask (s : State) (core module place : Nat) (ev : Event) : State :=
  s.fly core (if module = s.module then place else fabPlace module) 0 ev

/-- An event sent unless the same one is already under way. -/
def State.flyOnce (s : State) (src dst vn : Nat) (ev : Event) : State :=
  if s.flights.any fun f => f.ev == ev then s else s.fly src dst vn ev

/-- A timer placed in order of its due time, after those of the same time. -/
def timerIns (due : Nat) (ev : Event) : List (Nat × Event) → List (Nat × Event)
  | [] => [(due, ev)]
  | (d, e) :: t => if due < d then (due, ev) :: (d, e) :: t else (d, e) :: timerIns due ev t

/-- An event armed at a wall time in units. -/
def State.arm (s : State) (due : Nat) (ev : Event) : State := { s with timers := timerIns due ev s.timers }

/-- An event armed at wall time t. -/
def State.armAt (s : State) (t : Word) (ev : Event) : State := s.arm (t.toNat * unitsPerNs) ev

/-- An event armed in ns from now. -/
def State.armIn (s : State) (ns : Nat) (ev : Event) : State := s.arm (s.wallUnits + ns * unitsPerNs) ev

/-- Every armed copy of an event dropped. -/
def State.disarm (s : State) (ev : Event) : State := { s with timers := s.timers.filter fun t => t.2 != ev }

/-- The source of a message on the mesh: its core, the unit that built it, or the outside. -/
def State.messageSource (s : State) (m : Message) : Nat :=
  if m.side.endpoint ≠ 0 then outside
  else if m.side.hardware then (if m.side.unit.1 = s.module then m.side.unit.2 else fabPlace m.side.unit.1)
  else if m.smod ≠ s.module then fabPlace m.smod
  else coreAt m.sx m.sy

/-- The contexts whose requests a request stands for, the one it took its place from first: its own, or those of a merge
(R103). n bounds the chain of records. -/
def State.askers (s : State) : Nat → ReplyTo → List Who
  | _, .ctx w => [w]
  | 0, .record _ _ _ => []
  | n + 1, .record m o i =>
    if m ≠ s.module then []
    else match mapFind (s.octet o).records i with
      | some r => s.askers n r.f ++ s.askers n r.l
      | none => []

/-- The contexts whose request an event is. -/
def State.askersOf (s : State) : Event → List Who
  | .remoteStore r => s.askers 32 r.reply
  | .amoRequest r => s.askers 32 r.reply
  | .remoteLoad r => [r.who]
  | .fullEmptyRequest r => [r.who]
  | .fullEmptyCancel r => [r.who]
  | .groupEntryUpdate r => [r.who]
  | _ => []

/-- Where a context's request enters the mesh: at its core, or where what comes from its module does. -/
def State.entryOf (s : State) (w : Who) : Nat := if w.module = s.module then w.core else fabPlace w.module

/-- A request towards a place, with every source it has (R99, R103). -/
def State.askFlight (s : State) (place src : Nat) (e : Event) : Flight :=
  match (s.askersOf e).map s.entryOf with
  | a :: l => ⟨a, place, 0, e, l, false⟩
  | [] => ⟨src, place, 0, e, [], false⟩

/-- The flight that brings an event to a place: the channel it came by (R99). -/
def State.flightTo (s : State) (place : Nat) (e : Event) : Flight :=
  match e with
  | .remoteStore r => s.askFlight place r.src e
  | .remoteLoad r => s.askFlight place r.who.core e
  | .fullEmptyRequest r => s.askFlight place r.who.core e
  | .fullEmptyCancel r => s.askFlight place r.who.core e
  | .amoRequest r => s.askFlight place r.src e
  | .messageAcceptance c m => ⟨s.messageSource m, c, m.vn, e, [], false⟩
  | .hostClassMessage m => ⟨s.messageSource m, m.dest, m.vn, e, [], false⟩
  | .copyCommand m => ⟨s.messageSource m, m.dest, m.vn, e, [], false⟩
  | .collectiveCommand m => ⟨s.messageSource m, m.dest, m.vn, e, [], false⟩
  | .matrixCommand m => ⟨s.messageSource m, m.dest, m.vn, e, [], false⟩
  | .launchRequest m => ⟨s.messageSource m, seqPlace (s.pidOf (coreAt m.sx m.sy)), m.vn, e, [], false⟩
  | .deposit d => ⟨d.srcCore, d.dstCore, 2, e, [], false⟩
  | .multicastDelivery d => ⟨d.srcCore, d.dstCore, 2, e, [], false⟩
  | .haloPush d => ⟨d.srcCore, d.dstCore, 2, e, [], false⟩
  | .reducePartial d => ⟨d.srcCore, d.dstCore, 2, e, [], false⟩
  | .reduceResult d => ⟨d.srcCore, d.dstCore, 2, e, [], false⟩
  | .supervisorNotice n => ⟨octetPlace n.octet, place, 3, e, [], false⟩
  | .barrierRelease _ _ _ => ⟨place, place, 1, e, [], false⟩
  | .groupEntryUpdate r => s.askFlight place r.who.core e
  | .joinDelivery _ => ⟨place, place, 0, e, [], false⟩
  | .refused _ _ _ => ⟨place, place, 1, e, [], false⟩
  | _ => ⟨place, place, 0, e, [], false⟩

/-- Events that were held on their way to a place come on again, in their order and before what followed them on their
channels (R99). -/
def State.resend (s : State) (place : Nat) (l : List Event) : State :=
  { s with flights := l.map (s.flightTo place) ++ s.flights }

/-- An octet is being woken (R433). -/
def State.wakes (s : State) (o : Nat) : Bool :=
  s.flights.any fun f => match f.ev with | .octetWake q _ => q == o | _ => false

/-- An octet begins to wake, once (R433). -/
def State.startWake (s : State) (o : Nat) : State :=
  let none' : RetLoss := ⟨false, [], false, [], [], []⟩
  if s.wakes o then s
  else s.fly (octetPlace o) (octetPlace o) 3 (.octetWake o none')

/-- The next serial number, and the state that has used it. -/
def State.fresh (s : State) : Nat × State := (s.serial + 1, { s with serial := s.serial + 1 })

/-- A free bit (log entry 8), and the state that has drawn it. -/
def State.drawBit (s : State) : Bool × State := (Config.freeBit s.freeCount, { s with freeCount := s.freeCount + 1 })

/-- A free number (log entry 8), and the state that has drawn it. -/
def State.drawPick (s : State) : Nat × State := (Config.freePick s.freeCount, { s with freeCount := s.freeCount + 1 })

/-- A free word (log entry 8), and the state that has drawn it. -/
def State.drawWord (s : State) : Word × State := (Config.freeWord s.freeCount, { s with freeCount := s.freeCount + 1 })

/-- The context waits for a walk (R76). -/
def CtxMode.isWalking : CtxMode → Bool
  | .walking _ _ => true
  | _ => false

/-- The context is parked (R412). -/
def CtxMode.isParked : CtxMode → Bool
  | .parked _ _ _ _ => true
  | _ => false

/-- A blocked context's instruction is to be looked at again. -/
def Ctx.wake (c : Ctx) : Ctx := match c.mode with | .blocked => { c with again := true } | _ => c

/-- Every blocked context of a core, looked at again. -/
def Core.wake (k : Core) : Core := { k with ctxs := k.ctxs.map Ctx.wake }

/-- Every blocked context of the die, looked at again. -/
def State.wakeAll (s : State) : State := { s with cores := s.cores.map fun p => (p.1, p.2.wake) }

/-! ## Leaving the module (R436, R442) -/

/-- The end-to-end state with a module on a network. -/
def findPair (m vn : Nat) : List Pair → Pair
  | [] => ⟨m, vn, 0, [], 0⟩
  | p :: t => if p.module = m ∧ p.vn = vn then p else findPair m vn t

/-- One pair replaced or added. -/
def setPair (p : Pair) : List Pair → List Pair
  | [] => [p]
  | q :: t => if q.module = p.module ∧ q.vn = p.vn then p :: t else q :: setPair p t

/-- Something sent to another module, by the port of its route (R437): numbered, kept until it is acknowledged, and
retransmitted 10 wall µs after the last transmission of the oldest one (R442). -/
def State.toModule (s : State) (m vn : Nat) (c : Cargo) : State :=
  let p := findPair m vn s.fabric
  let k : Packet := ⟨s.module, m, vn, p.nextNum, c⟩
  let s' := { s with
    fabric := setPair { p with nextNum := (p.nextNum + 1) % 2 ^ 32, unacked := p.unacked ++ [⟨k, s.wallUnits, 1⟩] } s.fabric
    fabOut := s.fabOut ++ [(s.routeOf m, k)] }
  if p.unacked.isEmpty then (s'.disarm (.fabricRetransmit m vn)).armIn 10000 (.fabricRetransmit m vn) else s'

/-! ## Words of the hardware's own tables -/

/-- A port that has stopped accepting on network 0 keeps what arrives in the router, in order (R92). -/
def State.stopAt (s : State) (port : Nat) (e : Event) : State := s.modPort port fun q => { q with stopped := q.stopped ++ [e] }

/-- A store of the hardware itself to a key of a module, which its port sends. -/
def State.hardwareStore (s : State) (module key n : Nat) (v : Word) : StoreReq × State :=
  let (id, s) := s.fresh
  let place := portPlace (portOf key)
  (⟨.ctx ⟨s.module, place, 32, id⟩, place, 64, 0, module, .bytes key n v, false, 0, 0⟩, s)

/-- Whether an event is a store of the hardware itself to the line of a key. -/
def hardwareStoreOf (key : Nat) : Event → Bool
  | .remoteStore r => match r.op with
    | .bytes k _ _ => r.src == portPlace (portOf key) && k / 64 == key / 64
    | _ => false
  | _ => false

/-- An access of the hardware at the home of a key is performed at once: the line lies on this module, is not on its way, and
no earlier store of the hardware to it waits. -/
def State.steady (s : State) (key : Nat) : Bool :=
  let r := s.homeNow key
  r.1 == s.module && !s.lineAway r.2 && !(s.port (portOf r.2)).stopped.any (hardwareStoreOf r.2)
    && !s.flights.any fun f => hardwareStoreOf r.2 f.ev

/-- n bytes stored by the hardware at their home, a whole word clearing poison (R79, R80, R93): at once, or behind the copy of
their line, or on the module where that now is. -/
def State.putHome (s : State) (key n : Nat) (v : Word) : State :=
  let r := s.homeNow key
  if s.steady key then (if n = 8 then s.clearPoison r.2 else s).write r.2 n v.toNat
  else if r.1 ≠ s.module then
    let (q, s) := s.hardwareStore r.1 r.2 n v
    let s : State := if n = 8 && (mapFind s.far key).isSome then { s with far := mapSet s.far key v } else s
    s.toModule r.1 0 (.store q)
  else
    let (q, s) := s.hardwareStore s.module r.2 n v
    if s.lineAway r.2 then s.stopAt (portOf r.2) (.remoteStore q)
    else s.fly (portPlace (portOf r.2)) (portPlace (portOf r.2)) 0 (.remoteStore q)

/-- A whole word stored by the hardware at its home. -/
def State.putWord (s : State) (key : Nat) (v : Word) : State := s.putHome key 8 v

/-- Words stored by the hardware from a key. -/
def State.putWords (s : State) (key : Nat) : List Word → State
  | [] => s
  | w :: t => (s.putWord key w).putWords (key + 8) t

/-- The key of the first of some words whose line lies on another module and which the event under way has not read. -/
def State.missing (s : State) (keys : List Nat) : Option Nat :=
  keys.find? fun k => (s.homeNow k).1 != s.module && (mapFind s.far (wordKey k)).isNone

/-- A word of the hardware's own tables, at its home (R73, R79); on another module as the event under way has read it. -/
def State.tableWord (s : State) (key : Nat) : Word :=
  let here := s.word (s.settle key)
  if (s.homeNow key).1 = s.module then here else mapGet here s.far (wordKey key)

/-- A read of the word of a key on the module to which its line has gone, for an event that goes on with the answer. -/
def State.readFar (s : State) (key : Nat) (e : Event) : State :=
  let (id, s) := s.fresh
  let r := s.homeNow (wordKey key)
  let s : State := { s with farReads := (id, wordKey key, e) :: s.farReads.filter fun x => x.2.2 != e }
  s.toModule r.1 0 (.load ⟨⟨s.module, portPlace (portOf key), 33, id⟩, 64, r.1, r.2, 8, 0⟩)

/-- The event that read on other modules has ended: those that have waited for it come on. -/
def State.farDone (s : State) (e : Event) : State :=
  match s.farReads with
  | (i, _, d) :: t =>
    if d ≠ e ∨ i ≠ 0 then s
    else
      { s with
        far := [], farReads := []
        flights := t.map (fun x => ⟨portPlace (portOf x.2.1), portPlace (portOf x.2.1), 3, x.2.2, [], false⟩) ++ s.flights }
  | [] => s

/-- An event that reads words of the hardware's own tables: it waits while one lies on another module, until that has
answered; events of this kind go one after the other. -/
def State.withFar (s : State) (e : Event) (keys : List Nat) (f : State → State) : State :=
  match s.missing keys, s.farReads with
  | none, [] => f s
  | none, l => if l.head?.any fun x => x.2.2 == e then (f s).farDone e else f s
  | some k, [] => s.readFar k e
  | some k, (i, q, d) :: t =>
    if d = e then s.readFar k e
    else if t.any fun x => x.2.2 == e then s
    else { s with farReads := (i, q, d) :: t ++ [(0, wordKey k, e)] }

/-- The answer to a read on another module: its event comes on. -/
def State.farAnswer (s : State) (id : Nat) (v : Word) : State :=
  match s.farReads with
  | (i, k, e) :: t =>
    if i = id then
      { s with
        far := mapSet s.far k v, farReads := (0, k, e) :: t
        flights := ⟨portPlace (portOf k), portPlace (portOf k), 3, e, [], false⟩ :: s.flights }
    else s
  | [] => s

/-! ## Counters (R460) -/

/-- The octet's counters of one source advanced by n, the overflow bit set at 2^48. -/
def Octet.count (o : Octet) (src n : Nat) : Octet :=
  (List.range 8).foldl (fun o i =>
    let j : Nat := i % 8
    if (o.sources[j]'(Nat.mod_lt _ (by decide))).toNat = src then
      let v := (o.counters[j]'(Nat.mod_lt _ (by decide))).toNat + n
      { o with
        counters := o.counters.set j (BitVec.ofNat 48 v) (Nat.mod_lt _ (by decide))
        overflow := if v < 2 ^ 48 then o.overflow else o.overflow ||| (1#8 <<< j) }
    else o) o

/-- A counter event in an octet. -/
def State.count (s : State) (oct src n : Nat) : State :=
  if (s.octet oct).sources.toList.all (· == 0) then s else s.modOctet oct fun o => o.count src n

/-! ## Folding (R381, R385) -/

/-- step(d, x) of R381. -/
def fold (d x : Word) : Word := ((d ^^^ x).rotateLeft 23) * 0x9E3779B97F4A7C15

/-- The fold of R385: address, value, and width, kind and op. -/
def foldStore (d a v : Word) (w kind op : Nat) : Word :=
  fold (fold (fold d a) v) (BitVec.ofNat 64 (w + 16 * kind + 256 * op))

/-! ## Registers of a context -/

/-- x[r] as stored; x0 reads zero (R25). -/
def Ctx.getX (c : Ctx) (r : Reg) : Word := if r = 0 then 0 else c.x[r.toNat]'(r.isLt)

/-- x[r] written; x0 discards (R25). -/
def Ctx.putX (c : Ctx) (r : Reg) (v : Word) : Ctx :=
  if r = 0 then c else { c with x := c.x.set r.toNat v r.isLt }

/-- v[r]. -/
def Ctx.getV (c : Ctx) (r : VReg) : VWord := c.v[r.toNat]'(r.isLt)

/-- v[r] written. -/
def Ctx.putV (c : Ctx) (r : VReg) (v : VWord) : Ctx := { c with v := c.v.set r.toNat v r.isLt }

/-- The stream slot of an x register: x28 to x31 are slots 0 to 3 (R145). -/
def xSlot (r : Reg) : Option (Fin 6) :=
  if r = 28 then some 0 else if r = 29 then some 1 else if r = 30 then some 2 else if r = 31 then some 3 else none

/-- The stream slot of a v register: v6 and v7 are slots 4 and 5 (R145). -/
def vSlot (r : VReg) : Option (Fin 6) := if r = 6 then some 4 else if r = 7 then some 5 else none

/-- The stream bound in a slot. -/
def Ctx.bound (c : Ctx) : Option (Fin 6) → Option Stream
  | none => none
  | some i => c.streams[i.val]'(i.isLt)

/-- A slot's stream replaced. -/
def Ctx.setStream (c : Ctx) (i : Fin 6) (b : Option Stream) : Ctx :=
  { c with streams := c.streams.set i.val b i.isLt }

/-- The mark on a register, if it has one. -/
def findMark (r : Reg) : List (Reg × Mark) → Option Mark
  | [] => none
  | (q, m) :: t => if r = q then some m else findMark r t

/-- An instruction's result in x[r]: a bound stream register discards it (R146); a mark on r is cleared (R106) and an
outstanding result for r no longer reaches it. -/
def Ctx.result (c : Ctx) (r : Reg) (v : Word) : Ctx :=
  match c.bound (xSlot r) with
  | some _ => c
  | none =>
    let c := c.putX r v
    if c.marks.isEmpty && c.pend.isEmpty then c
    else { c with
      marks := c.marks.filter fun p => p.1 != r
      pend := c.pend.map fun p => if p.reg = r then { p with reg := 0 } else p }

/-- An instruction's result in v[r]; a bound stream register discards it (R146). -/
def Ctx.resultV (c : Ctx) (r : VReg) (v : VWord) : Ctx :=
  match c.bound (vSlot r) with
  | some _ => c
  | none => c.putV r v

/-! ## How an instruction ends -/

/-- Why an instruction does not complete: a trap (R15), with the changes made (R341), or with a change of the state before
it; a wait in the same three forms; more to do at its next issue, with a change of the state before it; a stop of the
run. -/
inductive Stop where
  | trap (c : BitVec 8) (v : Word)
  | trapIn (s : State) (c : BitVec 8) (v : Word)
  | trapWith (f : State → State) (c : BitVec 8) (v : Word)
  | block
  | blockIn (s : State)
  | blockWith (f : State → State)
  | more (f : State → State)
  | fault (f : Fault)

/-- An instruction under way: the state changes only if it completes. -/
abbrev M := StateT State (Except Stop)

/-- A trap of cause c with value v. -/
def trap {α : Type} (c : BitVec 8) (v : Word) : M α := throw (.trap c v)

/-- The instruction waits at issue and has changed nothing. -/
def block {α : Type} : M α := throw .block

/-- The instruction waits, keeping what it has changed. -/
def blockKeep {α : Type} : M α := do throw (.blockIn (← get))

/-- Wait unless a condition holds. -/
def holdUntil (b : Bool) : M Unit := if b then pure () else block

/-- The focus context. -/
def State.fctx (s : State) : Ctx := s.ctx s.focusCore s.focusCtx

/-- The focus context replaced. -/
def State.setFctx (s : State) (c : Ctx) : State := s.setCtx s.focusCore s.focusCtx c

/-- The focus context changed. -/
def State.modF (s : State) (f : Ctx → Ctx) : State := s.setFctx (f s.fctx)

/-- The focus core. -/
def State.fcore (s : State) : Core := s.core s.focusCore

/-- The focus core changed. -/
def State.modFcore (s : State) (f : Core → Core) : State := s.modCore s.focusCore f

/-- The partition of the focus core. -/
def State.fpart (s : State) : Partition := s.partAt s.focusCore

/-! ## Causes (R401) -/

def cILLOP : BitVec 8 := 0x01
def cILLFEAT : BitVec 8 := 0x02
def cPRIV : BitVec 8 := 0x03
def cMISALIGN : BitVec 8 := 0x04
def cACCESS : BitVec 8 := 0x05
def cXLATE : BitVec 8 := 0x06
def cPERM : BitVec 8 := 0x07
def cPOISON : BitVec 8 := 0x08
def cENGARG : BitVec 8 := 0x09
def cENGFAULT : BitVec 8 := 0x0A
def cSQFULL : BitVec 8 := 0x0B
def cGRPBUSY : BitVec 8 := 0x0C
def cCONTAIN : BitVec 8 := 0x0D
def cAMOLOST : BitVec 8 := 0x0E
def cNDREAD : BitVec 8 := 0x0F
def cTRAP : BitVec 8 := 0x10
def cBREAK : BitVec 8 := 0x11
def cDEADLINE : BitVec 8 := 0x20
def cRETLOST : BitVec 8 := 0x21
def cDIVERGE : BitVec 8 := 0x22
def cDIGEST : BitVec 8 := 0x23
def cLOGFULL : BitVec 8 := 0x24

/-- The causes that go to tvec (R401). -/
def vectors (c : BitVec 8) : Bool := c != cRETLOST && c != cDIVERGE && c != cDIGEST && c != cLOGFULL && c != cXLATE

/-! ## Notices (R408) -/

/-- A notice from a core of the octet: dropped and counted while svloc.EN is 0 or the octet's buffer is full. -/
def State.notice (s : State) (pid oct kind core : Nat) (words : List Word) : State :=
  match s.part pid with
  | none => s
  | some p =>
    if p.svEn && (s.octet oct).notices.length < 4 then
      let n : Notice := ⟨pid, oct, kind, core, words⟩
      (s.modOctet oct fun o => { o with notices := o.notices ++ [n] }).fly
        (octetPlace oct) p.svCore.toNat 3 (.supervisorNotice n)
    else
      s.modPart pid fun p =>
        { p with svNdrop := if p.svNdrop = 0xFFFF then p.svNdrop else p.svNdrop + 1 }

/-- A notice from the octet of a core to its partition. -/
def State.coreNotice (s : State) (core kind : Nat) (words : List Word) : State :=
  s.notice (s.pidOf core) (octetOf core) kind core words

/-! ## Directory (R327) -/

/-- The key of a name's directory entry. -/
def Partition.dirKey (p : Partition) (name : Nat) : Nat := p.resBase.toNat * 65536 + 8 * name

/-- A directory entry: V, MODULE and CORE. -/
def dirEntry (module core : Nat) : Word := BitVec.ofNat 64 (2 ^ 63 + module * 2 ^ 28 + core)

/-- A directory entry written at its home, where the directory names memory. -/
def State.writeDir (s : State) (pid name : Nat) (v : Word) : State :=
  match s.part pid with
  | none => s
  | some p => if paOk (p.dirKey name) then s.putWord (p.dirKey name) v else s

/-! ## The end of a context's task -/

/-- The queued MATRIX operations of a context that ends keep the mfmt, mascale and mbscale it held (R278). -/
def Engine.sampleEnd (e : Engine) (ctx task : Nat) (v : BitVec 8 × Word × BitVec 18) : Engine :=
  { e with queue := e.queue.map fun o =>
      if o.owner.ctx = ctx ∧ o.owner.task = task ∧ o.sample = none then { o with sample := some v } else o }

/-- The key of a group's entry (R159). -/
def Partition.groupKey (p : Partition) (g : Nat) : Nat := (p.grpBase.toNat + g) * 65536

/-- A request of a context (16 for the hardware) to the home of a group's entry. -/
def State.askGroup (s : State) (core ctx id g : Nat) (ask : GroupAsk) : State :=
  let key := (s.partAt core).groupKey g
  s.fly core (portPlace (portOf key)) 0 (.groupEntryUpdate ⟨⟨s.module, core, ctx, id⟩, s.pidOf core, g, ask⟩)

/-- A core's slot for a group changed. -/
def State.modSlot (s : State) (core g : Nat) (f : GroupSlot → GroupSlot) : State :=
  s.modCore core fun q => { q with groups := q.groups.map fun x => if x.group = g then f x else x }

/-- The reply of a group's entry that a context holds given up: a DRAIN increment, and the XEP of an XCHG that has copied its
map, are undone (R15, R173). A reply of code 2 holds an increment, with the group in its low 16 bits. -/
def State.dropReply (s : State) (core k : Nat) : State :=
  let c := s.ctx core k
  match c.groupReply with
  | some (2, w) =>
    let g := w.toNat % 65536
    let s := if c.mapCopy.isSome then s.modSlot core g fun x => { x with xep := x.xep - 1 } else s
    (s.modCtx core k fun c => { c with groupReply := none, mapCopy := none }).askGroup core 16 0 g .drainDown
  | some _ => s.modCtx core k fun c => { c with groupReply := none }
  | none => s

/-- What of an operation outlives its queue entry. -/
def EngOp.lateOf (o : EngOp) : List LateOp := if o.out = 0 && o.posted.isEmpty then [] else [⟨o.num, o.out, o.posted⟩]

/-- Operations under way after they have left the queue, changed; those with nothing left go. -/
def Engine.modLate (e : Engine) (f : LateOp → LateOp) : Engine :=
  if e.late.isEmpty then e else { e with late := (e.late.map f).filter fun o => o.out != 0 || !o.posted.isEmpty }

/-- The completed operations of a context that ends, forgotten (R386: what goes to the launch digest has gone). -/
def Engine.forget (e : Engine) (ctx task : Nat) : Engine :=
  { e with done := e.done.filter fun o => !(o.owner.ctx == ctx && o.owner.task == task) }

/-- A context freed: streams unbound, alarms and deadline cleared, marks discarded (R222). The registers keep their
values until the next start. -/
def State.freeCtx (s : State) (core k : Nat) : State :=
  let s := s.dropReply core k
  let c := s.ctx core k
  let s := s.modCore core fun q =>
    { q with
      cp0 := q.cp0.forget k c.task, cp1 := q.cp1.forget k c.task, cl := q.cl.forget k c.task
      mx := (q.mx.sampleEnd k c.task (c.mfmt, c.mascale, c.mbscale)).forget k c.task }
  let s := s.modCtx core k fun c =>
    { c with
      run := .none, task := 0, mode := .ready, alarm0 := .idle, alarm1 := .idle, deadline := 0, dlDue := none
      streams := Vector.replicate 6 none, marks := [], pend := [], wait := none, waitTarget := none, req := none
      fences := [], copy := none, inval := none, vread := [], dying := false, ap := false, pap := false, ih := false, serialHeld := false, groupReply := none, mapCopy := none }
  (s.disarm (.deadlineTrap core k)).disarm (.waitDeadlineExpiry core k)

/-- The resident of a core removed: directory entry cleared, ports, port-bound classes, rules and its consent to a pairing
under way gone (R339, R356, R405). -/
def State.dropResident (s : State) (core : Nat) : State :=
  match (s.core core).resident with
  | none => s
  | some r =>
    let s := s.writeDir (s.pidOf core) r.name 0
    s.modCore core fun q =>
      { q with
        resident := none, partners := Vector.replicate 8 none, pairing := q.pairing.map fun x => { x with consent := false }
        binds := q.binds.filter fun b => match b.2 with | .port _ => false | .task _ _ => true }

/-- A full/empty operation that a killed context has outstanding is cancelled at its home without a reply (R194, R330). -/
def State.cancelReq (s : State) (core k : Nat) : State :=
  match (s.ctx core k).req with
  | some (.fe r _ _ _ _ _) =>
    s.ask core r.module (homePlace r.key) (.fullEmptyCancel r)
  | _ => s

/-- A fault that is not vectored, or that is raised in a handler (R405). -/
def State.unhandled (s : State) (core k : Nat) (c : BitVec 8) (v : Word) : State :=
  let x := s.ctx core k
  match x.run with
  | .none => s
  | .task _ _ _ _ =>
    if x.lnum != 0 then
      let s := s.fly core (seqPlace (s.pidOf core)) 3
        (.launchEndByFault (s.pidOf core) x.lnum.toNat c.toNat v x.path)
      s.modCtx core k fun x => { x with mode := .waiting }
    else
      ((s.cancelReq core k).freeCtx core k).coreNotice core 9 [BitVec.zeroExtend 64 c, v, x.dkey]
  | .firing name _ _ =>
    let s := ((s.cancelReq core k).dropResident core).freeCtx core k
    s.coreNotice core 8 [BitVec.ofNat 64 name, BitVec.zeroExtend 64 c, v]

/-- A wait or a copy given up: what its instruction popped is put back (R15, R367). -/
def Ctx.unwait (c : Ctx) : Ctx :=
  match c.wait, c.copy with
  | some _, _ => { c with wait := none, waitTarget := none, streams := c.waitBack }
  | none, some p => { c with copy := none, streams := p.back }
  | none, none => c

/-- Taking a trap of cause c with value v in a context, its resume offset the pc (R404): cause, tval and tpc saved, AP
kept in PAP and cleared, IH set, the pc at tvec; unhandled while IH is 1 or tvec.OFF is 0, or when c does not vector. -/
def State.takeTrap (s : State) (core k : Nat) (c : BitVec 8) (v : Word) : State :=
  let s := (s.dropReply core k).modCtx core k Ctx.unwait
  let x := s.ctx core k
  if x.ih || x.tvec == 0 || !vectors c then s.unhandled core k c v
  else
    s.setCtx core k
      { x with
        cause := c, tval := v, tpc := x.pc, pap := x.ap, ap := false, ih := true, copy := none, inval := none, vread := []
        pc := BitVec.zeroExtend 64 x.tvec * 2, mode := .ready }

/-- Returning from a trap (R220, R404): IH cleared, AP restored from PAP, the pc at tpc. -/
def Ctx.trapReturn (x : Ctx) : Ctx := { x with ih := false, ap := x.pap, pc := x.tpc }

/-! ## Running an instruction -/

/-- A context with a load outstanding that may still trap (R93, R299). -/
def Ctx.ahead (c : Ctx) : Bool := c.pend.any fun p => p.saved.isSome

/-- The focus context marked as waiting, unless something else already says why. -/
def State.waits (s : State) : State := s.modF fun x => if x.mode = .ready then { x with mode := .blocked } else x

/-- A trap of the focus context, at once (R297): a load before it that meets poison undoes it (R15). -/
def State.trapHere (s : State) (c : BitVec 8) (v : Word) : State := s.takeTrap s.focusCore s.focusCtx c v

/-- The outcome of an instruction of the focus context: complete, trapped, or waiting with its pc unchanged. -/
def runInstr (m : M Unit) (s : State) : Host.Outcome State Fault Refusal :=
  match m.run s with
  | .ok (_, t) => .next t
  | .error (.trap c v) => .next (s.trapHere c v)
  | .error (.trapIn t c v) => .next (t.trapHere c v)
  | .error (.trapWith f c v) => .next ((f s).trapHere c v)
  | .error .block => .next s.waits
  | .error (.more f) => .next (f s)
  | .error (.blockIn t) => .next t.waits
  | .error (.blockWith f) => .next (f s).waits
  | .error (.fault f) => .fault f

/-- The outcome of an event. -/
def runEvent (m : M Unit) (s : State) : Host.Outcome State Fault Refusal :=
  match m.run s with
  | .ok (_, t) => .next t
  | .error (.fault f) => .fault f
  | .error (.blockIn t) => .next t
  | .error (.trapIn t _ _) => .next t
  | .error (.trapWith f _ _) => .next (f s)
  | .error (.blockWith f) => .next (f s)
  | .error (.more f) => .next (f s)
  | .error (.trap _ _) => .next s
  | .error .block => .next s

/-- An event that is a change of state. -/
def change (f : State → State) (s : State) : Host.Outcome State Fault Refusal := .next (f s)

/-- The focus context in an instruction. -/
def fctx : M Ctx := do return (← get).fctx

/-- The focus context changed by an instruction. -/
def modF (f : Ctx → Ctx) : M Unit := modify fun s => s.modF f

/-- The pc past an instruction of n bytes (R14), its wait state gone. -/
def advance (n : Nat) : M Unit :=
  modF fun c => { c with pc := c.pc + BitVec.ofNat 64 n, wait := none, waitTarget := none, issued := c.issued + 1 }

/-- A 32-bit instruction that goes on to the next one. -/
def seq4 (m : M Unit) (s : State) : Host.Outcome State Fault Refusal := runInstr (do m; advance 4) s

/-- A 16-bit instruction that goes on to the next one. -/
def seq2 (m : M Unit) (s : State) : Host.Outcome State Fault Refusal := runInstr (do m; advance 2) s

end Sys2Proof.Machine
end

