-- ==== Sys2Proof/Machine/Operands.lean ====
section
/-! DEFINITION. Operand forms and the arithmetic of operands: immediates (R33 to R54), sign extension, the AMO
operations (R109), reading registers and popping streams (R146). -/

namespace Sys2Proof.Machine

/-! ## Widths -/

/-- A value of n bits sign-extended to 64 (R13). -/
def sext {n : Nat} (v : BitVec n) : Word := v.signExtend 64

/-- A value of n bits zero-extended to 64 (R13). -/
def zext {n : Nat} (v : BitVec n) : Word := v.zeroExtend 64

/-- The low w bytes of a value as a number. -/
def lowBytes (v : Word) (w : Nat) : Nat := v.toNat % 256 ^ w

/-- A value of w bytes extended to 64 bits (R196). -/
def extend (v w : Nat) (signed : Bool) : Word :=
  if w = 1 then (if signed then sext (BitVec.ofNat 8 v) else zext (BitVec.ofNat 8 v))
  else if w = 2 then (if signed then sext (BitVec.ofNat 16 v) else zext (BitVec.ofNat 16 v))
  else if w = 4 then (if signed then sext (BitVec.ofNat 32 v) else zext (BitVec.ofNat 32 v))
  else BitVec.ofNat 64 v

/-- The low 32 bits. -/
def low32 (v : Word) : BitVec 32 := v.truncate 32

/-- A truth value as a register value. -/
def ofBool (b : Bool) : Word := if b then 1 else 0

/-- bits(v, hi, lo) as a number (R13). -/
def bits (v : Word) (hi lo : Nat) : Nat := v.toNat / 2 ^ lo % 2 ^ (hi + 1 - lo)

/-! ## The atomic operations (R109) -/

/-- new at 64 bits. -/
def amo64 (op : AmoOp) (old b c : Word) : Word :=
  match op with
  | .add => old + b
  | .and => old &&& b
  | .or => old ||| b
  | .xor => old ^^^ b
  | .min => if old.slt b then old else b
  | .max => if old.slt b then b else old
  | .minu => if old.ult b then old else b
  | .maxu => if old.ult b then b else old
  | .swap => b
  | .cas => if old = c then b else old

/-- new at 32 bits. -/
def amo32 (op : AmoOp) (old b c : BitVec 32) : BitVec 32 :=
  match op with
  | .add => old + b
  | .and => old &&& b
  | .or => old ||| b
  | .xor => old ^^^ b
  | .min => if old.slt b then old else b
  | .max => if old.slt b then b else old
  | .minu => if old.ult b then old else b
  | .maxu => if old.ult b then b else old
  | .swap => b
  | .cas => if old = c then b else old

/-- new at the width of the access; a 32-bit result stands in the low half. -/
def amoNew (op : AmoOp) (w32 : Bool) (old b c : Word) : Word :=
  if w32 then zext (amo32 op (low32 old) (low32 b) (low32 c)) else amo64 op old b c

/-- The op number of an AMO or RED (R39). -/
def amoNum : AmoOp → Nat
  | .add => 0 | .and => 1 | .or => 2 | .xor => 3 | .min => 4 | .max => 5 | .minu => 6 | .maxu => 7 | .swap => 8 | .cas => 9

/-! ## Streams (R145 to R147) -/

/-- The positions of a stream. -/
def Stream.length (t : Stream) : Nat := t.dims.foldl (fun n d => n * d.2) 1

/-- The local offset of a position: the indices mixed-radix, the first dimension fastest (R145). -/
def streamOffset : List (Int × Nat) → Int → Nat → Int
  | [], base, _ => base
  | (stride, count) :: t, base, k => streamOffset t (base + (k % count : Nat) * stride) (k / count)

/-- The element at a position: its local offset where all its bytes lie in the local memory. -/
def Stream.place (t : Stream) (k : Nat) : Option Nat :=
  let o := streamOffset t.dims (t.base : Int) k
  if 0 ≤ o ∧ o + t.size ≤ 65536 then some o.toNat else none

/-- How many elements a stream reads ahead of the next pop: the element of the pop and 8 or 4 beyond (R147). -/
def Stream.depth (t : Stream) : Nat := if t.vec then 4 else 8

/-- Whether the stream port has an element to read (R147). -/
def Stream.wants (t : Stream) : Bool := t.ahead.length < t.depth && t.pos + t.ahead.length < t.length

/-- The stream port's next read, one at a time. -/
def State.kickStream (s : State) (core k slot : Nat) : State :=
  s.flyOnce core core 2 (.streamRefill core k slot)

/-- A pop (R146): the next element, or a wait until it has been read; ENGARG 13 past the end, ENGFAULT with the position
outside the local memory (R147); POISON where the port has read a poisoned word (R186, R423). -/
def popStream (i : Fin 6) (t : Stream) : M VWord := do
  if t.length ≤ t.pos then trap cENGARG 13
  match t.ahead with
  | [] => throw (.blockWith fun s => s.kickStream s.focusCore s.focusCtx i.val)
  | none :: _ => match t.place t.pos with
    | none => trap cENGFAULT (BitVec.ofNat 64 t.pos)
    | some o => trap cPOISON (BitVec.ofNat 64 (0xFC00000000000000 + o))
  | some v :: r =>
    modF fun c => c.setStream i (some { t with pos := t.pos + 1, ahead := r })
    modify fun s => s.kickStream s.focusCore s.focusCtx i.val
    return v

/-! ## Reading and writing registers -/

/-- An x register of the context whose result is still outstanding. -/
def Ctx.pending (c : Ctx) (r : Reg) : Bool := c.pend.any fun p => p.reg == r

/-- x[r] as a source: a bound stream register pops (R146); an outstanding result is waited for (R205, R110); a lost or
poisoned mark traps (R93, R106). -/
def readX (r : Reg) : M Word := do
  let c ← fctx
  if r = 0 then return 0
  match xSlot r with
  | some i =>
    match c.bound (some i) with
    | some t => return (← popStream i t).truncate 64
    | none => plain c
  | none => plain c
where
  plain (c : Ctx) : M Word := do
    if c.pending r then block
    match findMark r c.marks with
    | some (.lost va) => trap cAMOLOST va
    | some (.poisoned va) => trap cPOISON va
    | none => return c.getX r

/-- v[r] as a source; a bound stream register pops (R146). -/
def readV (r : VReg) : M VWord := do
  let c ← fctx
  match vSlot r with
  | some i =>
    match c.bound (some i) with
    | some t => popStream i t
    | none => return c.getV r
  | none => return c.getV r

/-- x[r] written by an instruction. -/
def writeX (r : Reg) (v : Word) : M Unit := modF fun c => c.result r v

/-- v[r] written by an instruction. -/
def writeV (r : VReg) (v : VWord) : M Unit := modF fun c => c.resultV r v

/-- A read of x[r] as stored, outside an instruction's sources: for results of events. -/
def State.xOf (s : State) (core k : Nat) (r : Reg) : Word := (s.ctx core k).getX r

/-! ## Features and privilege (R57, R58) -/

/-- The bits of featmask (R31). -/
inductive Feature where | c16 | fp | vec | mat | bxf | mxf | cpy | coll | smalt | madder | pgm
  deriving DecidableEq, Repr

/-- The number of a feature's bit. -/
def Feature.bit : Feature → Nat
  | .c16 => 0 | .fp => 1 | .vec => 2 | .mat => 3 | .bxf => 4 | .mxf => 5 | .cpy => 6 | .coll => 7 | .smalt => 8
  | .madder => 9 | .pgm => 10

/-- Whether a feature is enabled for a partition; features itself holds every bit (R31). -/
def Partition.enabled (p : Partition) (f : Feature) : Bool := p.featmask.getLsbD f.bit

/-- The context's instruction has issued and has part of its effect behind it: it goes on under the mask it was checked
against (R31). -/
def Ctx.midway (c : Ctx) : Bool :=
  c.groupReply.isSome || c.mapCopy.isSome || !c.vread.isEmpty

/-- ILLFEAT with the instruction as tval unless a feature is enabled (R57). -/
def needs (f : Feature) (i : Instr) : M Unit := do
  let s ← get
  if s.fpart.enabled f || s.fctx.midway then pure () else trap cILLFEAT (encode i).toWord

/-- PRIV with the instruction as tval at task privilege (R58). -/
def supervisor (i : Instr) : M Unit := do
  if (← fctx).prv then pure () else trap cPRIV (encode i).toWord

end Sys2Proof.Machine
end

