-- ==== Sys2Proof/Machine/Madder.lean ====
section
/-! DEFINITION. Madder: origin tags and digests (R381 to R387), the log and the replay of decisions (R389 to R395). -/

namespace Sys2Proof.Machine

/-! ## Tags and digests -/

/-- The origin tag of the context's next event (R381). -/
def Ctx.tag (c : Ctx) : Word := fold c.dkey (zext c.dordE)

/-- E counts an event that completed (R381). -/
def countEvent : M Unit := modF fun c => { c with dordE := c.dordE + 1 }

/-- A committed store or tag change folded into D (R385), unless its page is exempt (R70). -/
def foldD (exempt : Bool) (a v : Word) (w kind op : Nat) : M Unit :=
  if exempt then pure () else modF fun c => { c with digest := foldStore c.digest a v w kind op }

/-- A launch of a partition. -/
def findLaunch (num : Nat) : List Launch → Option Launch
  | [] => none
  | l :: t => if l.num = num then some l else findLaunch num t

/-- A launch of a partition changed. -/
def State.modLaunch (s : State) (pid num : Nat) (f : Launch → Launch) : State :=
  s.modPart pid fun p => { p with launches := p.launches.map fun l => if l.num = num then f l else l }

/-- A term added to a launch's digest L (R387). -/
def State.addDigest (s : State) (pid num : Nat) (v : Word) : State :=
  s.modLaunch pid num fun l => { l with digest := l.digest + v }

/-! ## Sites (R390) -/

/-- The number of full/empty entries that a site holds. -/
def State.waitTabLen (s : State) (n : Nat) : Nat :=
  (if n < 12288 then (s.core n).waitTab else (s.port (n - 12288)).waitTab).length

/-- The Madder state of a site: a core, or a memory port. -/
def State.site (s : State) (n : Nat) : Site :=
  if n < 12288 then (s.core n).site else (s.port (n - 12288)).site

/-- The replay entries that wait at a site for a partition. -/
def Site.entries (x : Site) (pid : Nat) : List Word := x.queue.filterMap fun e => if e.1 = pid then some e.2 else none

/-- A site's entries for a partition replaced. -/
def Site.setEntries (x : Site) (pid : Nat) (l : List Word) : Site :=
  { x with queue := (x.queue.filter fun e => e.1 != pid) ++ l.map fun w => (pid, w) }

/-- A site changed. -/
def State.modSite (s : State) (n : Nat) (f : Site → Site) : State :=
  if n < 12288 then s.modCore n fun q => { q with site := f q.site }
  else s.modPort (n - 12288) fun q => { q with site := f q.site }

/-- The mode, 2 RECORD or 3 REPLAY, in which a launch's decisions are logged or held; 0 for any other (R380, R392). -/
def State.recMode (s : State) (pid launch : Nat) : Nat :=
  match s.part pid with
  | none => 0
  | some p =>
    if p.recorder = some launch ∧ launch ≠ 0 then
      match findLaunch launch p.launches with
      | some l => if l.mode = 2 ∧ p.logAband = false then 2 else if l.mode = 3 then 3 else 0
      | none => 0
    else 0

/-- A log entry (R390). -/
def logWord (ty site data : Nat) : Word := BitVec.ofNat 64 (ty * 2 ^ 60 + site * 2 ^ 46 + data % 2 ^ 46)

/-- TYPE of an entry. -/
def entryType (w : Word) : Nat := bits w 63 60

/-- DATA of an entry. -/
def entryData (w : Word) : Nat := bits w 45 0

/-- The entries a log region holds (R389). -/
def Partition.logCap (p : Partition) : Nat := 2 ^ (13 + p.mlogLsz.toNat)

/-- The key of a log entry. -/
def Partition.logKey (p : Partition) (i : Nat) : Nat := p.mlogBase.toNat * 65536 + 8 * i

/-- Whether n more entries find room in the region, its last 8 kept for TYPE 12 (R392). -/
def Partition.logRoom (p : Partition) (n : Nat) : Bool := p.logNext.toNat + n + 8 ≤ p.logCap

/-- mlogpos as it reads (R389). -/
def Partition.mlogpos (p : Partition) : Word :=
  BitVec.ofNat 64 ((if p.logHigh then 2 ^ 63 else 0) + (if p.logFull then 2 ^ 62 else 0)
    + (if p.logAband then 2 ^ 61 else 0) + p.logNext.toNat)

/-- Whether a position of the log lies at or past 7/8 of its capacity (R392). -/
def Partition.logHighAt (p : Partition) (n : Nat) : Bool := p.logCap * 7 ≤ n * 8

/-- Entries written to the region, as far as it reaches; HIGH and its notice when NEXT reaches 7/8 of the capacity (R392).
A site's entries are written as it decides: its 16 places for unwritten ones are left at once (log entry 36). -/
def State.logPut (s : State) (pid : Nat) : List Word → State
  | [] => s
  | w :: t =>
    match s.part pid with
    | none => s
    | some p =>
      let key := p.logKey p.logNext.toNat
      let next := p.logNext.toNat + 1
      let s := if paOk key && paOk (key + 7) && next ≤ p.logCap then s.putWord key w else s
      let high := !p.logHighAt p.logNext.toNat && p.logHighAt next
      let p' := { p with logNext := p.logNext + 1, logHigh := p.logHigh || high }
      let s := s.modPart pid fun _ => p'
      let s := if high then s.notice pid (p.oy0 * 48 + p.ox0) 4 (p.coreOf 0) [p'.mlogpos] else s
      s.logPut pid t

/-- The core or port of a log entry's SITE (R390): edge ports follow the vault ports. -/
def siteOf (w : Word) : Nat := bits w 59 46

/-- The decisions of a list of log words: what follows a TYPE 4 or 11 entry is its value. skip: a value comes first. -/
def decisions : Bool → List Word → List Word
  | _, [] => []
  | true, _ :: t => decisions false t
  | false, w :: t => w :: decisions (entryType w == 4 || entryType w == 11) t

/-- The decisions that the log still holds for a site, in order: those in its queue, and those the reader has yet to bring,
up to the end of the log (R390, R393). -/
def State.aheadAt (s : State) (pid site : Nat) : List Word :=
  match s.part pid with
  | none => []
  | some p =>
    let rest := (List.range (p.logNext.toNat - p.readPos)).map fun i => s.tableWord (p.logKey (p.readPos + i))
    decisions false ((s.site site).entries pid) ++ ((decisions false rest).takeWhile fun w => entryType w != 0).filter fun w => siteOf w == site

/-- The log has no more entries for the reader: the last has been read, or a TYPE 0 entry stands next (R390). -/
def State.logEnds (s : State) (p : Partition) : Bool :=
  p.logNext.toNat ≤ p.readPos || entryType (s.tableWord (p.logKey p.readPos)) == 0

/-- The log's last entry says that its recording was abandoned. -/
def State.logCut (s : State) (p : Partition) : Bool :=
  p.logNext != 0 && entryType (s.tableWord (p.logKey (p.logNext.toNat - 1))) == 12

/-- The events that a site holds, and those it has not accepted meanwhile, sent to it again. -/
def State.releaseSite (s : State) (n : Nat) : State :=
  let held := (s.site n).hold
  if held.isEmpty then s
  else
    let s := s.modSite n fun x => { x with hold := [] }
    if n < 12288 then
      let back := (s.core n).stopped
      (s.modCore n fun q => { q with stopped := [] }).resend n (held ++ back)
    else
      let back := (s.port (n - 12288)).stopped
      (s.modPort (n - 12288) fun q => { q with stopped := [] }).resend n (held ++ back)

/-- The log reader's next delivery, one at a time (R393). -/
def State.kickReader (s : State) (pid : Nat) : State :=
  s.flyOnce (seqPlace pid) (seqPlace pid) 3 (.logReaderEntry pid)

/-- A decision of a site begins to be held for the partition's LIMIT, of context k (8 for none) with a tag (R392, R395). -/
def State.stallSite (s : State) (pid n k : Nat) (tag : Word) (ev : Event) : State :=
  if (s.site n).stalls.any fun x => x.1 == pid && x.2.2 == (k, tag) then s
  else
    let limit := match s.part pid with | some p => p.mstall.toNat | none => 100
    let due := s.wallUnits + limit * 1000 * unitsPerNs
    (s.modSite n fun x => { x with stalls := x.stalls ++ [(pid, due, k, tag)] }).arm due ev

/-- A held decision is made. -/
def Site.unstall (x : Site) (pid k : Nat) (tag : Word) : Site :=
  if x.stalls.isEmpty then x else { x with stalls := x.stalls.filter fun y => !(y.1 == pid && y.2.2 == (k, tag)) }

/-- What Madder says to a decision. -/
inductive Verdict where
  | go (s : State) (value : Option Word)
  | hold (s : State)
  | fail (s : State) (cause : BitVec 8)

/-- Whether an entry of the log is the decision asked for: the type, and the data under a mask. -/
def entryMatches (w : Word) (ty data mask : Nat) : Bool := entryType w == ty && entryData w % mask == data % mask

/-- How often the log still holds a decision for a site. -/
def State.logged (s : State) (pid site ty data mask : Nat) : Nat :=
  ((s.aheadAt pid site).filter fun w => entryMatches w ty data mask).length

/-- The decision waits: in RECORD for room in the region, in REPLAY for the reader. -/
def State.waitLog (s : State) (pid site k : Nat) (tag : Word) (replay : Bool) : State :=
  if replay then (s.kickReader pid).stallSite pid site k tag (.replayHoldExpiry pid site)
  else (s.modPart pid fun p => { p with logFull := true }).stallSite pid site k tag (.logStallExpiry pid site)

/-- Whether an earlier decision of a partition is still held at a site (R392: it holds every later one). -/
def Site.behind (x : Site) (pid k : Nat) (tag : Word) : Bool :=
  match x.stalls.find? fun y => y.1 == pid with
  | some y => y.2.2 != (k, tag)
  | none => false

/-- n entries of a RECORD launch would be made at a site: whether they may be. -/
def State.recRoom (s : State) (pid site k n : Nat) (tag : Word) : Bool :=
  match s.part pid with
  | none => true
  | some p => p.logRoom n && !(s.site site).behind pid k tag

/-- The first entries of a site's queue taken. -/
def State.takeEntries (s : State) (pid site : Nat) (r : List Word) : State :=
  (s.modSite site fun x => x.setEntries pid r).kickReader pid

/-- Why a decision that the log does not hold ends its launch: the log was cut short, or the run differs (R395). -/
def State.noEntry (s : State) (p : Partition) : BitVec 8 := if s.logCut p then cLOGFULL else cDIVERGE

/-- A decision of a launch's own at a site, of context k with a tag: in RECORD its entries are logged, or it is held while
the region has no room; in REPLAY it is held until it is the site's next entry, whose value, if vals is not 0, it takes.
It fails at a core for which the log has ended, at a TYPE 12 entry, and where the next entry is of another TYPE and the log
holds none of its own, so that it could never be made (R392, R393, R395; log entry 36). -/
def State.decide (s : State) (pid launch site k ty data mask : Nat) (vals : List Word) (tag : Word) : Verdict :=
  match s.recMode pid launch, s.part pid with
  | 2, some _ =>
    if s.recRoom pid site k (1 + vals.length) tag then
      let s := s.modSite site fun x => x.unstall pid k tag
      .go (s.logPut pid (logWord ty site data :: vals)) none
    else .hold (s.waitLog pid site k tag false)
  | 3, some p =>
    match (s.site site).entries pid with
    | [] =>
      if s.logEnds p && (site < 12288 || s.logCut p) then .fail s (s.noEntry p)
      else .hold (s.waitLog pid site k tag true)
    | e :: r =>
      if entryType e = 12 then .fail s cLOGFULL
      else if entryMatches e ty data mask then
        match vals, r with
        | [], r => .go (took s r) none
        | _ :: _, v :: r => .go (took s r) (some v)
        | _ :: _, [] => .hold (s.waitLog pid site k tag true)
      else if entryType e = ty || s.logged pid site ty data mask != 0 || s.logCut p then
        .hold (s.waitLog pid site k tag true)
      else .fail s cDIVERGE
  | _, _ => .go s none
where
  /-- The entries taken from the site's queue. -/
  took (s : State) (r : List Word) : State :=
    ((s.modSite site fun x => x.unstall pid k tag).takeEntries pid site r).releaseSite site

/-- The entry by which a launch in REPLAY has logged a decision for a site, wherever it stands (R393, TYPES 5, 6, 9). -/
def State.loggedEntry (s : State) (pid launch site ty data mask : Nat) : Option Word :=
  if s.recMode pid launch = 3 then (s.aheadAt pid site).find? fun w => entryMatches w ty data mask else none

/-- The site's next replay entry is the decision asked for. -/
def State.isNext (s : State) (pid site ty data mask : Nat) : Bool :=
  match (s.site site).entries pid with
  | e :: _ => entryMatches e ty data mask
  | [] => false

/-- The site's next replay entry taken, if it is the decision asked for. -/
def State.takeNext (s : State) (pid site ty data mask : Nat) : State :=
  match (s.site site).entries pid with
  | e :: r => if entryMatches e ty data mask then s.takeEntries pid site r else s
  | [] => s

/-- How many TYPE 12 entries end an abandoned recording: one, in the last 8 entries of the region, and one in each place
before those that was too few for the decision that met the limit (log entry 36). -/
def Partition.cutLen (p : Partition) : Nat := p.logCap - 8 - p.logNext.toNat + 1

/-- A recording is abandoned (R392): a TYPE 12 entry, FULL and ABAND, the mark on its launch's record, and every held decision
proceeds. -/
def State.abandonLog (s : State) (pid num site : Nat) : State :=
  let n := match s.part pid with | some p => p.cutLen | none => 0
  let s := s.logPut pid (List.replicate n (logWord 12 site 0))
  let s := (s.modPart pid fun p => { p with logFull := true, logAband := true }).modLaunch pid num fun l => { l with unrecorded := true }
  let sites := s.cores.map (fun q => q.1) ++ s.ports.map fun q => 12288 + q.1
  sites.foldl (fun s n =>
    (s.modSite n fun x => { x with stalls := x.stalls.filter fun y => y.1 != pid }).releaseSite n) s

/-- Entries of a RECORD launch that an access of any launch makes at a site: written, or the recording is abandoned where
there is no room (R390, R392). -/
def State.logNow (s : State) (pid launch site : Nat) (l : List Word) : State :=
  if s.recMode pid launch ≠ 2 then s
  else match s.part pid with
    | none => s
    | some p => if p.logRoom l.length then s.logPut pid l else s.abandonLog pid launch site

/-- What a change of a tag by an access with a tag does, as Madder lets it happen (R390, R393): none where RECORD has no room
for every entry that it makes, or where REPLAY has logged held entries that it performs and they are not all held yet, or
it is not its site's next decision. -/
def State.wakeTry (s : State) (pid launch site k : Nat) (tag : Word) (act : State → State) : Option State :=
  let count (s : State) : Nat := match s.part pid with | some p => p.logNext.toNat | none => 0
  let t := act s
  let done : Option State :=
    if (s.site site).stalls.isEmpty then some t else some (act (s.modSite site fun x => x.unstall pid k tag))
  match s.recMode pid launch with
  | 2 =>
    let n := count t - count s
    if t.recMode pid launch = 2 && (n == 0 || s.recRoom pid site k n tag) then done else none
  | 3 =>
    let n := if tag = 0 then 0 else s.logged pid site 2 tag.toNat (2 ^ 46)
    if n = 0 then some t
    else if s.isNext pid site 2 tag.toNat (2 ^ 46) && n ≤ (s.waitTabLen site) - (t.waitTabLen site) then done
    else none
  | _ => some t

/-- A decision of the focus context, in a mode that logs or replays: made, or the instruction waits with nothing changed
(orig is the state before it), or its launch ends. -/
def decideHere (orig : State) (ty data mask : Nat) (vals : List Word) : M (Option Word) := do
  let s ← get
  let c := orig.fctx
  if c.lmode = 2 ∨ c.lmode = 3 then
    let pid := s.pidOf s.focusCore
    match s.decide pid c.lnum.toNat s.focusCore s.focusCtx ty data mask vals c.tag with
    | .go t v =>
      set t
      return v
    | .hold _ =>
      match orig.decide pid c.lnum.toNat s.focusCore s.focusCtx ty data mask vals c.tag with
      | .hold t => throw (.blockIn t)
      | _ => throw (.blockIn orig)
    | .fail _ cause => throw (.trapIn orig cause (if cause = cLOGFULL then 0 else c.tag))
  else return none

/-- An event of a launch at a home, held there by Madder (R394). -/
def State.holdAt (s : State) (site : Nat) (e : Event) : State := s.modSite site fun x => { x with hold := x.hold ++ [e] }

/-- An access whose effect Madder may hold (R392, R393) at its site: act, or the event waits in the replay hold. -/
def State.wakeAt (s : State) (pid launch site : Nat) (tag : Word) (e : Event) (act : State → State) : State :=
  match s.wakeTry pid launch site 8 tag act with
  | some t => t
  | none => (s.waitLog pid site 8 tag (s.recMode pid launch == 3)).holdAt site e

/-- A port or core that cannot make a launch's decision ends the launch (R395): with the path of the diverging task, or 0
for a port. -/
def State.divergeAt (s : State) (pid launch site : Nat) (cause : BitVec 8) (path : Word) : State :=
  s.fly site (seqPlace pid) 3 (.launchEndByFault pid launch cause.toNat 0 path)

/-- What Madder says to a decision about an event at its home: it goes on, is held, or ends the launch (R393 to R395). -/
def madderAt (v : Verdict) (pid launch site : Nat) (e : Event) (f : State → Option Word → State) : State :=
  match v with
  | .go t x => f t x
  | .hold t => t.holdAt site e
  | .fail t c => t.divergeAt pid launch site c 0

end Sys2Proof.Machine
end

