-- ==== Sys2Proof/Machine/Mesh.lean ====
section
/-! DEFINITION. The mesh (R61, R62, R96 to R99, R437): where the places of the die attach, the path of a message, and the
router input port by which it arrives. -/

namespace Sys2Proof.Machine

/-! ## Where things attach -/

/-- The octet whose router a memory port attaches to (R61, R62). -/
def portOctet (p : Nat) : Nat :=
  if p < 256 then p / 16 * 2 * 48 + 3 * (p % 16) + 1
  else if p < 264 then 6 * (p - 256) + 2
  else 31 * 48 + 6 * (p - 264) + 2

/-- Whether an octet has a counter of the vault-buffer misses of its memory port. -/
def Octet.countsMisses (o : Octet) : Bool := o.sources.toList.any fun x => x == 10

/-- An access at a memory port may miss its vault buffer, whatever came before it (R95): a free bit says whether it does, for
the octets that count it (R460). -/
def State.bufferMiss (s : State) (key : Nat) : State :=
  let o := portOctet (portOf key)
  if !isDevice key || !(s.octet o).countsMisses then s
  else
    let r := s.drawBit
    r.2.count o 10 r.1.toNat

/-- The octet whose router a fabric port attaches to (R437). -/
def fabOctet (p : Nat) : Nat := if p < 4 then (4 + 8 * p) * 48 else (4 + 8 * (p - 4)) * 48 + 47

/-- The router of a place: of a core, memory port, octet, launch sequencer or fabric port; Ethernet enters at octet (0, 0)
(DESIGN CHOICE: no rule names the octets of the Ethernet ports; log entry 39). -/
def State.router (s : State) (place : Nat) : Nat :=
  if place < 12288 then octetOf place
  else if place < 20000 then portOctet (place - 12288)
  else if place < 22000 then place - 20000
  else if place < 30000 then match s.part (place - 22000) with | some p => p.oy0 * 48 + p.ox0 | none => 0
  else if place = outside then 0
  else fabOctet (s.routeOf (place - 30001))

/-! ## Paths (R96, R98) -/

/-- The router that a link of a router leads to (R96): ports 1 to 4 north, east, south and west, 5 to 8 the express links in
the same order; none where it would lie off the mesh, and for the local port. -/
def linkTo (o port : Nat) : Option Nat :=
  let x := o % 48
  let y := o / 48
  let n := if 5 ≤ port then 4 else 1
  match port with
  | 1 | 5 => if n ≤ y then some (o - 48 * n) else none
  | 2 | 6 => if x + n < 48 then some (o + n) else none
  | 3 | 7 => if y + n < 32 then some (o + 48 * n) else none
  | 4 | 8 => if n ≤ x then some (o - n) else none
  | _ => none

/-- The output port by which a message at a router leaves it (R98): first in x, then in y; an express link while the
distance is 4 or more; the local port at its destination. -/
def outPort (a b : Nat) : Nat :=
  let ax := a % 48
  let bx := b % 48
  let ay := a / 48
  let by' := b / 48
  if ax < bx then (if 4 ≤ bx - ax then 6 else 2)
  else if bx < ax then (if 4 ≤ ax - bx then 8 else 4)
  else if ay < by' then (if 4 ≤ by' - ay then 7 else 3)
  else if by' < ay then (if 4 ≤ ay - by' then 5 else 1)
  else 0

/-- The routers of a message's path with the output port it takes at each, n the links left. -/
def pathFrom : Nat → Nat → Nat → List (Nat × Nat)
  | 0, a, b => [(a, outPort a b)]
  | n + 1, a, b =>
    match linkTo a (outPort a b) with
    | none => [(a, outPort a b)]
    | some c => (a, outPort a b) :: pathFrom n c b

/-- The path from one router to another: at most 14 links in x and 10 in y. -/
def path (a b : Nat) : List (Nat × Nat) := pathFrom 24 a b

/-- The input port at the far end of a link (R96): the opposite direction's. -/
def farPort (port : Nat) : Nat := if port = 0 then 0 else if port = 1 ∨ port = 2 ∨ port = 5 ∨ port = 6 then port + 2 else port - 2

/-- The input port by which a message reaches its last router: 0 where it enters the mesh there. -/
def inPort (a b : Nat) : Nat := match (path a b).reverse with | _ :: (_, p) :: _ => farPort p | _ => 0

/-- The path of a flight. -/
def State.flightPath (s : State) (f : Flight) : List (Nat × Nat) := path (s.router f.src) (s.router f.dst)

/-! ## Channels (R99) -/

/-- The sources whose requests a flight carries. -/
def Flight.sources (f : Flight) : List Nat := f.src :: f.also

/-- Whether two flights share a channel: a source, the destination and the network (R99, R103). -/
def Flight.sameChannel (a b : Flight) : Bool := a.dst == b.dst && a.vn == b.vn && a.sources.any b.sources.contains

/-- The octet that a flight arrives at: that of a core, or the one whose locator cache is corrected. -/
def Flight.octet (f : Flight) : Option Nat :=
  match f.ev with
  | .locatorCorrection o _ _ _ => some o
  | _ => if f.dst < 12288 then some (octetOf f.dst) else none

/-- Whether a flight lands before a later one: on their channel (R99), or because the later one's octet has held it while it
slept (R433). -/
def Flight.leads (a b : Flight) : Bool := a.sameChannel b || (a.held && a.octet.isSome && a.octet == b.octet)

/-- The flight that lands in the place of the k-th: none before it leads it. n bounds the search. -/
def headOf (l : List Flight) : Nat → Nat → Nat
  | 0, k => k
  | n + 1, k =>
    match l[k]? with
    | none => k
    | some f =>
      let i := l.findIdx fun g => g.leads f
      if i < k then headOf l n i else k

end Sys2Proof.Machine
end

