-- ==== Sys2Proof/Machine/Integer.lean ====
section
/-! DEFINITION. Integer arithmetic, immediates and address formation (R209 to R213), and their 16-bit forms (R54). -/

namespace Sys2Proof.Machine

/-! ## The operations (R209) -/

/-- x[rd] := f(x[rs1], x[rs2]). -/
def regOp (d a b : Reg) (f : Word → Word → Word) : M Unit := do
  let x ← readX a
  let y ← readX b
  writeX d (f x y)

/-- x[rd] := f(x[rs1]). -/
def regOp1 (d a : Reg) (f : Word → Word) : M Unit := do
  let x ← readX a
  writeX d (f x)

/-- The amount of a 64-bit shift. -/
def shamt (b : Word) : Nat := b.toNat % 64

/-- The amount of a 32-bit shift. -/
def shamt32 (b : Word) : Nat := b.toNat % 32

def minS (a b : Word) : Word := if a.slt b then a else b
def maxS (a b : Word) : Word := if a.slt b then b else a
def minU (a b : Word) : Word := if a.ult b then a else b
def maxU (a b : Word) : Word := if a.ult b then b else a

/-- A 32-bit result sign-extended. -/
def word32 (v : BitVec 32) : Word := sext v

/-- bits [127:64] of a product. -/
def high64 (p : Int) : Word := BitVec.ofInt 64 (p / 2 ^ 64)

/-- DIV: toward zero, with the cases of a zero divisor and of the overflow. -/
def divS (a b : Word) : Word :=
  if b = 0 then BitVec.allOnes 64
  else if a = BitVec.intMin 64 ∧ b = BitVec.allOnes 64 then a
  else BitVec.ofInt 64 (a.toInt.tdiv b.toInt)

/-- DIVU. -/
def divU (a b : Word) : Word := if b = 0 then BitVec.allOnes 64 else BitVec.ofNat 64 (a.toNat / b.toNat)

/-- REM: the sign of the dividend. -/
def remS (a b : Word) : Word :=
  if b = 0 then a
  else if a = BitVec.intMin 64 ∧ b = BitVec.allOnes 64 then 0
  else BitVec.ofInt 64 (a.toInt - b.toInt * a.toInt.tdiv b.toInt)

/-- REMU. -/
def remU (a b : Word) : Word := if b = 0 then a else BitVec.ofNat 64 (a.toNat - b.toNat * (a.toNat / b.toNat))

/-- The zero bits below the lowest 1 among n bits from a number. -/
def trailing : Nat → Nat → Nat
  | 0, _ => 0
  | n + 1, v => if v % 2 = 1 then 0 else trailing n (v / 2) + 1

/-- The zero bits above the highest 1 among the low n bits. -/
def leading : Nat → Nat → Nat
  | 0, _ => 0
  | n + 1, v => if v / 2 ^ n % 2 = 1 then 0 else leading n v + 1

/-- The 1 bits among the low n bits. -/
def ones : Nat → Nat → Nat
  | 0, _ => 0
  | n + 1, v => v % 2 + ones n (v / 2)

def clz64 (a : Word) : Word := BitVec.ofNat 64 (leading 64 a.toNat)
def ctz64 (a : Word) : Word := BitVec.ofNat 64 (trailing 64 a.toNat)
def popc64 (a : Word) : Word := BitVec.ofNat 64 (ones 64 a.toNat)

/-- The eight bytes in reverse order. -/
def bswap64 (a : Word) : Word :=
  a.extractLsb' 0 8 ++ a.extractLsb' 8 8 ++ a.extractLsb' 16 8 ++ a.extractLsb' 24 8 ++ a.extractLsb' 32 8
    ++ a.extractLsb' 40 8 ++ a.extractLsb' 48 8 ++ a.extractLsb' 56 8

/-! ## Register operations -/

/-- ADD (R209). -/
def execAdd (d a b : Reg) (s : State) : Host.Outcome State Fault Refusal := seq4 (regOp d a b (fun x y => x + y)) s

/-- SUB (R209). -/
def execSub (d a b : Reg) (s : State) : Host.Outcome State Fault Refusal := seq4 (regOp d a b (fun x y => x - y)) s

/-- AND (R209). -/
def execAnd (d a b : Reg) (s : State) : Host.Outcome State Fault Refusal := seq4 (regOp d a b (fun x y => x &&& y)) s

/-- OR (R209). -/
def execOr (d a b : Reg) (s : State) : Host.Outcome State Fault Refusal := seq4 (regOp d a b (fun x y => x ||| y)) s

/-- XOR (R209). -/
def execXor (d a b : Reg) (s : State) : Host.Outcome State Fault Refusal := seq4 (regOp d a b (fun x y => x ^^^ y)) s

/-- SLL (R209). -/
def execSll (d a b : Reg) (s : State) : Host.Outcome State Fault Refusal := seq4 (regOp d a b (fun x y => x <<< shamt y)) s

/-- SRL (R209). -/
def execSrl (d a b : Reg) (s : State) : Host.Outcome State Fault Refusal := seq4 (regOp d a b (fun x y => x >>> shamt y)) s

/-- SRA (R209). -/
def execSra (d a b : Reg) (s : State) : Host.Outcome State Fault Refusal := seq4 (regOp d a b (fun x y => x.sshiftRight (shamt y))) s

/-- SLT (R209). -/
def execSlt (d a b : Reg) (s : State) : Host.Outcome State Fault Refusal := seq4 (regOp d a b (fun x y => ofBool (x.slt y))) s

/-- SLTU (R209). -/
def execSltu (d a b : Reg) (s : State) : Host.Outcome State Fault Refusal := seq4 (regOp d a b (fun x y => ofBool (x.ult y))) s

/-- MIN (R209). -/
def execMin (d a b : Reg) (s : State) : Host.Outcome State Fault Refusal := seq4 (regOp d a b (minS)) s

/-- MAX (R209). -/
def execMax (d a b : Reg) (s : State) : Host.Outcome State Fault Refusal := seq4 (regOp d a b (maxS)) s

/-- MINU (R209). -/
def execMinu (d a b : Reg) (s : State) : Host.Outcome State Fault Refusal := seq4 (regOp d a b (minU)) s

/-- MAXU (R209). -/
def execMaxu (d a b : Reg) (s : State) : Host.Outcome State Fault Refusal := seq4 (regOp d a b (maxU)) s

/-- ROL (R209). -/
def execRol (d a b : Reg) (s : State) : Host.Outcome State Fault Refusal := seq4 (regOp d a b (fun x y => x.rotateLeft (shamt y))) s

/-- ROR (R209). -/
def execRor (d a b : Reg) (s : State) : Host.Outcome State Fault Refusal := seq4 (regOp d a b (fun x y => x.rotateRight (shamt y))) s

/-- ANDN (R209). -/
def execAndn (d a b : Reg) (s : State) : Host.Outcome State Fault Refusal := seq4 (regOp d a b (fun x y => x &&& ~~~y)) s

/-- ORN (R209). -/
def execOrn (d a b : Reg) (s : State) : Host.Outcome State Fault Refusal := seq4 (regOp d a b (fun x y => x ||| ~~~y)) s

/-- XNOR (R209). -/
def execXnor (d a b : Reg) (s : State) : Host.Outcome State Fault Refusal := seq4 (regOp d a b (fun x y => ~~~(x ^^^ y))) s

/-- ADDW (R209). -/
def execAddw (d a b : Reg) (s : State) : Host.Outcome State Fault Refusal := seq4 (regOp d a b (fun x y => word32 (low32 (x + y)))) s

/-- SUBW (R209). -/
def execSubw (d a b : Reg) (s : State) : Host.Outcome State Fault Refusal := seq4 (regOp d a b (fun x y => word32 (low32 (x - y)))) s

/-- SLLW (R209). -/
def execSllw (d a b : Reg) (s : State) : Host.Outcome State Fault Refusal := seq4 (regOp d a b (fun x y => word32 (low32 x <<< shamt32 y))) s

/-- SRLW (R209). -/
def execSrlw (d a b : Reg) (s : State) : Host.Outcome State Fault Refusal := seq4 (regOp d a b (fun x y => word32 (low32 x >>> shamt32 y))) s

/-- SRAW (R209). -/
def execSraw (d a b : Reg) (s : State) : Host.Outcome State Fault Refusal := seq4 (regOp d a b (fun x y => word32 ((low32 x).sshiftRight (shamt32 y)))) s

/-- MUL (R209). -/
def execMul (d a b : Reg) (s : State) : Host.Outcome State Fault Refusal := seq4 (regOp d a b (fun x y => x * y)) s

/-- MULH (R209). -/
def execMulh (d a b : Reg) (s : State) : Host.Outcome State Fault Refusal := seq4 (regOp d a b (fun x y => high64 (x.toInt * y.toInt))) s

/-- MULHU (R209). -/
def execMulhu (d a b : Reg) (s : State) : Host.Outcome State Fault Refusal := seq4 (regOp d a b (fun x y => high64 ((x.toNat : Int) * (y.toNat : Int)))) s

/-- MULHSU (R209). -/
def execMulhsu (d a b : Reg) (s : State) : Host.Outcome State Fault Refusal := seq4 (regOp d a b (fun x y => high64 (x.toInt * (y.toNat : Int)))) s

/-- DIV (R209). -/
def execDiv (d a b : Reg) (s : State) : Host.Outcome State Fault Refusal := seq4 (regOp d a b (divS)) s

/-- DIVU (R209). -/
def execDivu (d a b : Reg) (s : State) : Host.Outcome State Fault Refusal := seq4 (regOp d a b (divU)) s

/-- REM (R209). -/
def execRem (d a b : Reg) (s : State) : Host.Outcome State Fault Refusal := seq4 (regOp d a b (remS)) s

/-- REMU (R209). -/
def execRemu (d a b : Reg) (s : State) : Host.Outcome State Fault Refusal := seq4 (regOp d a b (remU)) s

/-- CLZ (R209). -/
def execClz (d a : Reg) (s : State) : Host.Outcome State Fault Refusal := seq4 (regOp1 d a (clz64)) s

/-- CTZ (R209). -/
def execCtz (d a : Reg) (s : State) : Host.Outcome State Fault Refusal := seq4 (regOp1 d a (ctz64)) s

/-- POPC (R209). -/
def execPopc (d a : Reg) (s : State) : Host.Outcome State Fault Refusal := seq4 (regOp1 d a (popc64)) s

/-- BSWAP (R209). -/
def execBswap (d a : Reg) (s : State) : Host.Outcome State Fault Refusal := seq4 (regOp1 d a (bswap64)) s

/-- SEXTB (R209). -/
def execSextb (d a : Reg) (s : State) : Host.Outcome State Fault Refusal := seq4 (regOp1 d a (fun x => sext (x.extractLsb' 0 8))) s

/-- SEXTH (R209). -/
def execSexth (d a : Reg) (s : State) : Host.Outcome State Fault Refusal := seq4 (regOp1 d a (fun x => sext (x.extractLsb' 0 16))) s

/-- ZEXTW (R209). -/
def execZextw (d a : Reg) (s : State) : Host.Outcome State Fault Refusal := seq4 (regOp1 d a (fun x => zext (low32 x))) s

/-! ## Immediates (R210) -/

/-- ADDI (R210). -/
def execAddi (d a : Reg) (i : BitVec 15) (s : State) : Host.Outcome State Fault Refusal :=
  seq4 (regOp1 d a fun x => x + sext i) s

/-- ANDI (R210). -/
def execAndi (d a : Reg) (i : BitVec 15) (s : State) : Host.Outcome State Fault Refusal :=
  seq4 (regOp1 d a fun x => x &&& sext i) s

/-- ORI (R210). -/
def execOri (d a : Reg) (i : BitVec 15) (s : State) : Host.Outcome State Fault Refusal :=
  seq4 (regOp1 d a fun x => x ||| sext i) s

/-- XORI (R210). -/
def execXori (d a : Reg) (i : BitVec 15) (s : State) : Host.Outcome State Fault Refusal :=
  seq4 (regOp1 d a fun x => x ^^^ sext i) s

/-- SLTI (R210). -/
def execSlti (d a : Reg) (i : BitVec 15) (s : State) : Host.Outcome State Fault Refusal :=
  seq4 (regOp1 d a fun x => ofBool (x.slt (sext i))) s

/-- SLTIU (R210). -/
def execSltiu (d a : Reg) (i : BitVec 15) (s : State) : Host.Outcome State Fault Refusal :=
  seq4 (regOp1 d a fun x => ofBool (x.ult (sext i))) s

/-- ADDIW (R210). -/
def execAddiw (d a : Reg) (i : BitVec 15) (s : State) : Host.Outcome State Fault Refusal :=
  seq4 (regOp1 d a fun x => word32 (low32 (x + sext i))) s

/-- SLLI (R210). -/
def execSlli (d a : Reg) (sh : BitVec 6) (s : State) : Host.Outcome State Fault Refusal :=
  seq4 (regOp1 d a fun x => x <<< sh.toNat) s

/-- SRLI (R210). -/
def execSrli (d a : Reg) (sh : BitVec 6) (s : State) : Host.Outcome State Fault Refusal :=
  seq4 (regOp1 d a fun x => x >>> sh.toNat) s

/-- SRAI (R210). -/
def execSrai (d a : Reg) (sh : BitVec 6) (s : State) : Host.Outcome State Fault Refusal :=
  seq4 (regOp1 d a fun x => x.sshiftRight sh.toNat) s

/-- imm20 × 4,096 sign-extended from 32 bits (R210). -/
def imm20 (i : BitVec 20) : Word := sext (i ++ 0#12)

/-- LUI (R210). -/
def execLui (d : Reg) (i : BitVec 20) (s : State) : Host.Outcome State Fault Refusal := seq4 (writeX d (imm20 i)) s

/-- ADDPC (R210). -/
def execAddpc (d : Reg) (i : BitVec 20) (s : State) : Host.Outcome State Fault Refusal :=
  seq4 (do writeX d ((← fctx).pc + imm20 i)) s

/-! ## Address formation (R211 to R213) -/

/-- ADDX2 (R211). -/
def execAddx2 (d a b : Reg) (s : State) : Host.Outcome State Fault Refusal := seq4 (regOp d a b fun x y => x * 2 + y) s

/-- ADDX4 (R211). -/
def execAddx4 (d a b : Reg) (s : State) : Host.Outcome State Fault Refusal := seq4 (regOp d a b fun x y => x * 4 + y) s

/-- ADDX8 (R211). -/
def execAddx8 (d a b : Reg) (s : State) : Host.Outcome State Fault Refusal := seq4 (regOp d a b fun x y => x * 8 + y) s

/-- The own-core form of an offset (R65). -/
def ownForm (o : Nat) : Word := BitVec.ofNat 64 (0xFC00000000000000 + o)

/-- The absolute form of a core's offset (R65). -/
def absForm (core o : Nat) : Word :=
  BitVec.ofNat 64 (0xFE00000000000000 + coreY core * 2 ^ 48 + coreX core * 2 ^ 40 + o)

/-- LCA (R212). -/
def execLca (d a : Reg) (i : BitVec 14) (s : State) : Host.Outcome State Fault Refusal :=
  seq4 (do
    let o := (← readX a) + zext i
    if 65536 ≤ o.toNat then trap cACCESS o
    writeX d (ownForm o.toNat)) s

/-- A signed 8-bit field of an address. -/
def signed8 (v : Nat) : Int := if v < 128 then v else (v : Int) - 256

/-- The core and offset a core-form address names from core c of a partition, if it passes the checks of R65. -/
def coreForm (p : Partition) (c : Nat) (a : Word) : Option (Nat × Nat) :=
  let form := bits a 63 56
  let off := bits a 15 0
  if form = 0xFC then
    if bits a 55 16 = 0 then some (c, off) else none
  else if form = 0xFD then
    let x := (coreX c : Int) + signed8 (bits a 47 40)
    let y := (coreY c : Int) + signed8 (bits a 55 48)
    if bits a 39 16 = 0 ∧ 0 ≤ x ∧ x < 192 ∧ 0 ≤ y ∧ y < 64 ∧ p.hasCore (coreAt x.toNat y.toNat) = true then
      some (coreAt x.toNat y.toNat, off)
    else none
  else if form = 0xFE then
    let x := bits a 47 40
    let y := bits a 55 48
    if bits a 39 16 = 0 ∧ x ≤ 191 ∧ y ≤ 63 ∧ p.hasCore (coreAt x y) = true then some (coreAt x y, off) else none
  else none

/-- LCR (R213). -/
def execLcr (d a b : Reg) (s : State) : Host.Outcome State Fault Refusal :=
  seq4 (do
    let v ← readX a
    let s ← get
    match coreForm s.fpart s.focusCore v with
    | none => trap cACCESS v
    | some (c, o) =>
      let f ← readX b
      if 2 < f.toNat then trap cACCESS f
      if f = 0 then
        if c ≠ s.focusCore then trap cACCESS v
        writeX d (ownForm o)
      else if f = 1 then
        let dx := (coreX c : Int) - coreX s.focusCore
        let dy := (coreY c : Int) - coreY s.focusCore
        if dx < -128 ∨ 127 < dx ∨ dy < -128 ∨ 127 < dy then trap cACCESS v
        writeX d (BitVec.ofNat 64 (0xFD00000000000000 + (dy % 256).toNat * 2 ^ 48 + (dx % 256).toNat * 2 ^ 40 + o))
      else writeX d (absForm c o)) s

/-- LCX (R213). -/
def execLcx (d a : Reg) (s : State) : Host.Outcome State Fault Refusal :=
  seq4 (do
    let v ← readX a
    let s ← get
    match coreForm s.fpart s.focusCore v with
    | none => trap cACCESS v
    | some (c, o) =>
      writeX d (BitVec.ofNat 64 (o + coreX c * 2 ^ 16 + coreY c * 2 ^ 24 + (if c = s.focusCore then 2 ^ 32 else 0)))) s

/-! ## 16-bit forms (R54) -/

/-- hAddi (R54). -/
def execHAddi (a : Reg) (i : BitVec 6) (s : State) : Host.Outcome State Fault Refusal :=
  seq2 (do needs .c16 (.hAddi a i); regOp1 a a fun x => x + sext i) s

/-- hSeti (R54). -/
def execHSeti (a : Reg) (i : BitVec 6) (s : State) : Host.Outcome State Fault Refusal :=
  seq2 (do needs .c16 (.hSeti a i); regOp1 a 0 fun x => x + sext i) s

/-- hCopy (R54). -/
def execHCopy (a b : Reg) (s : State) : Host.Outcome State Fault Refusal :=
  seq2 (do needs .c16 (.hCopy a b); regOp a 0 b fun x y => x + y) s

/-- hAdd (R54). -/
def execHAdd (a b : Reg) (s : State) : Host.Outcome State Fault Refusal :=
  seq2 (do needs .c16 (.hAdd a b); regOp a a b fun x y => x + y) s

/-- hSub (R54). -/
def execHSub (a b : Reg) (s : State) : Host.Outcome State Fault Refusal :=
  seq2 (do needs .c16 (.hSub a b); regOp a a b fun x y => x - y) s

/-- hAnd (R54). -/
def execHAnd (a b : Reg) (s : State) : Host.Outcome State Fault Refusal :=
  seq2 (do needs .c16 (.hAnd a b); regOp a a b fun x y => x &&& y) s

/-- hShl (R54). -/
def execHShl (a : Reg) (sh : BitVec 6) (s : State) : Host.Outcome State Fault Refusal :=
  seq2 (do needs .c16 (.hShl a sh); regOp1 a a fun x => x <<< sh.toNat) s

/-- hShr (R54). -/
def execHShr (a : Reg) (sh : BitVec 6) (s : State) : Host.Outcome State Fault Refusal :=
  seq2 (do needs .c16 (.hShr a sh); regOp1 a a fun x => x >>> sh.toNat) s

end Sys2Proof.Machine
end

