-- ==== Sys2Proof/Machine/Translate.lean ====
section
/-! DEFINITION. Virtual addresses: the forms of R65, the page table and its walk (R68 to R73), the translation caches
(R74 to R78), and where a page move has taken a line (R79). -/

namespace Sys2Proof.Machine

/-! ## Address forms (R65) -/

/-- What a data address names: a byte of a core's local memory, or a translated address. -/
inductive Target where
  | here (core off : Nat)
  | virt (va : Word)
  deriving DecidableEq, Repr

/-- The form of an address from core c of a partition; none where R65 traps ACCESS. -/
def target (p : Partition) (c : Nat) (a : Word) : Option Target :=
  if bits a 63 56 = 0 then (if a.getLsbD 55 then none else some (.virt a))
  else match coreForm p c a with
    | some (k, o) => some (.here k o)
    | none => none

/-! ## Page table entries (R70, R71) -/

def pteFrame (e : Word) : Nat := bits e 51 20 * 65536
def pteModule (e : Word) : Nat := bits e 19 8
def pteM (e : Word) : Bool := e.getLsbD 6
def pteN (e : Word) : Bool := e.getLsbD 5
def pteC (e : Word) : Bool := e.getLsbD 4
def pteE (e : Word) : Bool := e.getLsbD 3
def pteW (e : Word) : Bool := e.getLsbD 2
def pteR (e : Word) : Bool := e.getLsbD 1
def pteV (e : Word) : Bool := e.getLsbD 0

/-- The entry gives an access. -/
def pteLeafBits (e : Word) : Bool := pteR e || pteW e || pteE e

/-- Whether a range of n bytes of the physical map is memory throughout (R60). -/
def rangeOk (pa n : Nat) : Bool :=
  pa + n ≤ 0x2000000000 || (0x10000000000 ≤ pa && pa + n ≤ 0x18000000000)

/-- A walker's reading of an entry at a level, on module own (R71). -/
inductive Entry where
  | invalid
  | malformed
  | pointer (base : Nat)
  | leaf (big : Bool)
  deriving DecidableEq, Repr

/-- R71's classification. -/
def classify (own level : Nat) (e : Word) : Entry :=
  if !pteV e then .invalid
  else if bits e 63 52 ≠ 0 ∨ e.getLsbD 7 = true then .malformed
  else if level = 3 then (if rangeOk (pteFrame e) 65536 then .leaf false else .malformed)
  else if !pteLeafBits e then
    if pteC e || pteN e || pteM e || pteModule e != own || !rangeOk (pteFrame e) 65536 then .malformed
    else .pointer (pteFrame e)
  else if level = 1 then .malformed
  else if bits e 32 20 ≠ 0 then .malformed
  else if rangeOk (pteFrame e) 0x20000000 then .leaf true else .malformed

/-! ## Walks (R68 to R73, R76) -/

/-- How a walk ends: a leaf with its entry and size, or an XLATE fault with the level and whether it was malformed. -/
inductive Walked where
  | leaf (pte : Word) (big : Bool) (key : Nat)
  | bad (level : Nat) (malformed : Bool)
  deriving DecidableEq, Repr

def vaIndex (va : Word) (level : Nat) : Nat :=
  if level = 1 then bits va 54 42 else if level = 2 then bits va 41 29 else bits va 28 16

/-- The walk from a table at a level on; n bounds the levels left. A poisoned table word is read as the value it holds
(DESIGN CHOICE: the spec gives no fate of a walk that meets one; log entry 38). -/
def State.walkFrom (s : State) (va : Word) : Nat → Nat → Nat → Walked
  | 0, level, _ => .bad level true
  | n + 1, level, base =>
    let key := base + vaIndex va level * 8
    let e := s.tableWord key
    match classify s.module level e with
    | .invalid => .bad level false
    | .malformed => .bad level true
    | .pointer b => s.walkFrom va n (level + 1) b
    | .leaf big => .leaf e big key

/-- A walk from ptroot (R69): disabled it is an invalid level-1 entry; a root in a reserved range is malformed. -/
def State.walk (s : State) (p : Partition) (va : Word) : Walked :=
  if !p.ptEn then .bad 1 false
  else if !rangeOk (p.ptBase.toNat * 65536) 65536 then .bad 1 true
  else s.walkFrom va 3 1 (p.ptBase.toNat * 65536)

/-- The key a walk cache keeps the pointer to a VA's table of a level under. -/
def walkTag (va : Word) (level : Nat) : Word :=
  if level = 2 then (va >>> (42 : Nat)) ||| 0x8000000000000000 else va >>> (29 : Nat)

/-- The pointers a walk passes: the level-2 table of a VA and its level-3 table, as the walk caches keep them. -/
def State.walkPointers (s : State) (p : Partition) (va : Word) : List (Word × Nat) :=
  let k1 := p.ptBase.toNat * 65536 + vaIndex va 1 * 8
  match classify s.module 1 (s.tableWord k1) with
  | .pointer b2 =>
    let k2 := b2 + vaIndex va 2 * 8
    match classify s.module 2 (s.tableWord k2) with
    | .pointer b3 => [(walkTag va 2, b2), (walkTag va 3, b3)]
    | _ => [(walkTag va 2, b2)]
  | _ => []

/-- The keys of the entries that a walk of a VA reads, as far as it can tell. -/
def State.walkKeys (s : State) (p : Partition) (va : Word) : List Nat :=
  let k1 := p.ptBase.toNat * 65536 + vaIndex va 1 * 8
  k1 :: (s.walkPointers p va).map fun q => q.2 + vaIndex va (if q.1 = walkTag va 2 then 2 else 3) * 8

/-! ## Translation caches (R74) -/

/-- The page of a VA in an entry of either size. -/
def vpn (va : Word) (big : Bool) : Word := if big then va >>> (29 : Nat) else va >>> (16 : Nat)

/-- An entry of a TLB that maps a VA for a partition. -/
def tlbFind (pid : Nat) (va : Word) : List (Nat × Word × Word × Bool) → Option (Word × Bool)
  | [] => none
  | (p, n, e, big) :: t => if p = pid ∧ n = vpn va big then some (e, big) else tlbFind pid va t

/-- A TLB of a capacity with an entry filled in: older entries of the page go, then the oldest (log entry 9). -/
def tlbFill (cap pid : Nat) (va pte : Word) (big : Bool) (l : List (Nat × Word × Word × Bool)) :
    List (Nat × Word × Word × Bool) :=
  ((pid, vpn va big, pte, big) :: l.filter fun q => !(q.1 == pid && q.2.1 == vpn va q.2.2.2)).take cap

/-- The cluster TLB of a core. -/
def State.clusterTlb (s : State) (c : Nat) : List (Nat × Word × Word × Bool) := mapGet [] s.tlbs (clusterOf c)

/-- A leaf placed in a core's DTLB. -/
def State.fillDtlb (s : State) (c pid : Nat) (va pte : Word) (big : Bool) : State :=
  s.modCore c fun q => { q with dtlb := tlbFill 32 pid va pte big q.dtlb }

/-- A leaf placed in the TLB of a core's cluster. -/
def State.fillCluster (s : State) (c pid : Nat) (va pte : Word) (big : Bool) : State :=
  { s with tlbs := mapSet s.tlbs (clusterOf c) (tlbFill 2048 pid va pte big (s.clusterTlb c)) }

/-- A walk's leaf placed in the core's DTLB and its cluster's TLB. -/
def State.fillTlb (s : State) (c pid : Nat) (va pte : Word) (big : Bool) : State :=
  (s.fillDtlb c pid va pte big).fillCluster c pid va pte big

/-- The walk cache of a core's cluster with the pointers of a walk from ptroot in place of those it kept for the VA
(R74: 64 entries for each of 8 walkers). -/
def State.fillWalkCache (s : State) (c pid : Nat) (va : Word) (new : List (Word × Nat)) : State :=
  let stale (q : Nat × Word × Word) : Bool := q.1 == pid && (q.2.1 == walkTag va 2 || q.2.1 == walkTag va 3)
  let old := (mapGet [] s.walkCache (clusterOf c)).filter fun q => !stale q
  let l := (new.map (fun p => (pid, p.1, BitVec.ofNat 64 p.2)) ++ old).take 512
  { s with walkCache := mapSet s.walkCache (clusterOf c) l }

/-- The key of a translated byte on the leaf's module. -/
def leafKey (pte : Word) (big : Bool) (va : Word) : Nat :=
  pteFrame pte + (if big then va.toNat % 0x20000000 else va.toNat % 65536)

/-- The permission an access needs (R77). -/
def permits (pte : Word) : Access → Bool
  | .read => pteR pte
  | .write => pteW pte
  | .amo => pteR pte && pteW pte
  | .fullEmpty => pteR pte && pteW pte
  | .codeSource => pteE pte

/-- The code of an access kind in a fault record (R411). -/
def accessCode : Access → Nat
  | .read => 0 | .write => 1 | .amo => 2 | .fullEmpty => 3 | .codeSource => 4

/-- Where a data access goes: the module and key of its first byte, with the leaf's C and N. -/
structure Dest where
  module : Nat
  key : Nat
  combinable : Bool
  exempt : Bool
  deriving DecidableEq, Repr

/-- The destination a leaf gives. -/
def leafDest (pte : Word) (big : Bool) (va : Word) : Dest :=
  ⟨pteModule pte, leafKey pte big va, pteC pte, pteN pte⟩

/-! ## Parking (R412, R413) -/

/-- The record words of a translation fault (R411). -/
def faultRecord (core k : Nat) (c : Ctx) (va : Word) (a : Access) (level : Nat) (malformed : Bool) (gen : BitVec 32) :
    List Word :=
  [BitVec.ofNat 64 (1 + accessCode a * 16 + level * 256 + (if malformed then 1024 else 0) + gen.toNat * 2 ^ 32), va,
    BitVec.ofNat 64 (core + k * 2 ^ 16 + c.lnum.toNat * 2 ^ 32), c.path, c.pc]

/-- The key of record i of the supervisor queue (R410). -/
def Partition.svqKey (p : Partition) (i : Nat) : Nat := p.svqBase.toNat * 65536 + 128 * (i % 2 ^ (8 + p.svqSz.toNat))

/-- Whether the supervisor queue takes a record (R410). -/
def Partition.svqRoom (p : Partition) : Bool :=
  p.svqEn && (p.svqTail - p.svqHead).toNat < 2 ^ (8 + p.svqSz.toNat)

/-- A 128-byte record written at TAIL, and TAIL after it. -/
def State.putRecord (s : State) (pid : Nat) (p : Partition) (words : List Word) : State :=
  let key := p.svqKey p.svqTail.toNat
  let s := if rangeOk key 128 then s.putWords key (words ++ List.replicate (16 - words.length) 0) else s
  s.modPart pid fun p => { p with svqTail := p.svqTail + 1 }

/-- The record of a park posted (R413): not when the page was posted in this generation, unless the filter is full; lost
and counted while the queue has no room; a notice when the ring was empty. -/
def State.postFault (s : State) (core k : Nat) (va : Word) (a : Access) (level : Nat) (malformed : Bool) : State :=
  match s.partOf core with
  | none => s
  | some (pid, p) =>
    let page : BitVec 39 := (va >>> (16 : Nat)).truncate 39
    if p.filter.length < 1024 && p.filter.contains page then s
    else
      let s := if p.filter.length < 1024 then s.modPart pid fun p => { p with filter := page :: p.filter } else s
      if p.svqRoom then
        let was := p.svqTail == p.svqHead
        let s := s.putRecord pid p (faultRecord core k (s.ctx core k) va a level malformed p.fltGen)
        if was then s.coreNotice core 5 [zext (p.svqTail + 1)] else s
      else s.modPart pid fun p => { p with fltOvf := if p.fltOvf = 0xFFFF then p.fltOvf else p.fltOvf + 1 }

/-- A context parks at its instruction (R412): nothing else changes, and a record is posted. -/
def State.park (s : State) (core k : Nat) (va : Word) (a : Access) (level : Nat) (malformed : Bool) : State :=
  let gen := (s.partAt core).fltGen
  let s := s.modCtx core k fun c =>
    { c with
      mode := .parked va a level gen, wait := none, waitTarget := none
      copy := c.copy.map fun p => { p with header := [], pos := 0, code := [] } }
  (s.postFault core k va a level malformed).count (octetOf core) 9 1

/-- The focus context parks, its instruction undone. -/
def parkHere {α : Type} (va : Word) (a : Access) (level : Nat) (malformed : Bool) : M α :=
  throw (.blockWith fun s => s.park s.focusCore s.focusCtx va a level malformed)

/-! ## Misses and walks (R76) -/

/-- The 64 KiB page of a VA, by which misses are merged. -/
def pageOf (va : Word) : Nat := bits va 54 16

/-- A miss joins the walk of its page, or queues a new one behind those of its cluster. -/
def addWalk (pid : Nat) (w : WalkReq) : List Walk → List Walk
  | [] => [⟨pid, pageOf w.va, w.fresh, [w]⟩]
  | j :: t =>
    if j.pid = pid ∧ j.page = pageOf w.va ∧ j.fresh = w.fresh then { j with waiters := j.waiters ++ [w] } :: t
    else j :: addWalk pid w t

/-- The first eight walks of a core's cluster are under way, one for each walker. -/
def State.startWalks (s : State) (core : Nat) : State :=
  ((mapGet [] s.walkers (clusterOf core)).take 8).foldl (fun s j =>
    match j.waiters with
    | w :: _ => s.flyOnce (octetPlace (octetOf core)) (octetPlace (octetOf core)) 3 (.pageTableWalk w)
    | [] => s) s

/-- An access waits for a walk of its cluster's walkers (R76). -/
def State.askWalk (s : State) (w : WalkReq) : State :=
  let c := w.core
  let l := addWalk (s.pidOf c) w (mapGet [] s.walkers (clusterOf c))
  ({ s with walkers := mapSet s.walkers (clusterOf c) l } : State).startWalks c

/-- A miss of the focus context, which waits for a walk (R76). -/
def State.miss (s : State) (va : Word) (a : Access) : State :=
  ((s.modF fun c => { c with mode := .walking va a }).askWalk ⟨s.focusCore, s.focusCtx, va, a, false⟩).count
    (octetOf s.focusCore) 8 1

/-- A walk afresh for the focus context, which waits for it: table words lie on another module (R78, R79). -/
def State.askFresh (s : State) (va : Word) (a : Access) : State :=
  (s.modF fun c => { c with mode := .walking va a }).askWalk ⟨s.focusCore, s.focusCtx, va, a, true⟩

/-- A miss, the instruction undone. -/
def missHere {α : Type} (va : Word) (a : Access) : M α := throw (.blockWith fun s => s.miss va a)

/-- The cached entries of a page dropped, before an access through them is denied (R78). -/
def State.dropTlb (s : State) (c pid : Nat) (va : Word) : State :=
  let keep (q : Nat × Word × Word × Bool) : Bool := !(q.1 == pid && q.2.1 == vpn va q.2.2.2)
  let s := s.modCore c fun q => { q with dtlb := q.dtlb.filter keep }
  { s with tlbs := mapSet s.tlbs (clusterOf c) ((s.clusterTlb c).filter keep) }

/-- A walk afresh from ptroot, whose entries replace what the caches of a core keep for the VA (R78). -/
def State.rewalk (s : State) (c : Nat) (va : Word) : Walked × State :=
  let p := s.partAt c
  let pid := s.pidOf c
  let r := s.walk p va
  let s := (s.dropTlb c pid va).fillWalkCache c pid va (if p.ptEn then s.walkPointers p va else [])
  (r, match r with | .leaf e big _ => s.fillTlb c pid va e big | .bad _ _ => s)

/-- The entry that the DTLB of a core, or else its cluster's TLB, gives (R76), with the state after it. -/
def State.lookUp (s : State) (c : Nat) (va : Word) : Option (Word × Bool) × State :=
  let pid := s.pidOf c
  match tlbFind pid va (s.core c).dtlb with
  | some r => (some r, s)
  | none => match tlbFind pid va (s.clusterTlb c) with
    | some (e, big) => (some (e, big), (s.fillDtlb c pid va e big).count (octetOf c) 8 1)
    | none => (none, s)

/-- The translation of a VA for an access of the focus context: a miss walks; an entry that denies is walked afresh
(R78), by the cluster's walkers where a table lies on another module, and then allows, parks, or traps PERM. EN = 0 faults
at once, though a cache may hold the page (DESIGN CHOICE: R69 and R78 leave open whether a cached entry still serves; log
entry 38). -/
def translate (va : Word) (a : Access) : M Dest := do
  let s ← get
  let c := s.focusCore
  if !s.fpart.ptEn then parkHere va a 1 false
  match s.lookUp c va with
  | (none, _) => missHere va a
  | (some (e, big), t) =>
    if permits e a then
      set t
      return leafDest e big va
    else if (s.missing (s.walkKeys s.fpart va)).isSome then throw (.blockWith fun s => s.askFresh va a)
    else match (s.rewalk c va).1 with
      | .bad level malformed => throw (.blockWith fun s => (s.rewalk c va).2.park c s.focusCtx va a level malformed)
      | .leaf e big _ =>
        if permits e a then
          set (s.rewalk c va).2
          return leafDest e big va
        else throw (.trapWith (fun s => (s.rewalk c va).2) cPERM va)

/-- Where an access at a of width w goes: ACCESS (R65) before MISALIGN (R66) before translation. -/
def dataTarget (a : Word) (w : Nat) (k : Access) : M Dest := do
  let s ← get
  match target s.fpart s.focusCore a with
  | none => trap cACCESS a
  | some t =>
    if a.toNat % w ≠ 0 then trap cMISALIGN a
    match t with
    | .here c o => return ⟨s.module, localKey c o, false, false⟩
    | .virt va => translate va k

/-- A cached pointer of a partition. -/
def findPointer (pid : Nat) (n : Word) : List (Nat × Word × Word) → Option Nat
  | [] => none
  | (p, m, b) :: t => if p = pid ∧ m = n then some b.toNat else findPointer pid n t

/-- A walk that starts at the deepest pointer the cluster's walk caches hold (R74, R76). A level-3 pointer is kept under
VA[54:29], a level-2 pointer under VA[54:42] with a marking bit above. -/
def State.cachedWalk (s : State) (c pid : Nat) (p : Partition) (va : Word) : Walked :=
  let l := mapGet [] s.walkCache (clusterOf c)
  if !p.ptEn then .bad 1 false
  else match findPointer pid (walkTag va 3) l with
    | some b => s.walkFrom va 1 3 b
    | none => match findPointer pid (walkTag va 2) l with
      | some b => s.walkFrom va 2 2 b
      | none => s.walk p va

/-- An engine of a core, by the number that its walks have. -/
def Core.modWalker (q : Core) (ctx : Nat) (f : Engine → Engine) : Core :=
  if ctx = 16 then { q with cp0 := f q.cp0 } else if ctx = 17 then { q with cp1 := f q.cp1 }
  else if ctx = 18 then { q with mx := f q.mx } else { q with cl := f q.cl }

/-- What takes an engine's work up again. -/
def engineEvent (core ctx : Nat) : Event :=
  if ctx = 16 then .channelOperationStart core .cp0 else if ctx = 17 then .channelOperationStart core .cp1
  else if ctx = 18 then .matrixCommandComplete (octetOf core) true 1 else .collectiveOperationStart core

/-- What a walk gives an access that no cached entry lets through, as the KIND of an engine's fault (R135): none, 3 XLATE or
4 PERM. -/
def walkKind (r : Walked) (a : Access) : Option Nat :=
  match r with
  | .leaf e _ _ => if permits e a then none else some 4
  | .bad _ _ => some 3

/-- The result of a walk at an engine that waits for it: its operation goes on with the entry, or with the KIND. -/
def State.walkEngine (s : State) (r : Walked) (w : WalkReq) : State :=
  let kind : Option Nat := match r with
    | .leaf _ _ _ => if w.fresh then walkKind r w.access else none
    | .bad _ _ => some 3
  let note (o : EngOp) : EngOp := { o with walked := kind.map fun k => (pageOf w.va, k) }
  (s.modCore w.core fun q => q.modWalker w.ctx fun g =>
    { g with queue := (g.queue.take 1).map note ++ g.queue.drop 1 }).flyOnce (octetPlace (octetOf w.core)) w.core 2
      (engineEvent w.core w.ctx)

/-- The result of a walk for a partition at one of its waiters (R72, R74, R76, R78): the context tries again with the leaf in
its DTLB, traps PERM where one walked afresh denies its access, or parks, unless its DEADLINE has come meanwhile (R367). -/
def State.walkResult (s : State) (pid : Nat) (r : Walked) (w : WalkReq) : State :=
  if s.pidOf w.core ≠ pid then s
  else if 16 ≤ w.ctx then s.walkEngine r w
  else if (s.ctx w.core w.ctx).mode = .walking w.va w.access then
    let s := s.modCtx w.core w.ctx fun c => { c with mode := .ready }
    match r with
    | .leaf e big _ =>
      let s := s.fillDtlb w.core pid w.va e big
      if w.fresh && !permits e w.access && (s.ctx w.core w.ctx).dlDue.isNone then s.takeTrap w.core w.ctx cPERM w.va else s
    | .bad level malformed =>
      if (s.ctx w.core w.ctx).dlDue.isSome then s else s.park w.core w.ctx w.va w.access level malformed
  else s

/-- The walk of a miss taken from its cluster's list. -/
def takeWalk (w : WalkReq) : List Walk → Option Walk × List Walk
  | [] => (none, [])
  | j :: t =>
    if j.waiters.head? = some w then (some j, t)
    else
      let r := takeWalk w t
      (r.1, j :: r.2)

/-- A walk ends: its leaf fills the TLB of the cluster, in place of what the caches held where it has started afresh. -/
def State.endWalk (s : State) (c : Nat) (va : Word) (j : Walk) : State :=
  let p := (s.part j.pid).getD Partition.reset
  let r := if j.fresh then s.walk p va else s.cachedWalk c j.pid p va
  let s := if j.fresh then s.dropTlb c j.pid va else s
  let s := match r with
    | .leaf e big _ => (s.fillWalkCache c j.pid va (s.walkPointers p va)).fillCluster c j.pid va e big
    | .bad _ _ => s
  j.waiters.foldl (fun s w => s.walkResult j.pid r w) s

/-- PAGE_TABLE_WALK (R72, R73, R76): a walk ends, once it has read the entries that lie on other modules (R79). Its leaf fills
the TLBs, every waiter receives its result, and the next walk in the queue begins. -/
def execPageTableWalk (w : WalkReq) (s : State) : Host.Outcome State Fault Refusal :=
  change (fun s =>
    match takeWalk w (mapGet [] s.walkers (clusterOf w.core)) with
    | (none, _) => s.farDone (.pageTableWalk w)
    | (some j, rest) =>
      let p := (s.part j.pid).getD Partition.reset
      s.withFar (.pageTableWalk w) (if p.ptEn then s.walkKeys p w.va else []) fun s =>
        (({ s with walkers := mapSet s.walkers (clusterOf w.core) rest } : State).endWalk w.core w.va j).startWalks w.core) s

end Sys2Proof.Machine
end

