-- ==== Sys2Proof/Machine/Home.lean ====
section
/-! DEFINITION. What happens at the home of a word: loads, stores, reductions, atomics and full/empty operations
(R90 to R94, R110, R115, R182 to R194), the wait tables, the replies, and what a finished store lets go. -/

namespace Sys2Proof.Machine

/-- An event record of Umber, with the next EVSEQ (R458); none while no image has started Umber (R464). Its first word numbers
the events in R458's order from 1 (log entry 13). -/
def State.umberEvent (s : State) (words : List Word) : State :=
  if s.boot ≠ .running then s else { s with evseq := s.evseq + 1, hostOut := s.hostOut ++ [.event s.evseq words] }

/-- A machine check logged (R459 word 7), with words that say where; Umber reports it (R458). -/
def State.machineCheckOf (s : State) (l : List Nat) : State :=
  { s with mchecks := s.mchecks + 1 }.umberEvent (4 :: l.map fun n => BitVec.ofNat 64 n)

/-- A machine check logged. -/
def State.machineCheck (s : State) : State := s.machineCheckOf []

/-! ## Replies -/

/-- A load's or full/empty operation's reply sent from a place to its requester (R94). -/
def State.replyLoad (s : State) (place : Nat) (w : Who) (a : Answer) : State :=
  if w.module = s.module then s.fly place w.core 1 (.loadReply ⟨w, a⟩) else s.toModule w.module 1 (.reply ⟨w, a⟩)

/-- An AMO's reply, to a context or to a record of a router (R103). -/
def State.replyAmo (s : State) (place : Nat) (r : ReplyTo) (a : Answer) : State :=
  match r with
  | .ctx w =>
    if w.module = s.module then s.fly place w.core 1 (.amoReply ⟨w, a⟩) else s.toModule w.module 1 (.reply ⟨w, a⟩)
  | .record m o i =>
    if m = s.module then s.fly place (octetPlace o) 1 (.decombineSplit o i a) else s.toModule m 1 (.split o i a)

/-- The acknowledgement of a store or RED (R94). -/
def State.replyStore (s : State) (place : Nat) (r : ReplyTo) : State :=
  match r with
  | .ctx w =>
    if w.module = s.module then s.fly place w.core 1 (.storeAcknowledgement w.core w.id)
    else s.toModule w.module 1 (.ack w.core w.id)
  | .record m o i =>
    if m = s.module then s.fly place (octetPlace o) 1 (.decombineSplit o i (.value 0)) else s.toModule m 1 (.split o i (.value 0))

/-! ## Access to a word at its home -/

/-- The pieces of n bytes at a: an offset and a length each, none across an 8-byte word, at most f. -/
def pieces (a : Nat) : Nat → Nat → List (Nat × Nat)
  | 0, _ => []
  | _, 0 => []
  | f + 1, n =>
    let l := if n ≤ 8 - a % 8 then n else 8 - a % 8
    (a, l) :: pieces (a + l) f (n - l)

/-- A load's answer (R93, R186, R197); that of a channel's access may take in several words (R137). -/
def State.loadAt (s : State) (key w : Nat) : Answer :=
  let l := pieces key 9 w
  if l.any fun p => s.poisoned p.1 then .poisoned
  else if l.length ≤ 1 then .value (BitVec.ofNat 64 (s.read key w))
  else .block (l.map fun p => BitVec.ofNat 64 (s.read p.1 p.2))

/-- The waiting full/empty entries of a place. -/
def State.waitTab (s : State) (place : Nat) : List HeldFe :=
  if place < 12288 then (s.core place).waitTab else (s.port (place - 12288)).waitTab

/-- The waiting entries of a place replaced. -/
def State.setWaitTab (s : State) (place : Nat) (l : List HeldFe) : State :=
  if place < 12288 then s.modCore place fun q => { q with waitTab := l }
  else s.modPort (place - 12288) fun q => { q with waitTab := l }

/-- The condition of a full/empty operation on a tag (R202). -/
def feCond (op : FeOp) (full : Bool) : Bool :=
  match op with
  | .ldf | .ldfe => full
  | .stf => !full
  | .ste | .sete | .probe => true

/-- The action of a full/empty operation whose condition holds, with what it answers (R187, R202). -/
def State.feAct (s : State) (key : Nat) (op : FeOp) (data : Word) : Answer × State :=
  match op with
  | .ldf => (.value (s.word key), s)
  | .ldfe => (.value (s.word key), s.setTag key false)
  | .stf => (.value 0, (s.write key 8 data.toNat).setTag key true)
  | .ste => (.value 0, ((s.clearPoison key).write key 8 data.toNat).setTag key false)
  | .sete => (.value 0, s.setTag key false)
  | .probe => (.value (ofBool (s.tag key)), s)

/-- A join delivery performed: word 0 stored, then word 1 with its tag set full (R223). key is that of word 1. -/
def State.joinAct (s : State) (key : Nat) (x10 x11 : Word) : State :=
  (((s.clearPoison (key - 8)).write (key - 8) 8 x10.toNat).write key 8 x11.toNat).setTag key true

/-- Whether an operation changes the tag or clears poison, so that held entries are tried (R191, R223). -/
def feChanges (op : FeOp) : Bool := match op with | .ldf | .probe => false | _ => true

/-- An access that changes a tag, and its word. -/
def tagChange : Event → Option (Nat × Nat × Word)
  | .fullEmptyRequest q => if feChanges q.op then some (wordKey q.key, q.launch, q.tag) else none
  | .joinDelivery j => some (wordKey (localKey j.core (j.off + 8)), j.launch, j.tag)
  | _ => none

/-- An access of a launch that the log has perform held entries waits at a place for its turn, for the word of a key: the
held entries are its (R393). -/
def State.awaited (s : State) (place pid launch key : Nat) : Bool :=
  (s.site place).hold.any fun e => match tagChange e with
    | some (k, l, t) => k == wordKey key && l == launch && s.logged pid place 2 t.toNat (2 ^ 46) != 0
    | none => false

/-- Madder's part in performing a held entry by an access with a tag (R390, R393): RECORD logs it, and the outcome of a
timed one; REPLAY consumes what it logged, and performs a timed one only as its site's next decision: none while it is
not. A change that the log has perform none performs those that nothing in the log keeps from it (log entry 36). -/
def State.wakeLog (s : State) (place : Nat) (tag : Word) (r : FeReq) : Option State :=
  let timed := logWord 5 place (r.tag.toNat % 2 ^ 45)
  match s.recMode r.pid r.launch with
  | 2 => some (s.logNow r.pid r.launch place
      (logWord 2 place (tag.toNat % 2 ^ 46) :: if r.deadline = 0 then [] else [timed]))
  | 3 =>
    let t := s.takeNext r.pid place 2 tag.toNat (2 ^ 46)
    if r.deadline = 0 then
      if !s.isNext r.pid place 2 tag.toNat (2 ^ 46) && s.awaited place r.pid r.launch r.key then none else some t
    else if t.isNext r.pid place 5 (r.tag.toNat % 2 ^ 45) (2 ^ 46) then
      some ((t.takeNext r.pid place 5 (r.tag.toNat % 2 ^ 45) (2 ^ 46)).modSite place fun x => x.unstall r.pid 8 r.tag)
    else none
  | _ => some s

/-- A held entry may still be performed (R193): wall has not reached its deadline, or a REPLAY performs it as logged. -/
def State.inTime (s : State) (r : FeReq) : Bool :=
  r.deadline == 0 || !s.reached r.deadline || s.recMode r.pid r.launch == 3

/-- One pass down the held entries of a word, oldest first, for an access with a tag: each whose condition holds is
performed and answered (R191). -/
def tryPass (place key : Nat) (tag : Word) : List HeldFe → State → List HeldFe × State
  | [], s => ([], s)
  | h :: t, s =>
    if wordKey h.req.key = wordKey key ∧ s.poisoned key = false ∧ feCond h.req.op (s.tag key) = true ∧ s.inTime h.req = true then
      match s.wakeLog place tag h.req with
      | none => (h :: t, s)
      | some s =>
        match h.word0 with
        | some v => tryPass place key tag t (s.joinAct h.req.key v h.req.data)
        | none =>
          let r := s.feAct h.req.key h.req.op h.req.data
          let s := (r.2.replyLoad place h.req.who r.1).disarm (.heldEntryTimeout h.req)
          tryPass place key tag t s
    else
      let r := tryPass place key tag t s
      (h :: r.1, r.2)

/-- The passes that a tag change starts: until no held entry of the word can be performed (R191). -/
def tryRounds (place key : Nat) (tag : Word) : Nat → State → State
  | 0, s => s
  | n + 1, s =>
    let l := s.waitTab place
    let r := tryPass place key tag l s
    let s := r.2.setWaitTab place r.1
    if r.1.length < l.length then tryRounds place key tag n s else s

/-- The held entries of a word tried after a change of its tag by an access with an origin tag, 0 for one that has none
(R191, R390). -/
def State.tryHeld (s : State) (place key : Nat) (tag : Word) : State :=
  if (s.waitTab place).isEmpty then s else tryRounds place key tag ((s.waitTab place).length + 1) s

/-- Every held entry of a place tried, after its replay queue has moved on. -/
def State.tryPlace (s : State) (place : Nat) : State :=
  (s.waitTab place).foldl (fun s h => s.tryHeld place h.req.key 0) s

/-- w bytes stored at a key by an ordinary store: a poisoned word takes a whole word only (R93, R186); tags are
unchanged. -/
def State.storeBytes (s : State) (place key w : Nat) (v : Word) : State :=
  if s.poisoned key then
    if w = 8 then ((s.clearPoison key).write key 8 v.toNat).tryHeld place key 0 else s
  else s.write key w v.toNat

/-- A RED performed at its home: discarded with a machine check on a poisoned word (R93). -/
def State.redAt (s : State) (key w : Nat) (op : AmoOp) (v : Word) : State :=
  if s.poisoned key then s.machineCheck
  else s.write key w (amoNew op (w == 4) (BitVec.ofNat 64 (s.read key w)) v 0).toNat

/-- A store-buffer entry's operation performed at a key of its home (R90, R198); of a vector store, its first element
(R260). -/
def State.storeAt (s : State) (place key : Nat) : StoreOp → State
  | .bytes _ w v => s.storeBytes place key w v
  | .red _ w op v => s.redAt key w op v
  | .lanes l => match l with | (k, w, v) :: _ => s.storeBytes place k w v | [] => s
  | .block l => l.foldl (fun s x => s.storeBytes place x.1 x.2.1 x.2.2) s

/-- An AMO performed at its home as one step, with its answer (R110): a poisoned word is left alone. -/
def State.amoAt (s : State) (key : Nat) (w32 : Bool) (op : AmoOp) (b c : Word) : Answer × State :=
  if s.poisoned key then (.poisoned, s)
  else
    let w := if w32 then 4 else 8
    let old : Word := BitVec.ofNat 64 (s.read key w)
    let old' := if w32 then zext (low32 old) else old
    if op = .cas ∧ (if w32 then low32 old != low32 c else old != c) = true then (.value old', s)
    else (.value old', s.write key w (amoNew op w32 old b c).toNat)

/-! ## What holds an arrival back -/

/-- The partition that owns a core at all, running or saved. -/
def ownerPart (c : Nat) : SMap Partition → Option (Nat × Partition)
  | [] => none
  | (i, p) :: t => if p.hasCore c then some (i, p) else ownerPart c t

/-- Whether a core's partition is pre-empted for a request that partition pid sent (R312, R418): its own drain. -/
def State.preempted (s : State) (c pid : Nat) : Bool :=
  match ownerPart c s.parts with
  | none => false
  | some (i, p) => match p.stage with
    | .running => false
    | .preempting _ => i != pid
    | .saved => (s.partOf c).isNone
    | .stopped => true

/-- The message that an event carries. -/
def eventMessage : Event → Option Message
  | .messageAcceptance _ m => some m
  | .refused _ m _ => some m
  | .hardwareMessageResend m => some m
  | .copyCommand m => some m
  | .collectiveCommand m => some m
  | .matrixCommand m => some m
  | .launchRequest m => some m
  | .hostClassMessage m => some m
  | _ => none

/-- The partition key that the traffic of a collective engine carries (R180). -/
def eventKey : Event → Option (BitVec 16)
  | .deposit d => some d.key
  | .multicastDelivery d => some d.key
  | .haloPush d => some d.key
  | .reducePartial p => some p.key
  | .reduceResult p => some p.key
  | _ => none

/-- The number of a host's access to memory that an event carries. -/
def eventRma : Event → Option Nat
  | .remoteStore r => match r.reply with | .ctx w => if w.core = outside then some w.id else none | .record _ _ _ => none
  | .remoteLoad r => if r.who.core = outside then some r.who.id else none
  | _ => none

/-- An arrival for a core is meant for a saved partition, though another one may occupy the core: by the key of a message
or of an engine's traffic, or the partition of a notice, a release or a host's access (R180, R312, R418; log entry 33). -/
def State.forSaved (s : State) (c : Nat) (e : Event) : Bool :=
  s.parts.any fun q => q.2.hasCore c && q.2.stage == .saved &&
    match e with
    | .supervisorNotice n => n.pid == q.1
    | .barrierRelease _ g _ => g.pid == q.1
    | e => match eventMessage e with
      | some m => m.key == q.2.key
      | none => eventKey e == some q.2.key || match eventRma e with
        | some id => s.rmas.any fun r => r.id == id && r.pid == q.1
        | none => false

/-- An arrival for a core that its octet's router holds: the octet sleeps and is woken (R433), or the partition is
pre-empted (R312, R418). -/
def State.heldBack (s : State) (c pid : Nat) (e : Event) : Option State :=
  let o := octetOf c
  if (s.octet o).power ≠ .active then
    some ((s.modOctet o fun x => { x with held := x.held ++ [s.flightTo c e] }).startWake o)
  else if s.preempted c pid || s.forSaved c e then some (s.modOctet o fun x => { x with held := x.held ++ [s.flightTo c e] })
  else none

/-- Whether a key of a core's local memory lies in its resident's region. -/
def Core.inRegion (q : Core) (off : Nat) : Bool :=
  match q.resident with
  | none => false
  | some r => r.base ≤ off && off < r.base + 2 ^ (8 + r.cls)

/-- An access to a region word during an exchange of residents, held at the router (R349). -/
def State.heldSwap (s : State) (key : Nat) (e : Event) : Option State :=
  if isDevice key then none
  else
    let c := homePlace key
    let q := s.core c
    if q.exch.isSome && q.inRegion (key % 65536) then some (s.modCore c fun q => { q with exchHeld := q.exchHeld ++ [e] })
    else none

/-- Whether a place accepts nothing on network 0 (R92, R394): what it has stopped waits, or its replay hold of 16 is full. -/
def State.stopsAt (s : State) (place : Nat) : Bool :=
  !(if place < 12288 then (s.core place).stopped else (s.port (place - 12288)).stopped).isEmpty
    || 16 ≤ (s.site place).hold.length

/-- What arrives on network 0 at a place that accepts nothing there. -/
def State.heldStop (s : State) (place : Nat) (e : Event) : Option State :=
  if s.stopsAt place then
    some (if place < 12288 then s.modCore place fun q => { q with stopped := q.stopped ++ [e] } else s.stopAt (place - 12288) e)
  else none

/-- What a place's replay hold keeps of a context holds its later requests (R394). -/
def State.heldAfter (s : State) (place : Nat) (e : Event) : Option State :=
  let l := s.askersOf e
  if (s.site place).hold.any fun h => (s.askersOf h).any fun w => l.any fun v => v.module == w.module && v.core == w.core && v.ctx == w.ctx
  then some (s.modSite place fun x => { x with hold := x.hold ++ [e] })
  else none

/-- The partition key that a request carries (R67, R307). -/
def requestKey : Event → Option (BitVec 16)
  | .remoteStore r => some r.pkey
  | .remoteLoad r => some r.pkey
  | .fullEmptyRequest r => some r.pkey
  | .amoRequest r => some r.pkey
  | _ => none

/-- A request that reaches a core of another partition, or of none (R67, R314): it is not performed. The record of the notice
holds its KEY alone (DESIGN CHOICE: R314 gives the words of a diverted message; log entry 30). -/
def State.diverted (s : State) (core : Nat) (e : Event) : Option State :=
  match requestKey e, s.partOf core with
  | none, _ => none
  | some _, none => some s.machineCheck
  | some k, some (pid, p) =>
    if k = p.key then none
    else
      let words := [BitVec.ofNat 64 (2 + core * 256), BitVec.ofNat 64 (k.toNat * 2 ^ 48)]
      let r : Word × State := if p.svqRoom then (zext p.svqTail, s.putRecord pid p words) else (0xFFFFFFFF, s)
      some (r.2.coreNotice core 1 [r.1])

/-- What holds a request for a key back, if anything does. A host's access is no part of its partition's own drain. -/
def State.arriveAt (s : State) (key pid : Nat) (e : Event) : Option State :=
  let place := homePlace key
  if isDevice key then s.heldStop place e
  else (s.heldBack place (if (eventRma e).isSome then 64 else pid) e).orElse fun _ =>
    (s.diverted place e).orElse fun _ => (s.heldStop place e).orElse fun _ => s.heldSwap key e

/-- A write accepted into a port's write queue: none when the line has no entry and all 64 are in use (R91, R92). -/
def State.queueLine (s : State) (key : Nat) : Option State :=
  if !isDevice key then some s
  else
    let p := portOf key
    let line := key / 64
    let q := s.port p
    if q.queue.contains line then some s
    else if q.queue.length < 64 then
      some ((s.modPort p fun q => { q with queue := q.queue ++ [line] }).fly (portPlace p) (portPlace p) 3
        (.writeQueueEntryFree p))
    else none

/-- What the ports have stopped comes on again. -/
def State.restart (s : State) : List (Nat × Port) → State
  | [] => s
  | (p, q) :: t =>
    if q.stopped.isEmpty then s.restart t
    else ((s.modPort p fun q => { q with stopped := [] }).restart t).resend (portPlace p) q.stopped

/-- WRITE_QUEUE_ENTRY_FREE (R92): the oldest line drains, and what waited in the router comes on, also at a port that
forwards to this one (R79). -/
def execWriteQueueEntryFree (port : Nat) (s : State) : Host.Outcome State Fault Refusal :=
  change (fun s =>
    let s := s.modPort port fun q => { q with queue := q.queue.tail }
    s.restart s.ports) s

/-! ## Page moves (R79 to R81) -/

/-- A store's operation at another key. -/
def StoreOp.rekey (k : Nat) : StoreOp → StoreOp
  | .bytes _ w v => .bytes k w v
  | .red _ w op v => .red k w op v
  | .block l => .block (l.map fun x => (k + (x.1 - (l.headD (0, 0, 0)).1), x.2))
  | o => o

/-- The cores that sent a request, which keep their order behind one of theirs that a port has forwarded: a full/empty
operation is answered before its context goes on. -/
def State.requesters (s : State) (e : Event) : List (Nat × Nat) :=
  match e with
  | .fullEmptyRequest _ => []
  | e => (s.askersOf e).map fun w => (w.module, w.core)

/-- A request goes behind others of its cores. -/
def State.behindOf (s : State) (e : Event) (l : List (Nat × Event)) : Bool :=
  l.any fun x => x.2 != e && (s.requesters x.2).any (s.requesters e).contains

/-- A request forwarded by its source port to another module: the reply comes back through the port (R79). -/
def State.sendAway (s : State) (port m k : Nat) (e : Event) : State :=
  let (id, s) := s.fresh
  let w : Who := ⟨s.module, portPlace port, 32, id⟩
  let s := s.modPort port fun q => { q with fwd := q.fwd ++ [(id, e)] }
  match e with
  | .remoteStore r => s.toModule m 0 (.store { r with reply := .ctx w, module := m, op := StoreOp.rekey k r.op })
  | .remoteLoad r => s.toModule m 0 (.load { r with who := w, module := m, key := k })
  | .fullEmptyRequest r => s.toModule m 0 (.fe { r with who := w, module := m, key := k })
  | .amoRequest r => s.toModule m 0 (.amo { r with reply := .ctx w, module := m, key := k })
  | _ => s

/-- The answer to a request that a port has forwarded to another module goes on to its requester; what has waited behind
the request comes on (R79, R81). -/
def State.fwdAnswer (s : State) (port id : Nat) (a : Answer) : State :=
  let q := s.port port
  match mapFind q.fwd id with
  | none => s
  | some e =>
    let s := s.modPort port fun q => { q with fwd := q.fwd.filter fun x => x.1 != id && x.1 != 0 }
    let place := portPlace port
    let s := match e with
      | .remoteStore r => s.replyStore place r.reply
      | .remoteLoad r => s.replyLoad place r.who a
      | .fullEmptyRequest r => s.replyLoad place r.who a
      | .amoRequest r =>
        if r.src = place then (if a = Answer.value r.c then s else s.machineCheck) else s.replyAmo place r.reply a
      | _ => s
    s.resend place ((q.fwd.filter fun x => x.1 == 0).map fun x => x.2)

/-! ## What a finished store lets go (R294, R297) -/

/-- A key removed from a list. -/
def dropId (id : Nat) (l : List Nat) : List Nat := l.filter (· != id)

/-- A context's fences changed. -/
def Ctx.mapFences (f : Fence → Fence) (c : Ctx) : Ctx := if c.fences.isEmpty then c else { c with fences := c.fences.map f }

/-- A store that was waited for is now posted: its confirmation is waited for. -/
def movePosted (id : Nat) (stores posted : List Nat) : List Nat := if stores.contains id then posted ++ [id] else posted

/-- A store performed, for a fence. -/
def Fence.storeDone (id : Nat) (f : Fence) : Fence :=
  { f with stores := dropId id f.stores, posted := dropId id f.posted }

/-- A store performed, for a queued message. -/
def SqEntry.storeDone (id : Nat) (e : SqEntry) : SqEntry :=
  { e with stores := dropId id e.stores, posted := dropId id e.posted }

/-- A store performed, for an engine's operations. -/
def Engine.storeDone (e : Engine) (id : Nat) : Engine :=
  ({ e with queue := e.queue.map fun o =>
      { o with stores := dropId id o.stores, posted := dropId id o.posted } } : Engine).modLate fun o => { o with posted := dropId id o.posted }

/-- A store performed, for a barrier's arrival (R167). -/
def Arrival.storeDone (id : Nat) (a : Arrival) : Arrival :=
  { a with stores := dropId id a.stores, posted := dropId id a.posted }

/-- A store posted, for a barrier's arrival. -/
def Arrival.storePosted (id : Nat) (a : Arrival) : Arrival :=
  { a with posted := movePosted id a.stores a.posted, stores := dropId id a.stores }

/-- A store performed, for a join delivery (R223). -/
def JoinOut.storeDone (id : Nat) (a : JoinOut) : JoinOut :=
  { a with stores := dropId id a.stores, posted := dropId id a.posted }

/-- A store posted, for a join delivery. -/
def JoinOut.storePosted (id : Nat) (a : JoinOut) : JoinOut :=
  { a with posted := movePosted id a.stores a.posted, stores := dropId id a.stores }

/-- A store performed, for a context. -/
def Ctx.storeDone (id : Nat) (c : Ctx) : Ctx :=
  let c := { c with posted := dropId id c.posted }
  c.mapFences (Fence.storeDone id)

/-- What waits for a store of the core, told that it is performed. -/
def Core.storeDone (q : Core) (id : Nat) : Core :=
  { q with
    ctxs := q.ctxs.map (Ctx.storeDone id)
    arrivals := q.arrivals.map (Arrival.storeDone id)
    joins := q.joins.map (JoinOut.storeDone id)
    sq0 := q.sq0.map (SqEntry.storeDone id), sq1 := q.sq1.map (SqEntry.storeDone id)
    sq2 := q.sq2.map (SqEntry.storeDone id)
    cp0 := q.cp0.storeDone id, cp1 := q.cp1.storeDone id, mx := q.mx.storeDone id, cl := q.cl.storeDone id }

/-- A store posted, for a fence: only scope waits for the confirmation (R302). -/
def Fence.storePosted (id : Nat) (f : Fence) : Fence :=
  { f with posted := if f.scope then movePosted id f.stores f.posted else f.posted, stores := dropId id f.stores }

/-- A store posted, for a queued message (R297, R298). -/
def SqEntry.storePosted (id : Nat) (e : SqEntry) : SqEntry :=
  { e with posted := movePosted id e.stores e.posted, stores := dropId id e.stores }

/-- A store posted, for an engine's operations: they wait for it at its home (R120). -/
def Engine.storePosted (e : Engine) (id : Nat) : Engine :=
  { e with queue := e.queue.map fun o =>
      { o with posted := movePosted id o.stores o.posted, stores := dropId id o.stores } }

/-- A posted store accepted by the fabric port: acknowledged for the store buffer, its confirmation outstanding (R298). -/
def Core.storePosted (q : Core) (ctx id : Nat) : Core :=
  let q := { q with
    ctxs := q.ctxs.map (Ctx.mapFences (Fence.storePosted id))
    arrivals := q.arrivals.map (Arrival.storePosted id)
    joins := q.joins.map (JoinOut.storePosted id)
    sq0 := q.sq0.map (SqEntry.storePosted id), sq1 := q.sq1.map (SqEntry.storePosted id)
    sq2 := q.sq2.map (SqEntry.storePosted id)
    cp0 := q.cp0.storePosted id, cp1 := q.cp1.storePosted id, mx := q.mx.storePosted id, cl := q.cl.storePosted id }
  let c := q.ctx ctx
  q.setCtx ctx { c with posted := c.posted ++ [id] }

/-! ## The store buffer (R198, R294) -/

/-- The home of a store-buffer entry: its module, and its place there. -/
def SbEntry.sameHome (a b : SbEntry) : Bool := a.req.module == b.req.module && a.home == b.home

/-- Whether a store-buffer entry may be sent: the loads before it have their values (R294); an SDREL also waits for every
earlier access of its context (R200). prev is the entry before it, if any. -/
def SbEntry.ready (e : SbEntry) (c : Ctx) (prev : Option SbEntry) : Bool :=
  e.loads.all (fun i => c.pend.all fun p => p.id != i)
    && (match prev with
        | none => true
        | some p => !e.rel && p.sent && p.sameHome e)
    && (!e.rel || c.posted.isEmpty)

/-- The first entry of a store buffer that may be sent now. -/
def nextStore (q : Core) : Option SbEntry → List SbEntry → Option SbEntry
  | _, [] => none
  | prev, e :: t =>
    if e.sent then nextStore q (some e) t
    else if e.ready (q.ctx e.ctx) prev then some e
    else none

/-- One entry of the core's store buffer sent (R294): to its home, or to the fabric port that leads there (R298). -/
def State.sendStore (s : State) (core : Nat) (e : SbEntry) : State :=
  (s.modCore core fun q => { q with sb := q.sb.map fun x => if x.id = e.id then { x with sent := true } else x }).ask
    core e.req.module e.home (.remoteStore e.req)

/-- The store buffer sends what it may, at most n entries. -/
def State.pumpStores (s : State) (core : Nat) : Nat → State
  | 0 => s
  | n + 1 =>
    match nextStore (s.core core) none (s.core core).sb with
    | none => s
    | some e => (s.sendStore core e).pumpStores core n

/-- The start of the engine contexts that have work, tried again. -/
def State.kickEngines (s : State) (core : Nat) : State :=
  let q := s.core core
  let s := if q.cp0.queue.isEmpty then s else s.flyOnce core (octetPlace (octetOf core)) 2 (.channelOperationStart core .cp0)
  let s := if q.cp1.queue.isEmpty then s else s.flyOnce core (octetPlace (octetOf core)) 2 (.channelOperationStart core .cp1)
  let s := if q.cl.queue.isEmpty then s else s.flyOnce core (octetPlace (octetOf core)) 2 (.collectiveOperationStart core)
  if q.mx.queue.isEmpty then s
  else
    let o := octetOf core
    (s.flyOnce core (octetPlace o) 2 (.matrixCommandStart o false)).flyOnce core (octetPlace o) 2 (.matrixCommandStart o true)

/-! ## The send queues (R316) -/

/-- A send queue of the core. -/
def Core.sq (q : Core) (v : Nat) : List SqEntry := if v = 0 then q.sq0 else if v = 1 then q.sq1 else q.sq2

/-- A send queue replaced. -/
def Core.setSq (q : Core) (v : Nat) (l : List SqEntry) : Core :=
  if v = 0 then { q with sq0 := l } else if v = 1 then { q with sq1 := l } else { q with sq2 := l }

/-- A locator entry (R327). -/
def findLocator (name : Nat) : List Locator → Option Locator
  | [] => none
  | l :: t => if l.name = name then some l else findLocator name t

/-- A locator cache of 64 entries with an entry filled in. -/
def fillLocator (l : Locator) (t : List Locator) : List Locator :=
  (l :: t.filter fun q => q.name != l.name).take 64

/-- Where a name's resident is, by the octet's locator cache or the directory (R327), and the state with the entry
cached; none where V is 0 or resdir.EN is 0. -/
def State.resolve (s : State) (core name : Nat) : Option (Nat × Nat) × State :=
  let o := octetOf core
  match findLocator name (s.octet o).locators with
  | some l => (some (l.module, l.core), s)
  | none =>
    let p := s.partAt core
    let e := if paOk (p.dirKey name) then s.tableWord (p.dirKey name) else 0
    if p.resEn && e.getLsbD 63 then
      let l : Locator := ⟨name, bits e 39 28, bits e 13 0⟩
      (some (l.module, l.core), s.modOctet o fun x => { x with locators := fillLocator l x.locators })
    else (none, s)

/-- The number of a message's sending core. -/
def senderOf (m : Message) : Nat := coreAt m.sx m.sy

/-- The line of messages that a message belongs to, and its place there (R301, R315, R480): its sender, network and SEQ, or
for one that hardware built its unit and number. -/
def refOf (m : Message) : RefEntry :=
  if m.side.hardware then ⟨m.side.unit.1, m.side.unit.2, 9, 0, m.side.built⟩
  else ⟨m.smod, senderOf m, m.side.endpoint, m.vn, m.seq⟩

/-- Two messages are of one line. -/
def RefEntry.same (a b : RefEntry) : Bool :=
  a.module == b.module && a.core == b.core && a.endpoint == b.endpoint && a.vn == b.vn

/-- A message of a line was sent before another; SEQ counts modulo 2^24 (R308). -/
def RefEntry.earlier (a b : RefEntry) : Bool :=
  a.same b && if a.endpoint = 9 then a.seq < b.seq else a.seq != b.seq && (b.seq + 2 ^ 24 - a.seq) % 2 ^ 24 < 2 ^ 23

/-- A refused message that its sender drops, or sends elsewhere, is withdrawn from the receiver that has refused it (R315,
R327). -/
def State.withdraw (s : State) (src pid : Nat) (m : Message) (onto : Nat × Nat) : State :=
  let x := refOf m
  if onto.1 ≠ s.module then s.toModule onto.1 1 (.withdrawal pid onto.2 m)
  else if m.kind = 3 then
    let home := match s.part pid with | some p => p.coreOf 0 | none => onto.2
    s.fly src (seqPlace pid) 1 (.withdrawal home x.module x.core x.vn x.seq x.endpoint)
  else s.fly src onto.2 1 (.withdrawal onto.2 x.module x.core x.vn x.seq x.endpoint)

/-- The header word of a message (R308). -/
def messageHeader (m : Message) : Word :=
  BitVec.ofNat 64 (m.cls.toNat * 2 ^ 56 + m.sy * 2 ^ 48 + m.sx * 2 ^ 40 + m.smod * 2 ^ 28 + (if m.r then 2 ^ 27 else 0)
    + (if m.s then 2 ^ 26 else 0) + (if m.h then 2 ^ 25 else 0) + m.seq % 2 ^ 24)

/-- The event that a message is on the mesh: by KIND and class (R307, R309). -/
def messageEvent (core : Nat) (m : Message) : Event :=
  if m.kind = 3 then .launchRequest m
  else if m.cls = 0x07 then .copyCommand m
  else if m.cls = 0x08 then .collectiveCommand m
  else if m.cls = 0x09 then .matrixCommand m
  else .messageAcceptance core m

/-- A message of class HCLS for the proxy core, that leaves for the host (R449). -/
def State.forHost (s : State) (core : Nat) (m : Message) : Bool :=
  let p := s.partAt core
  m.kind == 0 && p.hcls != 0 && p.hcls == m.cls && p.hostCore.toNat == core

/-- A message put on the mesh from a place, towards core at' or the sequencer of its partition, or into the fabric
(R436). -/
def State.sendMessage (s : State) (src pid module at' : Nat) (m : Message) : State :=
  if module ≠ s.module then s.toModule module m.vn (.msg at' m)
  else if s.forHost at' m then s.fly src at' m.vn (.hostClassMessage m)
  else s.fly src (if m.kind = 3 then seqPlace pid else at') m.vn (messageEvent at' m)

/-- An unknown resident: the message dropped, and the notice that carries it (R327). -/
def State.unknownName (s : State) (core name : Nat) (m : Message) : State :=
  s.coreNotice core 3 ([BitVec.ofNat 64 name, messageHeader m] ++ m.payload.take 3)

/-- Every message in a core's send queues. -/
def Core.queued (q : Core) : List SqEntry := q.sq0 ++ q.sq1 ++ q.sq2

/-- Whether a message by name must wait for earlier ones to the same name that went to another core (R353). -/
def nameWaits (l : List SqEntry) (e : SqEntry) (onto : Nat × Nat) : Bool :=
  match e.name with
  | none => false
  | some n => l.any fun x => x.name == some n && x.id < e.id && x.mode != .waiting && x.target != onto

/-- A queue entry as it stands once it has left for a module and core. -/
def SqEntry.sentTo (e : SqEntry) (onto : Nat × Nat) : SqEntry := { e with mode := .sent, target := onto }

/-- The message of a queue entry that leaves for a module and core: one by name goes where its directory entry says, as an
engine's where its class is the hardware's (R307, R327); an endpoint's keeps the header it was given (R448). -/
def SqEntry.outgoing (e : SqEntry) (onto : Nat × Nat) : Message :=
  match e.name with
  | none => e.msg
  | some _ =>
    if e.msg.cls.toNat < 0x10 && e.msg.side.endpoint == 0 then { e.msg with kind := 2, module := onto.1, dest := onto.2 }
    else { e.msg with module := onto.1 }

/-- A refused entry that does not go to that receiver again is withdrawn there. -/
def State.leaveRefuser (s : State) (src pid : Nat) (e : SqEntry) (onto : Option (Nat × Nat)) : State :=
  match e.bounced with
  | some x => if onto != some e.target then s.withdraw src pid e.msg x else s
  | none => s

/-- Where a queue entry of a core, or of an endpoint with that proxy core, is to go, with its locator cache. -/
def State.goalOf (s : State) (core : Nat) (e : SqEntry) : Option (Nat × Nat) × State :=
  match e.name with
  | none => (some e.target, s)
  | some n => s.resolve core n

/-- The first message of a queue that still waits at its head. -/
def firstWaiting : List SqEntry → Option SqEntry
  | [] => none
  | e :: t => if e.mode == .waiting then some e else firstWaiting t

/-- A queue entry sent to where it goes, or dropped where its name is unknown; none while it must wait. -/
def State.sendEntry (s : State) (core v : Nat) (e : SqEntry) : Option State :=
  if !(e.stores.isEmpty && e.posted.isEmpty) then none
  else
    match s.goalOf core e with
    | (none, s) =>
      let s := s.leaveRefuser core (s.pidOf core) e none
      some ((s.modCore core fun q => q.setSq v ((q.sq v).filter fun x => x.id != e.id)).unknownName core (e.name.getD 0) e.msg)
    | (some onto, s) =>
      let l := (s.core core).queued
      if nameWaits l e onto then none
      else
        let s := s.leaveRefuser core (s.pidOf core) e (some onto)
        let s := s.modCore core fun q => q.setSq v ((q.sq v).map fun x => if x.id = e.id then x.sentTo onto else x)
        some (s.sendMessage core (s.pidOf core) onto.1 onto.2 (e.outgoing onto))

/-- The key of the directory entry that a queue entry's name needs and that must be read on another module first (R79). -/
def State.dirMissing (s : State) (core : Nat) (e : SqEntry) : Option Nat :=
  let p := s.partAt core
  match e.name with
  | none => none
  | some n =>
    if (findLocator n (s.octet (octetOf core)).locators).isSome || !p.resEn || !paOk (p.dirKey n) then none
    else s.missing [p.dirKey n]

/-- A send queue sends what it may, in order, at most n messages (R316). -/
def State.pumpQueue (s : State) (core v : Nat) : Nat → State
  | 0 => s
  | n + 1 =>
    match firstWaiting ((s.core core).sq v) with
    | none => s
    | some e => match s.dirMissing core e with
      | some k => s.withFar (.storeAcknowledgement core 0) [k] id
      | none => match s.sendEntry core v e with
        | none => s
        | some t => t.pumpQueue core v n

/-- The core's three send queues send what they may. -/
def State.pumpSends (s : State) (core : Nat) : State :=
  let q := s.core core
  if q.sq0.isEmpty && q.sq1.isEmpty && q.sq2.isEmpty then s
  else ((s.pumpQueue core 0 8).pumpQueue core 1 8).pumpQueue core 2 8

/-! ## The endpoints (R448) -/

/-- An endpoint's queue entry carries a message. -/
def SqEntry.carries (e : SqEntry) (m : Message) : Bool :=
  e.msg.seq == m.seq && e.msg.side.endpoint == m.side.endpoint && e.msg.side.tag == m.side.tag

/-- The partition whose endpoint has passed a message in, by its tag. -/
def State.endpointOf (s : State) (m : Message) : Option (Nat × Partition) :=
  s.parts.find? fun q => q.2.epQ.any fun e => e.carries m

/-- A message of a partition's host send has been accepted, diverted, refused or dropped: the last one completes the send
to the host (R448). -/
def State.sendEnds (s : State) (pid : Nat) (m : Message) : State :=
  match s.part pid with
  | none => s
  | some p =>
    let l := p.sends.map fun h => if h.eth + 1 = m.side.endpoint then { h with seqs := h.seqs.filter (· != m.seq) } else h
    let s := s.modPart pid fun p => { p with sends := l.filter fun h => !h.seqs.isEmpty }
    { s with hostOut := s.hostOut ++ (l.filter fun h => h.seqs.isEmpty).map fun h => .sendDone pid h.error }

/-- A message of an endpoint has met its end at a receiver, or is dropped: it leaves the endpoint. -/
def State.endpointDone (s : State) (m : Message) : State :=
  match s.endpointOf m with
  | none => s
  | some (pid, _) =>
    (s.modPart pid fun p => { p with epQ := p.epQ.filter fun e => !e.carries m }).sendEnds pid m

/-- An endpoint's message that enters the mesh for the first time takes its tag there, by the count of those before it
(R382). -/
def State.tagEp (s : State) (pid : Nat) (e : SqEntry) : SqEntry × State :=
  match s.part pid, e.bounced with
  | some p, none =>
    let m := { e.msg with side := { e.msg.side with tag := fold e.msg.side.tag (BitVec.ofNat 64 p.epCount) } }
    ({ e with msg := m }, s.modPart pid fun p => { p with epCount := p.epCount + 1 })
  | _, _ => (e, s)

/-- An endpoint's message enters the mesh where it may (R315, R353), or is dropped where its name is unknown (R327). -/
def State.sendEp (s : State) (pid : Nat) (e : SqEntry) : Option State :=
  let proxy := coreAt e.msg.sx e.msg.sy
  match s.goalOf proxy e, s.part pid with
  | (none, s), _ => some (((s.leaveRefuser outside pid e none).unknownName proxy (e.name.getD 0) e.msg).endpointDone e.msg)
  | (some onto, s), some p =>
    if nameWaits p.epQ e onto then none
    else
      let s := s.leaveRefuser outside pid e (some onto)
      let (e, s) := s.tagEp pid e
      let s := s.modPart pid fun p => { p with epQ := p.epQ.map fun x => if x.id = e.id then e.sentTo onto else x }
      some (s.sendMessage outside pid onto.1 onto.2 (e.outgoing onto))
  | _, none => none

/-- The endpoints of a partition pass in what they may, those of each port in order, at most n messages. -/
def State.pumpEps (s : State) (pid : Nat) : Nat → State
  | 0 => s
  | n + 1 =>
    match s.part pid with
    | none => s
    | some p =>
      let first (i : Nat) : Option SqEntry := firstWaiting (p.epQ.filter fun e => e.msg.side.endpoint == i)
      match ([1, 2, 3, 4].filterMap first).findSome? fun e => s.sendEp pid e with
      | some t => t.pumpEps pid n
      | none => s

/-- Every endpoint message that may enter now does. -/
def State.pumpEndpoints (s : State) (pid : Nat) : State :=
  match s.part pid with
  | some p => s.pumpEps pid p.epQ.length
  | none => s

/-- A core's barrier arrivals whose stores are performed, sent to the group entries' homes (R167). -/
def State.pumpArrivals (s : State) (core : Nat) : State :=
  let q := s.core core
  if q.arrivals.isEmpty then s
  else
    let go := q.arrivals.filter fun a => a.stores.isEmpty && a.posted.isEmpty
    let s := s.modCore core fun q => { q with arrivals := q.arrivals.filter fun a => !(a.stores.isEmpty && a.posted.isEmpty) }
    go.foldl (fun s a =>
      s.fly core (portPlace (portOf ((s.partAt core).groupKey a.group))) 0 (.barrierArrival (s.pidOf core) a.group core)) s

/-- Acknowledgement of a store of the core: its entry freed, and everything that waited for it looked at again. -/
def State.storeDone (s : State) (core id : Nat) : State :=
  let s := s.modCore core fun q => { q with sb := q.sb.filter fun x => x.id != id }
  let s := s.modCore core fun q => q.storeDone id
  (((s.pumpStores core 16).pumpSends core).pumpArrivals core).kickEngines core

/-! ## Requests at a fabric port, and at the home of their key -/

/-- A store, or the stores merged into one, accepted by the fabric port: acknowledged for the store buffers (R298). -/
def State.postStores (s : State) (l : List Who) : State :=
  l.foldl (fun s w =>
    let s := s.modCore w.core fun q => ({ q with sb := q.sb.filter fun x => x.id != w.id } : Core).storePosted w.ctx w.id
    (((s.pumpStores w.core 16).pumpSends w.core).pumpArrivals w.core).kickEngines w.core) s

/-- A request for another module leaves at its fabric port (R436). -/
def State.leaves (s : State) (e : Event) : Option State :=
  match e with
  | .remoteStore r =>
    if r.module = s.module then none else some ((s.toModule r.module 0 (.store r)).postStores (s.askersOf e))
  | .remoteLoad r => if r.module = s.module then none else some (s.toModule r.module 0 (.load r))
  | .fullEmptyRequest r => if r.module = s.module then none else some (s.toModule r.module 0 (.fe r))
  | .fullEmptyCancel r => if r.module = s.module then none else some (s.toModule r.module 0 (.feCancel r))
  | .amoRequest r => if r.module = s.module then none else some (s.toModule r.module 0 (.amo r))
  | _ => none

/-- What becomes of a request that reaches the home of its key: dealt with for now, with the state after that; or performed
at once, at the key given: its own, or the one to which its line has moved, by the order of the source port (R79, R81). -/
def State.onward (s : State) (key pid : Nat) (e : Event) : State ⊕ Nat :=
  match (s.leaves e).orElse fun _ => s.arriveAt key pid e with
  | some t => .inl t
  | none =>
    if !isDevice key then match s.heldAfter (homePlace key) e with | some t => .inl t | none => .inr key
    else
      let p := portOf key
      let r := s.homeNow key
      if s.behindOf e (s.port p).fwd then .inl (s.modPort p fun q => { q with fwd := q.fwd ++ [(0, e)] })
      else if r.1 ≠ s.module then .inl (s.sendAway p r.1 r.2 e)
      else if s.lineAway r.2 || (r.2 != key && s.stopsAt (homePlace r.2)) then .inl (s.stopAt p e)
      else match s.heldAfter (homePlace r.2) e with | some t => .inl t | none => .inr r.2

end Sys2Proof.Machine
end

