-- ==== Sys2Proof/Machine/Rma.lean ====
section
/-! DEFINITION. A host's access to memory under way (R300, R451): its words one after the other, each as a load or store at
its home. -/

namespace Sys2Proof.Machine

/-- What a host is told. -/
def State.hostSays (s : State) (o : HostOut) : State := { s with hostOut := s.hostOut ++ [o] }

/-- The place of a word: a translated address, or one in the absolute core form (R65, R450). -/
def rmaTarget (p : Partition) (a : Nat) : Option Target :=
  let w : Word := BitVec.ofNat 64 a
  if 2 ^ 64 ≤ a ∨ a % 8 ≠ 0 then none
  else if bits w 63 56 = 0 ∨ bits w 63 56 = 0xFE then target p (p.coreOf 0) w
  else none

/-- The module and key of a word, where it has a place and its leaf permits the access (R77, R451), by the tables as this
module holds them (log entry 40). -/
def State.rmaPlace (s : State) (p : Partition) (a : Nat) (k : Access) : Option (Nat × Nat) :=
  match rmaTarget p a with
  | none => none
  | some (.here c o) => some (s.module, localKey c o)
  | some (.virt va) =>
    match s.walk p va with
    | .leaf e big _ => if permits e k then some ((leafDest e big va).module, (leafDest e big va).key) else none
    | .bad _ _ => none

/-- The load or store of one word, numbered id, sent to its home for the partition, with its key. -/
def State.rmaSend (s : State) (id : Nat) (r : Rma) (key : BitVec 16) (v : Word) (d : Nat × Nat) : State :=
  let who : Who := ⟨s.module, outside, 32, id⟩
  let put : StoreReq :=
    { reply := .ctx who, src := outside, pid := r.pid, launch := 0, module := d.1, op := .bytes d.2 8 v, combinable := false, tag := 0
      pkey := key }
  let get' : LoadReq := ⟨who, r.pid, d.1, d.2, 8, key⟩
  if d.1 ≠ s.module then s.toModule d.1 0 (if r.write then .store put else .load get')
  else s.fly outside (homePlace d.2) 0 (if r.write then .remoteStore put else .remoteLoad get')

/-- The next word of an access, or its completion: an error gives the offset of the word that fails. -/
def State.rmaNext (s : State) (r : Rma) : State :=
  match r.left, s.part r.pid with
  | [], _ => s.hostSays (.rmaDone r.pid none r.got)
  | v :: _, some p =>
    match s.rmaPlace p (r.base + r.off) (if r.write then .write else .read) with
    | none => s.hostSays (.rmaDone r.pid (some r.off) r.got)
    | some d =>
      let (id, s) := s.fresh
      ({ s with rmas := s.rmas ++ [{ r with id := id }] } : State).rmaSend id r p.key v d
  | _, none => s.hostSays (.rmaDone r.pid (some r.off) r.got)

/-- The home's answer to a word of an access: a poisoned word fails a read. -/
def State.rmaAnswer (s : State) (id : Nat) (a : Answer) : State :=
  match s.rmas.find? fun r => r.id == id with
  | none => s
  | some r =>
    let s : State := { s with rmas := s.rmas.filter fun r => r.id != id }
    let next : Rma := { r with off := r.off + 8, left := r.left.tail }
    match r.write, a with
    | true, _ => s.rmaNext next
    | false, .value v => s.rmaNext { next with got := r.got ++ [v] }
    | false, _ => s.hostSays (.rmaDone r.pid (some r.off) r.got)

end Sys2Proof.Machine
end

