-- ==== Sys2Proof/Machine/Access.lean ====
section
/-! DEFINITION. The events of single accesses: requests at their homes, replies and acknowledgements at their requesters,
resends, limits and timeouts (R90 to R94, R106, R110, R189 to R194, R197, R198, R202, R298). -/

namespace Sys2Proof.Machine

/-! ## Stores, REDs and loads -/

/-- The key of a store's first byte. -/
def storeKey : StoreOp → Nat
  | .bytes k _ _ => k
  | .red k _ _ _ => k
  | .lanes l => match l with | (k, _, _) :: _ => k | [] => localKey 0 0
  | .block l => match l with | (k, _, _) :: _ => k | [] => localKey 0 0

/-- What of a vector store is left after its first element (R260). -/
def StoreOp.rest : StoreOp → Option StoreOp
  | .lanes (_ :: x :: l) => some (.lanes (x :: l))
  | _ => none

/-- A store that its home accepts is performed at a key, and acknowledged when all of it is (R90, R260). -/
def State.acceptStore (s : State) (place key : Nat) (r : StoreReq) : State :=
  let s := s.storeAt (homePlace key) key (StoreOp.rekey key r.op)
  match StoreOp.rest r.op with
  | some op => s.resend place [.remoteStore { r with op := op }]
  | none => s.replyStore place r.reply

/-- A store performed at its site: held where it would make entries of its own launch's recording, by clearing the poison of a
word with held entries, for which the log has no room (R392). -/
def State.storeOrHold (s : State) (site : Nat) (r : StoreReq) (e : Event) (act : State → State) : State :=
  if s.recMode r.pid r.launch = 2 then s.wakeAt r.pid r.launch site 0 e act else act s

/-- REMOTE_STORE (R79, R90, R91, R198): held back, forwarded, stalled on a full write queue, or performed and
acknowledged. -/
def State.remoteStore (s : State) (r : StoreReq) : State :=
  let key := storeKey r.op
  let place := homePlace key
  let e := Event.remoteStore r
  match s.onward key r.pid e with
  | .inl t => t
  | .inr k =>
    match s.queueLine k with
    | none => s.stopAt (portOf key) e
    | some t =>
      match r.op with
      | .red _ _ _ _ =>
        madderAt (t.decide r.pid r.launch (homePlace k) 8 3 r.tag.toNat (2 ^ 46) [] r.tag) r.pid r.launch (homePlace k) e
          fun t _ => t.acceptStore place k r
      | _ => t.storeOrHold (homePlace k) r e fun t => t.acceptStore place k r

/-- REMOTE_STORE. -/
def execRemoteStore (r : StoreReq) (s : State) : Host.Outcome State Fault Refusal := change (fun s => s.remoteStore r) s

/-- REMOTE_LOAD (R79, R90, R197). -/
def execRemoteLoad (r : LoadReq) (s : State) : Host.Outcome State Fault Refusal :=
  change (fun s =>
    match s.onward r.key r.pid (.remoteLoad r) with
    | .inl t => t
    | .inr k => (s.bufferMiss k).replyLoad (homePlace r.key) r.who (s.loadAt k r.width)) s

/-- STORE_ACKNOWLEDGEMENT (R94, R294, R298), at a core, at a port that has forwarded the store (R79), or of a host's access
(R451). -/
def execStoreAcknowledgement (core id : Nat) (s : State) : Host.Outcome State Fault Refusal :=
  change (fun s =>
    if core < 12288 then
      ((s.disarm (.amoLimitExpiry ⟨s.module, core, 8, id⟩)).storeDone core id).farDone (.storeAcknowledgement core id)
    else if core = outside then s.rmaAnswer id (.value 0)
    else s.fwdAnswer (core - 12288) id (.value 0)) s

/-! ## Replies of loads and full/empty operations -/

/-- A context goes on past the instruction whose reply came. -/
def Ctx.resume (c : Ctx) (len : Nat) : Ctx :=
  { c with mode := .ready, req := none, pc := c.pc + BitVec.ofNat 64 len, issued := c.issued + 1 }

/-- The outstanding results before an id, and the one of that id. -/
def splitPend (id : Nat) : List Pend → List Pend × Option Pend
  | [] => ([], none)
  | p :: t => if p.id = id then ([], some p) else
    let r := splitPend id t
    (p :: r.1, r.2)

/-- The register that an outstanding result went to when a later load was issued. -/
def Regs.dest (g : Regs) (id : Nat) : Reg := (mapFind g.pend id).getD 0

/-- A load's value reaches registers kept for a later load. -/
def Regs.arrived (g : Regs) (id : Nat) (v : Word) : Regs :=
  let r := g.dest id
  { g with
    x := if r = 0 then g.x else g.x.set r.toNat v r.isLt
    pend := g.pend.filter fun q => q.1 != id }

/-- A load's value reaches its register, and those that later loads would restore (R299). -/
def Ctx.loaded (c : Ctx) (p : Pend) (v : Word) : Ctx :=
  let rest := (c.pend.filter fun q => q.id != p.id).map fun q =>
    { q with saved := q.saved.map fun g => g.arrived p.id v }
  let c := { c with pend := rest }
  if p.reg = 0 then c else c.putX p.reg v

/-- A context as it was at a load's issue (R15, R93): what was outstanding then still is, less what has come since. -/
def Ctx.restore (c : Ctx) (g : Regs) (before : List Pend) (live : Nat → Bool) : Ctx :=
  let fence (f : Fence) : Fence :=
    { f with
      stores := f.stores.filter live
      posted := ((if f.scope then f.stores else []) ++ f.posted).filter c.posted.contains }
  { c with
    x := g.x, v := g.v, pc := g.pc, ih := g.ih, tmo := g.tmo, ap := g.ap, pap := g.pap, cause := g.cause, tval := g.tval
    tpc := g.tpc, tvec := g.tvec, frm := g.frm, fflags := g.fflags, mfmt := g.mfmt, mascale := g.mascale
    mbscale := g.mbscale, deadline := g.deadline, dlDue := g.dlDue, joinNext := g.joinNext, joinBase := g.joinBase
    digest := g.digest, dordE := g.dordE, alarm0 := g.alarm0, alarm1 := g.alarm1, streams := g.streams, marks := g.marks
    fences := g.fences.map fence, issued := g.issued, brkPass := g.brkPass
    pend := before.map fun p => { p with reg := g.dest p.id }
    mode := .ready, wait := none, waitTarget := none, vread := [] }

/-- The timers of a context's deadline and wall alarms set again as it holds them. -/
def State.rearm (s : State) (core k : Nat) : State :=
  let c := s.ctx core k
  let alarm (s : State) (slot : Nat) (a : Alarm) : State :=
    let s := s.disarm (.alarmFire core k slot)
    match a with
    | .wall t => s.armAt t (.alarmFire core k slot)
    | _ => s
  let s := alarm (alarm s 0 c.alarm0) 1 c.alarm1
  let s := (s.disarm (.deadlineTrap core k)).disarm (.waitDeadlineExpiry core k)
  if c.deadline = 0 then s else s.armAt c.deadline (.deadlineTrap core k)

/-- A load met poison (R93): everything after it in its context is undone, its stores leave the buffer unsent (R294), and
the trap is taken. -/
def State.loadPoison (s : State) (core k : Nat) (p : Pend) (g : Regs) : State :=
  let before := (splitPend p.id (s.ctx core k).pend).1
  let undone (e : SbEntry) : Bool := e.ctx == k && e.loads.contains p.id
  let gone := (s.core core).sb.filter undone
  let s := s.modCore core fun q => { q with sb := q.sb.filter fun e => !undone e }
  let s := gone.foldl (fun s e => s.disarm (.amoLimitExpiry ⟨s.module, core, 8, e.id⟩)) s
  let sb := (s.core core).sb
  let s := s.modCtx core k fun c => c.restore g before fun id => sb.any fun e => e.id == id
  ((s.rearm core k).takeTrap core k cPOISON p.va).pumpStores core 16

/-- What rd receives of a full/empty operation's value (R202). -/
def feResult (op : FeOp) : Bool := match op with | .ldf | .ldfe | .probe => true | _ => false

/-- Whether the operation writes status.TO (R202). -/
def feTimed (op : FeOp) : Bool := match op with | .ldf | .ldfe | .stf => true | _ => false

/-- The fold of a performed full/empty operation (R385). -/
def feFold (d : Word) (op : FeOp) (va data : Word) : Word :=
  match op with
  | .stf => foldStore d va data 8 3 0
  | .ste => foldStore d va data 8 4 0
  | .sete => foldStore d va 0 8 5 0
  | .ldfe => foldStore d va 0 8 6 0
  | _ => d

/-- A full/empty operation performed, at its context (R202, R381, R385). -/
def Ctx.feDone (c : Ctx) (op : FeOp) (reg : Reg) (va data v : Word) (exempt : Bool) : Ctx :=
  let c := if feResult op then c.result reg v else c
  let c := if feTimed op then { c with tmo := false } else c
  { c with dordE := c.dordE + 1, digest := if exempt then c.digest else feFold c.digest op va data }

/-- A full/empty reply at its context. -/
def State.feReply (s : State) (core k : Nat) (r : FeReq) (reg : Reg) (va : Word) (exempt : Bool)
    (back : Vector (Option Stream) 6) (a : Answer) : State :=
  match a with
  | .value v => s.modCtx core k fun c => (c.feDone r.op reg va r.data v exempt).resume 4
  | .timeout => s.modCtx core k fun c => ({ c with tmo := true, dordE := c.dordE + 1 } : Ctx).resume 4
  | .poisoned => (s.modCtx core k fun c => { c with req := none, streams := back }).takeTrap core k cPOISON va
  | .cancelled => s.modCtx core k fun c => { c with req := none, streams := back, mode := .ready }
  | .retry => s.armIn 250 (.fullEmptyResend r)
  | .block _ => s

/-- The reply of a load: its value, or its precise POISON trap (R93, R299). -/
def State.pendReply (s : State) (r : Reply) : State :=
  let core := r.who.core
  let k := r.who.ctx
  match (splitPend r.who.id (s.ctx core k).pend).2 with
  | none => s
  | some p =>
    match r.answer, p.kind, p.saved with
    | .value v, .load w signed, _ =>
      (s.modCtx core k fun c => c.loaded p (extend (lowBytes v w) w signed)).pumpStores core 16
    | .value v, .amo _, _ => s.modCtx core k fun c => c.loaded p v
    | _, _, some g => s.loadPoison core k p g
    | _, _, none => s

/-- LOAD_REPLY (R192, R193, R197, R202): a load's value, or a full/empty reply, reaches its context. -/
def State.loadReply (s : State) (r : Reply) : State :=
  let core := r.who.core
  let k := r.who.ctx
  match (s.ctx core k).req with
  | some (.fe req reg va exempt gone back) =>
    if req.who.id = r.who.id then
      s.feReply core k req reg va exempt back (if gone = true ∧ r.answer = .retry then .cancelled else r.answer)
    else s.pendReply r
  | some (.group id) =>
    if id = r.who.id then
      let a : Nat × Word := match r.answer with | .value v => (50, v) | _ => (51, 0)
      s.modCtx core k fun c => { c with req := none, mode := .ready, groupReply := some a }
    else s.pendReply r
  | none => s.pendReply r

/-- The pieces that an access of a channel has read: 1 with a value, or 0 for poison (R131). -/
def answerParts : Answer → List (Nat × Word)
  | .value v => [(1, v)]
  | .block l => l.map fun v => (1, v)
  | _ => [(0, 0)]

/-- What a channel reads on another module comes back. -/
def Engine.pieceRead (e : Engine) (id : Nat) (a : Answer) : Engine :=
  ({ e with queue := e.queue.map fun o =>
      if o.posted.contains id then
        { o with posted := dropId id o.posted, snap := o.snap ++ answerParts a }
      else o } : Engine).modLate fun o => { o with posted := dropId id o.posted }

/-- The reply of a channel's read: contexts 16 and above stand for channels. -/
def State.pieceReply (s : State) (r : Reply) : State :=
  (s.modCore r.who.core fun q =>
    { q with
      cp0 := q.cp0.pieceRead r.who.id r.answer, cp1 := q.cp1.pieceRead r.who.id r.answer
      mx := q.mx.pieceRead r.who.id r.answer }).kickEngines r.who.core

/-- LOAD_REPLY: to a context, a channel, a port that has forwarded the request (R79), or a host's access (R451). -/
def execLoadReply (r : Reply) (s : State) : Host.Outcome State Fault Refusal :=
  change (fun s =>
    if r.who.core = outside then s.rmaAnswer r.who.id r.answer
    else if r.who.ctx = 33 then
      match r.answer with
      | .value v => s.farAnswer r.who.id v
      | _ => let (v, s) := s.drawWord; s.farAnswer r.who.id v
    else if 12288 ≤ r.who.core then s.fwdAnswer (r.who.core - 12288) r.who.id r.answer
    else if 16 ≤ r.who.ctx then s.pieceReply r
    else s.loadReply r) s

/-! ## Full/empty operations at their home -/

/-- The order of held entries (R191): by the time it was held, then requester core, then context. -/
def HeldFe.older (a b : HeldFe) : Bool :=
  a.stamp < b.stamp || (a.stamp == b.stamp && (a.req.who.core < b.req.who.core
    || (a.req.who.core == b.req.who.core && a.req.who.ctx < b.req.who.ctx)))

/-- A request placed in the wait table, before the first entry that is younger (R191). -/
def heldIns (h : HeldFe) : List HeldFe → List HeldFe
  | [] => [h]
  | g :: t => if h.older g then h :: g :: t else g :: heldIns h t

/-- Whether a place can hold another request: a core's own contexts have an entry each, the others share 16; a port has
64 (R190). -/
def State.feRoom (s : State) (place : Nat) (r : FeReq) : Bool :=
  let l := s.waitTab place
  if place < 12288 then
    (r.who.module == s.module && r.who.core == place)
      || (l.filter fun h => !(h.req.who.module == s.module && h.req.who.core == place)).length < 16
  else l.length < 64

/-- A request held at its home until its condition holds or its deadline comes (R190, R193), which REPLAY ignores for one
that the log performs (R393). -/
def State.holdFe (s : State) (place : Nat) (r : FeReq) : State :=
  let s := s.setWaitTab place (heldIns ⟨r, none, s.wallUnits, s.serial⟩ (s.waitTab place))
  if r.deadline = 0 ∨ s.recMode r.pid r.launch = 3 then s else s.armAt r.deadline (.heldEntryTimeout r)

/-- The request sent to its home. -/
def State.sendFe (s : State) (core : Nat) (r : FeReq) : State :=
  s.ask core r.module (homePlace r.key) (.fullEmptyRequest r)

/-- A full/empty request whose condition holds is performed at a key and answered from a place, with what its tag change
lets go (R191, R202). -/
def State.performFe (s : State) (place key : Nat) (r : FeReq) : State :=
  let a := s.feAct key r.op r.data
  let s := a.2.replyLoad place r.who a.1
  if feChanges r.op then s.tryHeld (homePlace key) key r.tag else s

/-- A held entry of the word whose condition holds, but which must wait for its turn in a replay, keeps what comes later
behind it (R191, R393). -/
def State.heldAhead (s : State) (site key : Nat) : Bool :=
  (s.waitTab site).any fun h => wordKey h.req.key == wordKey key && feCond h.req.op (s.tag key)

/-- A request whose condition holds is performed, with its own entry of RECORD (R390): a PROBE's TYPE 6, a timed
operation's TYPE 5. -/
def State.decideFe (s : State) (place key : Nat) (r : FeReq) (e : Event) : State :=
  let site := homePlace key
  let tag45 := r.tag.toNat % 2 ^ 45
  let own (s : State) : State :=
    if r.op = .probe then s.logNow r.pid r.launch site [logWord 6 site (tag45 + (if s.tag key then 2 ^ 45 else 0))]
    else if r.deadline ≠ 0 then s.logNow r.pid r.launch site [logWord 5 site tag45]
    else s
  s.wakeAt r.pid r.launch site r.tag e fun s => (own s).performFe place key r

/-- A timed request that is not performed by its deadline (R193), logged as TYPE 5; gone takes it out of the table. -/
def State.timeoutFe (s : State) (place site : Nat) (r : FeReq) (e : Event) (gone : State → State) : State :=
  madderAt (s.decide r.pid r.launch site 8 5 (r.tag.toNat % 2 ^ 45 + 2 ^ 45) (2 ^ 46) [] r.tag) r.pid r.launch site e
    fun t _ => (gone t).replyLoad place r.who .timeout

/-- A request at its home outside a replay (R189 to R193, R202): timed out, poisoned, performed, held, or told to retry. -/
def State.feAtHome (s : State) (place key : Nat) (r : FeReq) (e : Event) : State :=
  let site := homePlace key
  let r' := { r with key := key }
  if r.deadline ≠ 0 ∧ s.reached r.deadline = true then s.timeoutFe place site r e id
  else if s.poisoned key = true ∧ r.op ≠ .ste then s.replyLoad place r.who .poisoned
  else if feCond r.op (s.tag key) then s.decideFe place key r e
  else if s.feRoom site r then s.holdFe site r'
  else match s.recMode r.pid r.launch with
    | 2 => madderAt (s.decide r.pid r.launch site 8 8 r.tag.toNat (2 ^ 46) [] r.tag) r.pid r.launch site e
        fun t _ => t.replyLoad place r.who .retry
    | _ => s.replyLoad place r.who .retry

/-- A request of a REPLAY launch at its home (R393): a logged retry is told again; a PROBE answers the logged tag; a logged
timeout waits for its deadline, whatever the word holds; a logged performance waits for its condition, whatever wall reads;
each as its site's next decision. -/
def State.feReplay (s : State) (place key : Nat) (r : FeReq) (e : Event) : State :=
  let site := homePlace key
  let r' := { r with key := key }
  let tag45 := r.tag.toNat % 2 ^ 45
  let has (ty data mask : Nat) : Bool := s.logged r.pid site ty data mask != 0
  let take (ty data mask : Nat) (f : State → State) : State :=
    madderAt (s.decide r.pid r.launch site 8 ty data mask [] r.tag) r.pid r.launch site e fun t _ => f t
  if has 8 r.tag.toNat (2 ^ 46) then take 8 r.tag.toNat (2 ^ 46) fun t => t.replyLoad place r.who .retry
  else if s.poisoned key && r.op != .ste then s.replyLoad place r.who .poisoned
  else if r.op = .probe then
    match s.loggedEntry r.pid r.launch site 6 tag45 (2 ^ 45) with
    | some w => take 6 tag45 (2 ^ 45) fun t => t.replyLoad place r.who (.value (ofBool (entryData w / 2 ^ 45 % 2 == 1)))
    | none => take 6 tag45 (2 ^ 45) id
  else if r.deadline = 0 then
    if feCond r.op (s.tag key) && !s.heldAhead site key then s.decideFe place key r e else (s.holdFe site r').releaseSite site
  else if has 5 (tag45 + 2 ^ 45) (2 ^ 46) then
    if s.reached r.deadline then s.timeoutFe place site r e id else s.armAt r.deadline e
  else if feCond r.op (s.tag key) && !s.heldAhead site key then
    match s.decide r.pid r.launch site 8 5 tag45 (2 ^ 46) [] r.tag with
    | .go t _ =>
      match t.wakeTry r.pid r.launch site 8 r.tag fun t => t.performFe place key r with
      | some u => u
      | none => (s.waitLog r.pid site 8 r.tag true).holdAt site e
    | v => madderAt v r.pid r.launch site e fun t _ => t
  else (s.holdFe site r').releaseSite site

/-- FULL_EMPTY_REQUEST (R79, R189 to R193, R202, R393): at the home of its word. -/
def State.fullEmptyRequest (s : State) (r : FeReq) : State :=
  let place := homePlace r.key
  let e := Event.fullEmptyRequest r
  match s.onward r.key r.pid e with
  | .inl t => t
  | .inr k => if s.recMode r.pid r.launch = 3 then s.feReplay place k r e else s.feAtHome place k r e

/-- FULL_EMPTY_REQUEST. -/
def execFullEmptyRequest (r : FeReq) (s : State) : Host.Outcome State Fault Refusal :=
  change (fun s => s.fullEmptyRequest r) s

/-- FULL_EMPTY_RESEND (R192): an operation that its context has cancelled meanwhile is not sent again (R194). -/
def execFullEmptyResend (r : FeReq) (s : State) : Host.Outcome State Fault Refusal :=
  change (fun s =>
    match (s.ctx r.who.core r.who.ctx).req with
    | some (.fe q reg va exempt gone back) =>
      if q.who.id ≠ r.who.id then s
      else if gone then s.feReply r.who.core r.who.ctx q reg va exempt back .cancelled
      else s.sendFe r.who.core r
    | _ => s) s

/-- The place whose wait table holds a request: its home, or where a page move or an exchange of residents has brought it
(R79, R350). -/
def State.heldPlace (s : State) (r : FeReq) : Option Nat :=
  let has (l : List HeldFe) : Bool := l.any fun h => h.req.who == r.who
  if has (s.waitTab (homePlace r.key)) then some (homePlace r.key)
  else match s.cores.find? fun q => has q.2.waitTab with
    | some q => some q.1
    | none => (s.ports.find? fun q => has q.2.waitTab).map fun q => portPlace q.1

/-- The entries of a requester taken out of a wait table, with their timers. -/
def State.unholdFe (s : State) (place : Nat) (w : Who) : State :=
  let l := s.waitTab place
  let gone := l.filter fun h => h.req.who == w
  let s := s.setWaitTab place (l.filter fun h => h.req.who != w)
  gone.foldl (fun s h => s.disarm (.heldEntryTimeout h.req)) s

/-- HELD_ENTRY_TIMEOUT (R193): an entry still held at its deadline is removed and answered; it stays while Madder holds the
decision (R392). -/
def execHeldEntryTimeout (r : FeReq) (s : State) : Host.Outcome State Fault Refusal :=
  change (fun s =>
    match s.heldPlace r with
    | none => s
    | some place =>
      if s.reached r.deadline then
        s.timeoutFe place place r (.heldEntryTimeout r) fun t => t.unholdFe place r.who
      else s) s

/-- An event other than the full/empty request of a number. -/
def keepsFe (id : Nat) (e : Event) : Bool := match e with | .fullEmptyRequest q => q.who.id != id | _ => true

/-- A request taken out of whatever holds it on its way. -/
def withoutFe (id : Nat) (l : List Event) : List Event := l.filter (keepsFe id)

/-- A request that a port has forwarded to another module. -/
def findFwd (w : Who) : List (Nat × Event) → Option (Nat × FeReq)
  | [] => none
  | (id, .fullEmptyRequest r) :: t => if r.who = w then some (id, r) else findFwd w t
  | _ :: t => findFwd w t

/-- What a place holds of the requests that have reached it. -/
def State.waitingAt (s : State) (place : Nat) : List Event :=
  (s.site place).hold ++
    if place < 12288 then (s.octet (octetOf place)).held.map (·.ev) ++ (s.core place).exchHeld ++ (s.core place).stopped
    else
      let q := s.port (place - 12288)
      q.stopped ++ (q.fwd.filter fun x => x.1 == 0).map fun x => x.2

/-- The full/empty request of a number taken out of what a place holds. -/
def State.dropFe (s : State) (place id : Nat) : State :=
  let s := s.modSite place fun x => { x with hold := withoutFe id x.hold }
  if place < 12288 then
    (s.modOctet (octetOf place) fun x => { x with held := x.held.filter fun f => keepsFe id f.ev }).modCore place fun q =>
      { q with exchHeld := withoutFe id q.exchHeld, stopped := withoutFe id q.stopped }
  else s.modPort (place - 12288) fun q =>
    { q with stopped := withoutFe id q.stopped, fwd := q.fwd.filter fun x => x.1 != 0 || keepsFe id x.2 }

/-- A full/empty request that is under way somewhere else than in its home's wait table is given up there (R194): one that
waits at its home, or where a move has taken its word; one that a port has forwarded, on the module that has it. -/
def State.cancelFe (s : State) (home : Nat) (r : FeReq) : State :=
  let id := r.who.id
  let now := s.homeNow r.key
  let waits (l : List Event) : Bool := l.any fun e => !keepsFe id e
  match [home, homePlace now.2].find? fun p => waits (s.waitingAt p) with
  | some p => (s.dropFe p id).replyLoad home r.who .cancelled
  | none =>
    if waits (s.timers.map fun t => t.2) then
      ({ s with timers := s.timers.filter fun t => keepsFe id t.2 } : State).replyLoad home r.who .cancelled
    else match (if home < 12288 then none else findFwd r.who (s.port (home - 12288)).fwd) with
      | some (n, r) => s.toModule now.1 0 (.feCancel { r with who := ⟨s.module, home, 32, n⟩, module := now.1, key := now.2 })
      | none => s

/-- FULL_EMPTY_CANCEL (R194): a held entry, or a request not yet performed, is removed and answered; a performed one's
reply stands. One that has been forwarded to another module is cancelled there. -/
def execFullEmptyCancel (r : FeReq) (s : State) : Host.Outcome State Fault Refusal :=
  change (fun s =>
    match s.leaves (.fullEmptyCancel r) with
    | some t => t
    | none =>
      let home := homePlace r.key
      match s.heldPlace r with
      | some place => (s.unholdFe place r.who).replyLoad home r.who .cancelled
      | none => s.cancelFe home r) s

/-! ## AMOs -/

/-- AMO_REQUEST (R79, R110, R111): held back, forwarded, or performed as one step and answered. -/
def State.amoRequest (s : State) (r : AmoReq) : State :=
  let place := homePlace r.key
  let e := Event.amoRequest r
  match s.onward r.key r.pid e with
  | .inl t => t
  | .inr k =>
    match s.queueLine k with
    | none => s.stopAt (portOf r.key) e
    | some t =>
      let site := homePlace k
      madderAt (t.decide r.pid r.launch site 8 3 r.tag.toNat (2 ^ 46) [] r.tag) r.pid r.launch site e fun t _ =>
        let a := t.amoAt k r.w32 r.op r.b r.c
        (a.2.bufferMiss k).replyAmo place r.reply a.1

/-- AMO_REQUEST. -/
def execAmoRequest (r : AmoReq) (s : State) : Host.Outcome State Fault Refusal := change (fun s => s.amoRequest r) s

/-- An AMO's old value as rd receives it (R110). -/
def amoResult (w32 : Bool) (v : Word) : Word := if w32 then sext (low32 v) else v

/-- AMO_REPLY (R110, R106): the value, or the poison mark, for rd; a reply after the limit is dropped. One that comes to a
port is of an AMO it has forwarded (R79). -/
def execAmoReply (r : Reply) (s : State) : Host.Outcome State Fault Refusal :=
  change (fun s =>
    let core := r.who.core
    let k := r.who.ctx
    let c := s.ctx core k
    if 12288 ≤ core then s.fwdAnswer (core - 12288) r.who.id r.answer else
    match splitPend r.who.id c.pend with
    | (_, none) => s
    | (_, some p) =>
      let c := { c with pend := c.pend.filter fun q => q.id != p.id }
      let c := if p.reg = 0 then c else
        match r.answer, p.kind with
        | .value v, .amo w32 => c.putX p.reg (amoResult w32 v)
        | .value v, .load w signed => c.putX p.reg (extend (lowBytes v w) w signed)
        | _, _ => { c with marks := (p.reg, Mark.poisoned p.va) :: c.marks }
      (((s.setCtx core k c).disarm (.amoLimitExpiry r.who)).pumpStores core 16).pumpSends core) s

/-- AMO_LIMIT_EXPIRY (R106, R107, R298): a pending AMO is marked lost; a RED's or posted store's missing acknowledgement is
treated as received, with a machine check. No acknowledgement is missing of one that the store buffer has not sent yet. -/
def execAmoLimitExpiry (w : Who) (s : State) : Host.Outcome State Fault Refusal :=
  change (fun s =>
    let q := s.core w.core
    if w.ctx < 8 then
      let c := q.ctx w.ctx
      match splitPend w.id c.pend with
      | (_, none) => s
      | (_, some p) =>
        let c := { c with
          pend := c.pend.filter fun x => x.id != p.id
          marks := if p.reg = 0 then c.marks else (p.reg, Mark.lost p.va) :: c.marks }
        ((s.setCtx w.core w.ctx c).pumpStores w.core 16).pumpSends w.core
    else if q.sb.any (fun e => e.id == w.id && !e.sent) then s.armIn (q.amolim.toNat * 1000) (.amoLimitExpiry w)
    else if q.sb.any (fun e => e.id == w.id) || q.ctxs.toList.any (fun c => c.posted.contains w.id) then
      (s.storeDone w.core w.id).machineCheck
    else s) s

end Sys2Proof.Machine
end

