-- ==== Sys2Proof/Machine/Branch.lean ====
section
/-! DEFINITION. Branches, jumps, TRAP, TRET and YIELD (R214 to R216, R219 to R221), with the 16-bit branch and jump
forms (R54). -/

namespace Sys2Proof.Machine

/-- The number of instructions the task has issued goes up, and the pc to a target. -/
def jumpTo (t : Word) : M Unit := modF fun c => { c with pc := t, wait := none, waitTarget := none, issued := c.issued + 1 }

/-- A displacement in halfwords as bytes. -/
def disp {n : Nat} (i : BitVec n) : Word := sext i * 2

/-- A branch: to pc + displacement when the condition holds, ACCESS with the target outside the code store (R216), else
past an instruction of n bytes. -/
def branch (n : Nat) (taken : Bool) (d : Word) : M Unit := do
  let c ← fctx
  if taken then
    let t := c.pc + d
    if 16384 ≤ t.toNat then trap cACCESS t
    jumpTo t
  else advance n

/-- A branch on two registers. -/
def branchOn (n : Nat) (a b : Reg) (d : Word) (f : Word → Word → Bool) : M Unit := do
  let x ← readX a
  let y ← readX b
  branch n (f x y) d

/-- BEQ (R214). -/
def execBeq (a b : Reg) (i : BitVec 12) (s : State) : Host.Outcome State Fault Refusal :=
  runInstr (branchOn 4 a b (disp i) fun x y => x == y) s

/-- BNE (R214). -/
def execBne (a b : Reg) (i : BitVec 12) (s : State) : Host.Outcome State Fault Refusal :=
  runInstr (branchOn 4 a b (disp i) fun x y => x != y) s

/-- BLT (R214). -/
def execBlt (a b : Reg) (i : BitVec 12) (s : State) : Host.Outcome State Fault Refusal :=
  runInstr (branchOn 4 a b (disp i) fun x y => x.slt y) s

/-- BGE (R214). -/
def execBge (a b : Reg) (i : BitVec 12) (s : State) : Host.Outcome State Fault Refusal :=
  runInstr (branchOn 4 a b (disp i) fun x y => !x.slt y) s

/-- BLTU (R214). -/
def execBltu (a b : Reg) (i : BitVec 12) (s : State) : Host.Outcome State Fault Refusal :=
  runInstr (branchOn 4 a b (disp i) fun x y => x.ult y) s

/-- BGEU (R214). -/
def execBgeu (a b : Reg) (i : BitVec 12) (s : State) : Host.Outcome State Fault Refusal :=
  runInstr (branchOn 4 a b (disp i) fun x y => !x.ult y) s

/-- BTO (R214). -/
def execBto (i : BitVec 12) (s : State) : Host.Outcome State Fault Refusal :=
  runInstr (do branch 4 (← fctx).tmo (disp i)) s

/-- BNTO (R214). -/
def execBnto (i : BitVec 12) (s : State) : Host.Outcome State Fault Refusal :=
  runInstr (do branch 4 (!(← fctx).tmo) (disp i)) s

/-- JAL's effect (R215, R216). -/
def jumpLink (n : Nat) (d : Reg) (off : Word) : M Unit := do
  let c ← fctx
  let t := c.pc + off
  if 16384 ≤ t.toNat then trap cACCESS t
  writeX d (c.pc + BitVec.ofNat 64 n)
  jumpTo t

/-- JALR's effect (R215). -/
def jumpReg (n : Nat) (d a : Reg) (off : Word) : M Unit := do
  let t := (← readX a) + off
  if t.getLsbD 0 then trap cMISALIGN t
  if 16384 ≤ t.toNat then trap cACCESS t
  let c ← fctx
  writeX d (c.pc + BitVec.ofNat 64 n)
  jumpTo t

/-- JAL (R215). -/
def execJal (d : Reg) (i : BitVec 20) (s : State) : Host.Outcome State Fault Refusal := runInstr (jumpLink 4 d (disp i)) s

/-- JALR (R215). -/
def execJalr (d a : Reg) (i : BitVec 15) (s : State) : Host.Outcome State Fault Refusal :=
  runInstr (jumpReg 4 d a (sext i)) s

/-- H.BZ (R54). -/
def execHBz (a : Reg) (i : BitVec 6) (s : State) : Host.Outcome State Fault Refusal :=
  runInstr (do needs .c16 (.hBz a i); branchOn 2 a 0 (disp i) fun x y => x == y) s

/-- H.BNZ (R54). -/
def execHBnz (a : Reg) (i : BitVec 6) (s : State) : Host.Outcome State Fault Refusal :=
  runInstr (do needs .c16 (.hBnz a i); branchOn 2 a 0 (disp i) fun x y => x != y) s

/-- H.JMP (R54). -/
def execHJmp (i : BitVec 11) (s : State) : Host.Outcome State Fault Refusal :=
  runInstr (do needs .c16 (.hJmp i); jumpLink 2 0 (disp i)) s

/-- H.JREG (R54). -/
def execHJreg (a : Reg) (s : State) : Host.Outcome State Fault Refusal :=
  runInstr (do needs .c16 (.hJreg a); jumpReg 2 0 a 0) s

/-- H.CALLR (R54). -/
def execHCallr (a : Reg) (s : State) : Host.Outcome State Fault Refusal :=
  runInstr (do needs .c16 (.hCallr a); jumpReg 2 1 a 0) s

/-- TRAP (R219). -/
def execTrap (i : BitVec 6) (s : State) : Host.Outcome State Fault Refusal := runInstr (trap cTRAP (zext i)) s

/-- TRET (R220). -/
def execTret (s : State) : Host.Outcome State Fault Refusal :=
  runInstr (do
    let c ← fctx
    if !c.ih then trap cILLOP (encode .tret).toWord
    if c.tpc.getLsbD 0 then trap cMISALIGN c.tpc
    if 16384 ≤ c.tpc.toNat then trap cACCESS c.tpc
    modF fun c =>
      { c.trapReturn with issued := c.issued + 1, brkPass := if c.brkPass = some c.tpc then c.brkPass else none }) s

/-- YIELD (R221): the pointer of the level moves past the context. -/
def execYieldCtx (s : State) : Host.Outcome State Fault Refusal :=
  seq4 (do
    let k := (← get).focusCtx
    let p := match (← fctx).run with | .none => 0 | .task _ p _ _ => p | .firing _ p _ => p
    modify fun s => s.modFcore fun q => { q with rr := q.rr.set (p % 4) ((k + 1) % 8) (Nat.mod_lt _ (by decide)) }) s

end Sys2Proof.Machine
end

