-- ==== Sys2Proof/Machine/Memory.lean ====
section
/-! DEFINITION. Loads and stores (R196 to R200), full/empty operations (R201, R202), AMO and RED (R108 to R116), and
FENCE (R302, R303), as instructions of the focus context. -/

namespace Sys2Proof.Machine

/-! ## What an instruction waits for (R297, R303) -/

/-- An outstanding AMO. -/
def Pend.isAmo (p : Pend) : Bool := match p.kind with | .amo _ => true | .load _ _ => false

/-- The engine context of a core. -/
def Core.engine (q : Core) : Eng → Engine
  | .cp0 => q.cp0 | .cp1 => q.cp1 | .mx => q.mx | .cl => q.cl

/-- The operation of a number in an engine's queue. -/
def findOp (n : Nat) : List EngOp → Option EngOp
  | [] => none
  | o :: t => if o.num = n then some o else findOp n t

/-- Whether an engine operation's reads, or its writes, are performed: it has completed, or it has made every read; of an
XCHG, its own deposits (R304). What the halt of its context keeps from running counts as performed for the accesses that it
will never make (R303), once nothing it has sent is still on its way. -/
def Engine.performed (e : Engine) (n : Nat) (writes : Bool) : Bool :=
  match findOp n e.queue with
  | none => !writes || e.late.all fun o => o.num != n
  | some o =>
    let barred := match e.halt with | some (_, _, f, _) => f ≤ n | none => false
    let sent := match o.cmd with | .xchg _ _ _ _ _ => o.read | _ => false
    n ≤ e.c || (!writes && o.read) || ((barred || sent) && o.out == 0 && o.posted.isEmpty)

/-- Whether every operation of a barrier set is performed (R302), on module own. -/
def Fence.done (f : Fence) (own : Nat) (q : Core) (c : Ctx) : Bool :=
  f.stores.isEmpty && f.posted.isEmpty
    && f.loads.all (fun i => c.pend.all fun p => p.id != i)
    && f.msgs.all (fun i => (q.sq0 ++ q.sq1 ++ q.sq2).all fun e =>
        e.id != i || e.bounced.isSome || (!f.scope && e.mode == .sent && e.target.1 != own))
    && f.ops.all fun o => (q.engine o.1).performed o.2.1 o.2.2

/-- An instruction of the given classes waits for the barrier sets that hold them back (R303). -/
def fenced (cls : List Nat) : M Unit := do
  let s ← get
  let c := s.fctx
  if c.fences.isEmpty then pure ()
  else
    let live := c.fences.filter fun f => !f.done s.module s.fcore c
    holdUntil (live.all fun f => cls.all fun b => !f.succ.getLsbD b)
    modF fun c => { c with fences := live }

/-- A memory access, send or engine command waits for the reply of an AMO or the value of an LDACQ (R110, R200). -/
def noAmo : M Unit := do holdUntil ((← fctx).pend.all fun p => !p.isAmo && !p.acq)

/-- An instruction with an effect that a later POISON could not undo waits for the loads before it (R15; log entry 11). -/
def noLoad : M Unit := do holdUntil (!(← fctx).ahead)

/-- A full fence (R110, R189, R297): every earlier load has its value, every earlier store, RED and AMO is performed. -/
def fullFence : M Unit := do
  let s ← get
  let c := s.fctx
  let k := s.focusCtx
  holdUntil (c.pend.isEmpty && c.posted.isEmpty && s.fcore.sb.all fun e => e.ctx != k)

/-- An access to a region word waits while its residents are exchanged (R349). -/
def swapHold (d : Dest) : M Unit := do
  let s ← get
  let q := s.core (homePlace d.key)
  holdUntil (!(q.exch.isSome && d.module == s.module && !isDevice d.key && q.inRegion (d.key % 65536)))

/-- The access is to the own core's local memory. -/
def State.isHere (s : State) (d : Dest) : Bool :=
  d.module == s.module && !isDevice d.key && homePlace d.key == s.focusCore

/-! ## Loads -/

/-- A vector store (R260). -/
def storesLanes : StoreOp → Bool
  | .lanes _ => true
  | _ => false

/-- What a store leaves in a byte for a load of its context: nothing, a value, or something only its home knows: a RED's
result, and what a vector store writes (R260). -/
def storeByte (key : Nat) : StoreOp → Option (Option Byte)
  | .bytes k w v => if k ≤ key ∧ key < k + w then some (some (BitVec.ofNat 8 (v.toNat / 256 ^ (key - k)))) else none
  | .red k w _ _ => if k ≤ key ∧ key < k + w then some none else none
  | .lanes l | .block l => if l.any fun p => p.1 ≤ key && key < p.1 + p.2.1 then some none else none

/-- What the entries of a context in the store buffer leave in a byte: its home alone knows while a vector store over it is
among them (R260), else what the youngest leaves. -/
def sbByte (module k key : Nat) : List SbEntry → Option (Option Byte)
  | [] => none
  | e :: t =>
    let x := if e.ctx = k ∧ e.req.module = module then storeByte key e.req.op else none
    match x, sbByte module k key t with
    | some none, some b => if storesLanes e.req.op then some none else some b
    | _, some b => some b
    | x, none => x

/-- What a context's own stores in the buffer say of w bytes (R197): none overlaps, all are supplied, or only some. -/
inductive Forward where
  | none
  | all (v : Nat)
  | part
  deriving DecidableEq, Repr

/-- The bytes that a context's own stores supply. -/
def sbForward (module k key : Nat) (l : List SbEntry) : Nat → Forward
  | 0 => .none
  | n + 1 =>
    match n, sbByte module k key l, sbForward module k (key + 1) l n with
    | 0, some (some b), _ => .all b.toNat
    | _, some (some b), .all v => .all (b.toNat + 256 * v)
    | _, some _, _ => .part
    | _, Option.none, .none => .none
    | _, Option.none, _ => .part

/-- The bytes of an access overlap a store of the context that is still in the buffer. -/
def State.sbOverlaps (s : State) (d : Dest) (w : Nat) : Bool :=
  !s.fcore.sb.isEmpty && sbForward d.module s.focusCtx d.key s.fcore.sb w != .none

/-- The registers of a context as they are. -/
def Ctx.regs (c : Ctx) : Regs where
  x := c.x
  v := c.v
  pc := c.pc
  ih := c.ih
  tmo := c.tmo
  ap := c.ap
  pap := c.pap
  cause := c.cause
  tval := c.tval
  tpc := c.tpc
  tvec := c.tvec
  frm := c.frm
  fflags := c.fflags
  mfmt := c.mfmt
  mascale := c.mascale
  mbscale := c.mbscale
  deadline := c.deadline
  dlDue := c.dlDue
  joinNext := c.joinNext
  joinBase := c.joinBase
  digest := c.digest
  dordE := c.dordE
  alarm0 := c.alarm0
  alarm1 := c.alarm1
  streams := c.streams
  marks := c.marks
  fences := c.fences
  issued := c.issued
  brkPass := c.brkPass
  pend := c.pend.map fun p => (p.id, p.reg)

/-- The module and place that are the home of a load. -/
def Dest.home (d : Dest) : Nat × Nat := (d.module, homePlace d.key)

/-- Whether a load to a home on the own module may be performed: every earlier one has its value, unless it has the same
home (R295). -/
def Ctx.loadMay (c : Ctx) (own : Nat) (home : Nat × Nat) : Bool :=
  home.1 != own || c.pend.all fun p => p.home.1 != own || p.home == home

/-- A load sent to its home (R197), ahead of its value (R295, R299), with the context before it kept in case the reply is
POISON. -/
def sendLoad (before : Ctx) (d : Dest) (rd : Reg) (w : Nat) (signed acq : Bool) (va : Word) : M Unit := do
  let s ← get
  let core := s.focusCore
  let (id, s) := s.fresh
  let r : LoadReq := ⟨⟨s.module, core, s.focusCtx, id⟩, s.pidOf core, d.module, d.key, w, (s.partAt core).key⟩
  let reg := match s.fctx.bound (xSlot rd) with | some _ => 0 | none => rd
  let s := s.modF fun c =>
    let c := c.result rd (c.getX rd)
    { c with pend := c.pend ++ [⟨id, reg, .load w signed, va, d.home, acq, some before.regs⟩] }
  set (s.ask core d.module (homePlace d.key) (.remoteLoad r))

/-- A load of w bytes at an address (R196, R197, R200): its checks, then its waits, then the value: from the own stores of
the context, from the own core at once, or from its home when the reply comes. -/
def loadOp (rd a : Reg) (off : Word) (w : Nat) (signed acq : Bool) : M Unit := do
  let before ← fctx
  let va := (← readX a) + off
  let d ← dataTarget va w .read
  noAmo
  fenced [0]
  let s ← get
  match if s.fcore.sb.isEmpty then Forward.none else sbForward d.module s.focusCtx d.key s.fcore.sb w with
  | .all v => if acq then block else writeX rd (extend v w signed)
  | .part => block
  | .none =>
    holdUntil (s.fctx.loadMay s.module d.home)
    if s.isHere d then
      swapHold d
      match s.loadAt d.key w with
      | .value v => writeX rd (extend v.toNat w signed)
      | _ => trap cPOISON va
    else sendLoad before d rd w signed acq va

/-- LB (R197). -/
def execLb (d a : Reg) (i : BitVec 12) (s : State) : Host.Outcome State Fault Refusal := seq4 (loadOp d a (sext i) 1 true false) s
/-- LH (R197). -/
def execLh (d a : Reg) (i : BitVec 12) (s : State) : Host.Outcome State Fault Refusal := seq4 (loadOp d a (sext i) 2 true false) s
/-- LW (R197). -/
def execLw (d a : Reg) (i : BitVec 12) (s : State) : Host.Outcome State Fault Refusal := seq4 (loadOp d a (sext i) 4 true false) s
/-- LD (R197). -/
def execLd (d a : Reg) (i : BitVec 12) (s : State) : Host.Outcome State Fault Refusal := seq4 (loadOp d a (sext i) 8 false false) s
/-- LBU (R197). -/
def execLbu (d a : Reg) (i : BitVec 12) (s : State) : Host.Outcome State Fault Refusal := seq4 (loadOp d a (sext i) 1 false false) s
/-- LHU (R197). -/
def execLhu (d a : Reg) (i : BitVec 12) (s : State) : Host.Outcome State Fault Refusal := seq4 (loadOp d a (sext i) 2 false false) s
/-- LWU (R197). -/
def execLwu (d a : Reg) (i : BitVec 12) (s : State) : Host.Outcome State Fault Refusal := seq4 (loadOp d a (sext i) 4 false false) s
/-- LDACQ (R200). -/
def execLdacq (d a : Reg) (i : BitVec 12) (s : State) : Host.Outcome State Fault Refusal := seq4 (loadOp d a (sext i) 8 false true) s

/-- H.LDS (R54). -/
def execHLds (a : Reg) (o : BitVec 6) (s : State) : Host.Outcome State Fault Refusal :=
  seq2 (do needs .c16 (.hLds a o); loadOp a 2 (zext o * 8) 8 false false) s

/-! ## Stores -/

/-- The AMO limit of sqctl in ns (R317). -/
def Core.amoNs (q : Core) : Nat := q.amolim.toNat * 1000

/-- A request enters the store buffer, when it has room (R198, R116); what the buffer may send, it sends (R294). A RED, or
a store to another module, is timed by the AMO limit from its issue (R106, R298). -/
def enterStore (d : Dest) (op : StoreOp) (rel red : Bool) (tag : Word) : M Unit := do
  let s ← get
  let q := s.fcore
  holdUntil (q.sb.length < 16)
  let core := s.focusCore
  let c := s.fctx
  let (id, s) := s.fresh
  let r : StoreReq :=
    ⟨.ctx ⟨s.module, core, s.focusCtx, id⟩, core, s.pidOf core, c.lnum.toNat, d.module, op,
      red && d.combinable && c.lmode != 2 && c.lmode != 3, tag, (s.partAt core).key⟩
  let e : SbEntry := ⟨id, s.focusCtx, r, homePlace d.key, c.pend.map (·.id), rel, false⟩
  let s := s.modFcore fun q => { q with sb := q.sb ++ [e] }
  let s := if red || d.module != s.module then s.armIn q.amoNs (.amoLimitExpiry ⟨s.module, core, 8, id⟩) else s
  set (s.pumpStores core 16)

/-- A store of the low w bytes of x[src] (R198, R200), folded into D (R385). -/
def storeOp (src a : Reg) (off : Word) (w : Nat) (rel : Bool) : M Unit := do
  let va := (← readX a) + off
  let v ← readX src
  let d ← dataTarget va w .write
  noAmo
  fenced [1]
  let v := BitVec.ofNat 64 (lowBytes v w)
  enterStore d (.bytes d.key w v) rel false 0
  foldD d.exempt va v w 0 0

/-- SB (R198). -/
def execSb (d a : Reg) (i : BitVec 12) (s : State) : Host.Outcome State Fault Refusal := seq4 (storeOp d a (sext i) 1 false) s
/-- SH (R198). -/
def execSh (d a : Reg) (i : BitVec 12) (s : State) : Host.Outcome State Fault Refusal := seq4 (storeOp d a (sext i) 2 false) s
/-- SW (R198). -/
def execSw (d a : Reg) (i : BitVec 12) (s : State) : Host.Outcome State Fault Refusal := seq4 (storeOp d a (sext i) 4 false) s
/-- SD (R198). -/
def execSd (d a : Reg) (i : BitVec 12) (s : State) : Host.Outcome State Fault Refusal := seq4 (storeOp d a (sext i) 8 false) s
/-- SDREL (R200). -/
def execSdrel (d a : Reg) (i : BitVec 12) (s : State) : Host.Outcome State Fault Refusal := seq4 (storeOp d a (sext i) 8 true) s

/-- H.SDS (R54). -/
def execHSds (a : Reg) (o : BitVec 6) (s : State) : Host.Outcome State Fault Refusal :=
  seq2 (do needs .c16 (.hSds a o); storeOp a 2 (zext o * 8) 8 false) s

/-! ## RED (R114 to R116) -/

/-- A RED: a store-buffer entry with an operation (R115). -/
def redOp (op : AmoOp) (w32 : Bool) (a b : Reg) : M Unit := do
  let va ← readX a
  let v ← readX b
  let w := if w32 then 4 else 8
  let d ← dataTarget va w .amo
  noAmo
  fenced [1]
  let v := BitVec.ofNat 64 (lowBytes v w)
  let tag := (← fctx).tag
  enterStore d (.red d.key w op v) false true tag
  foldD d.exempt va v w 1 (amoNum op)
  countEvent

/-- REDADD (R115). -/
def execRedadd (w : Bool) (a b : Reg) (s : State) : Host.Outcome State Fault Refusal := seq4 (redOp .add w a b) s
/-- REDAND (R115). -/
def execRedand (w : Bool) (a b : Reg) (s : State) : Host.Outcome State Fault Refusal := seq4 (redOp .and w a b) s
/-- REDOR (R115). -/
def execRedor (w : Bool) (a b : Reg) (s : State) : Host.Outcome State Fault Refusal := seq4 (redOp .or w a b) s
/-- REDXOR (R115). -/
def execRedxor (w : Bool) (a b : Reg) (s : State) : Host.Outcome State Fault Refusal := seq4 (redOp .xor w a b) s
/-- REDMIN (R115). -/
def execRedmin (w : Bool) (a b : Reg) (s : State) : Host.Outcome State Fault Refusal := seq4 (redOp .min w a b) s
/-- REDMAX (R115). -/
def execRedmax (w : Bool) (a b : Reg) (s : State) : Host.Outcome State Fault Refusal := seq4 (redOp .max w a b) s
/-- REDMINU (R115). -/
def execRedminu (w : Bool) (a b : Reg) (s : State) : Host.Outcome State Fault Refusal := seq4 (redOp .minu w a b) s
/-- REDMAXU (R115). -/
def execRedmaxu (w : Bool) (a b : Reg) (s : State) : Host.Outcome State Fault Refusal := seq4 (redOp .maxu w a b) s

/-! ## AMO (R108 to R112) -/

/-- An AMO's answer reaches rd at once: its old value, or the poison mark (R93, R110). -/
def Ctx.amoDone (c : Ctx) (rd : Reg) (w32 : Bool) (va : Word) (a : Answer) : Ctx :=
  match a with
  | .value v => c.result rd (amoResult w32 v)
  | _ => if rd = 0 then c else { c with marks := (rd, Mark.poisoned va) :: c.marks.filter fun p => p.1 != rd }

/-- The operand as the fold takes it (R385). -/
def amoFold (op : AmoOp) (b c : Word) : Word := match op with | .cas => b ^^^ c.rotateLeft 32 | _ => b

/-- An AMO of the context (R110): its checks, the fence, then performed at the own core at once or sent to its home, which
answers rd. -/
def amoOp (op : AmoOp) (w32 : Bool) (rd a b : Reg) (cmp : Option Reg) : M Unit := do
  let orig ← get
  let va ← readX a
  let vb ← readX b
  let vc ← match cmp with | some r => readX r | none => pure 0
  let w := if w32 then 4 else 8
  let d ← dataTarget va w .amo
  fullFence
  fenced [0]
  let vb := BitVec.ofNat 64 (lowBytes vb w)
  let vc := BitVec.ofNat 64 (lowBytes vc w)
  let tag := (← fctx).tag
  let s ← get
  if s.isHere d then
    swapHold d
    let _ ← decideHere orig 3 tag.toNat (2 ^ 46) []
    let r := (← get).amoAt d.key w32 op vb vc
    set (r.2.modF fun c => c.amoDone rd w32 va r.1)
  else
    let core := s.focusCore
    let (id, s) := s.fresh
    let c := s.fctx
    let who : Who := ⟨s.module, core, s.focusCtx, id⟩
    let r : AmoReq := ⟨.ctx who, core, s.pidOf core, c.lnum.toNat, d.module, d.key, op, w32, vb, vc,
      d.combinable && op != .swap && op != .cas && c.lmode != 2 && c.lmode != 3, tag, (s.partAt core).key⟩
    let reg := match c.bound (xSlot rd) with | some _ => 0 | none => rd
    let s := s.modF fun c =>
      { c with
        marks := c.marks.filter fun p => p.1 != rd
        pend := c.pend ++ [⟨id, reg, .amo w32, va, d.home, false, none⟩] }
    let s := s.armIn s.fcore.amoNs (.amoLimitExpiry who)
    set (s.ask core d.module (homePlace d.key) (.amoRequest r))
  foldD d.exempt va (amoFold op vb vc) w 2 (amoNum op)
  countEvent

/-- AMOADD (R110). -/
def execAmoadd (w : Bool) (d a b : Reg) (s : State) : Host.Outcome State Fault Refusal := seq4 (amoOp .add w d a b none) s
/-- AMOAND (R110). -/
def execAmoand (w : Bool) (d a b : Reg) (s : State) : Host.Outcome State Fault Refusal := seq4 (amoOp .and w d a b none) s
/-- AMOOR (R110). -/
def execAmoor (w : Bool) (d a b : Reg) (s : State) : Host.Outcome State Fault Refusal := seq4 (amoOp .or w d a b none) s
/-- AMOXOR (R110). -/
def execAmoxor (w : Bool) (d a b : Reg) (s : State) : Host.Outcome State Fault Refusal := seq4 (amoOp .xor w d a b none) s
/-- AMOMIN (R110). -/
def execAmomin (w : Bool) (d a b : Reg) (s : State) : Host.Outcome State Fault Refusal := seq4 (amoOp .min w d a b none) s
/-- AMOMAX (R110). -/
def execAmomax (w : Bool) (d a b : Reg) (s : State) : Host.Outcome State Fault Refusal := seq4 (amoOp .max w d a b none) s
/-- AMOMINU (R110). -/
def execAmominu (w : Bool) (d a b : Reg) (s : State) : Host.Outcome State Fault Refusal := seq4 (amoOp .minu w d a b none) s
/-- AMOMAXU (R110). -/
def execAmomaxu (w : Bool) (d a b : Reg) (s : State) : Host.Outcome State Fault Refusal := seq4 (amoOp .maxu w d a b none) s
/-- AMOSWAP (R110). -/
def execAmoswap (w : Bool) (d a b : Reg) (s : State) : Host.Outcome State Fault Refusal := seq4 (amoOp .swap w d a b none) s
/-- AMOCAS (R110). -/
def execAmocas (w : Bool) (d a b c : Reg) (s : State) : Host.Outcome State Fault Refusal :=
  seq4 (amoOp .cas w d a b (some c)) s

/-! ## Full/empty operations (R189 to R194, R201, R202) -/

/-- A full/empty operation whose condition holds at the own core, performed there; what its tag change lets go. -/
def State.performHere (s : State) (r : FeReq) : Answer × State :=
  let a := s.feAct r.key r.op r.data
  (a.1, if feChanges r.op then a.2.tryHeld (homePlace r.key) r.key r.tag else a.2)

/-- A full/empty request sent to its home; the context waits for the reply (R189). -/
def feSend (before : Ctx) (r : FeReq) (rd : Reg) (va : Word) (exempt : Bool) : M Unit := do
  let s ← get
  let (id, s) := s.fresh
  let r := { r with who := { r.who with id := id } }
  let s := s.modF fun c => { c with mode := .waiting, req := some (.fe r rd va exempt false before.streams) }
  throw (.blockIn (s.sendFe s.focusCore r))

/-- A full/empty operation of the context (R202). At the own core, in a launch that is neither recorded nor replayed, an
operation that is timed out, poisoned or can be performed ends at once; every other goes to its home. -/
def feOp (op : FeOp) (rd a : Reg) (off : Word) (limit : Reg) (src : Option Reg) : M Unit := do
  let before ← fctx
  let va := (← readX a) + off
  let t ← if limit = 0 then pure 0 else readX limit
  let data ← match src with | some r => readX r | none => pure 0
  let d ← dataTarget va 8 .fullEmpty
  fullFence
  fenced [0]
  let s ← get
  let core := s.focusCore
  let c := s.fctx
  let r : FeReq := ⟨⟨s.module, core, s.focusCtx, 0⟩, s.pidOf core, c.lnum.toNat, d.module, d.key, op, data, t, c.tag, (s.partAt core).key⟩
  if s.isHere d && c.lmode != 2 && c.lmode != 3 then
    swapHold d
    if t != 0 && s.reached t then modF fun c => { c with tmo := true, dordE := c.dordE + 1 }
    else if s.poisoned d.key && op != .ste then trap cPOISON va
    else if feCond op (s.tag d.key) then
      match s.performHere r with
      | (.value v, s) => set (s.modF fun c => c.feDone op rd va data v d.exempt)
      | (_, s) => set s
    else feSend before r rd va d.exempt
  else feSend before r rd va d.exempt

/-- The offset of LDF, LDFE and STF in 8-byte words (R201). -/
def feOff (o : BitVec 7) : Word := sext o * 8

/-- LDF (R202). -/
def execLdf (d a : Reg) (o : BitVec 7) (b : Reg) (s : State) : Host.Outcome State Fault Refusal :=
  seq4 (feOp .ldf d a (feOff o) b none) s
/-- LDFE (R202). -/
def execLdfe (d a : Reg) (o : BitVec 7) (b : Reg) (s : State) : Host.Outcome State Fault Refusal :=
  seq4 (feOp .ldfe d a (feOff o) b none) s
/-- STF (R202). -/
def execStf (d a : Reg) (o : BitVec 7) (b : Reg) (s : State) : Host.Outcome State Fault Refusal :=
  seq4 (feOp .stf 0 a (feOff o) b (some d)) s
/-- STE (R202). -/
def execSte (d a : Reg) (i : BitVec 12) (s : State) : Host.Outcome State Fault Refusal :=
  seq4 (feOp .ste 0 a (sext i) 0 (some d)) s
/-- SETE (R202). -/
def execSete (a : Reg) (i : BitVec 12) (s : State) : Host.Outcome State Fault Refusal :=
  seq4 (feOp .sete 0 a (sext i) 0 none) s
/-- PROBE (R202). -/
def execProbe (d a : Reg) (i : BitVec 12) (s : State) : Host.Outcome State Fault Refusal :=
  seq4 (feOp .probe d a (sext i) 0 none) s

/-! ## FENCE (R302, R303) -/

/-- What a command reads, or writes, of the classes CR, CW, MR and MW (R302): MATRIX writes by ACCST alone, and reads by
MMA (A and scales), ACCLD and WBLD. -/
def Cmd.inClass (writes : Bool) : Cmd → Bool
  | .mma _ _ _ _ | .accld _ _ | .wbld _ _ _ => !writes
  | .accst _ _ _ => writes
  | .accz _ | .accmv _ => false
  | _ => true

/-- The operations of an engine that a context's task has issued and that are not done: not those that an earlier task of
the context left (R224; DESIGN CHOICE, log entry 38). -/
def Engine.ofTask (e : Engine) (n : Eng) (c : Ctx) (k : Nat) (reads writes : Bool) : List (Eng × Nat × Bool) :=
  let own := e.queue.filter fun o => o.owner.ctx == k && o.owner.task == c.task && !o.owner.remote
  own.flatMap fun o =>
    (if reads && o.cmd.inClass false then [(n, o.num, false)] else [])
      ++ if writes && o.cmd.inClass true then [(n, o.num, true)] else []

/-- The barrier set of a FENCE with predecessor mask p and successor mask n (R303). -/
def State.barrier (s : State) (p n : BitVec 8) : Fence :=
  let q := s.fcore
  let c := s.fctx
  let k := s.focusCtx
  let x := p.getLsbD 7
  let cr := p.getLsbD 2
  let cw := p.getLsbD 3
  { succ := n
    scope := x
    stores := if p.getLsbD 1 then (q.sb.filter fun e => e.ctx == k).map (·.id) else []
    posted := if p.getLsbD 1 && x then c.posted else []
    loads := if p.getLsbD 0 then c.pend.map (·.id) else []
    msgs := if p.getLsbD 6 then
        ((q.sq0 ++ q.sq1 ++ q.sq2).filter fun e => e.ctx == k).map (·.id)
      else []
    ops := q.cp0.ofTask .cp0 c k cr cw ++ q.cp1.ofTask .cp1 c k cr cw ++ q.cl.ofTask .cl c k cr cw
      ++ q.mx.ofTask .mx c k (p.getLsbD 4) (p.getLsbD 5) }

/-- FENCE (R303): the barrier set is recorded, and the context goes on. A mask with no class orders nothing. -/
def execFence (p n : BitVec 8) (s : State) : Host.Outcome State Fault Refusal :=
  seq4 (do
    if p.toNat % 128 = 0 ∨ n.toNat % 128 = 0 then pure ()
    else modify fun s => s.modF fun c => { c with fences := c.fences ++ [s.barrier p n] }) s

end Sys2Proof.Machine
end

