-- ==== Sys2Proof/Machine/Post.lean ====
section
/-! DEFINITION. What senders and receivers of messages share: the slot that acceptance frees (R316), the messages that
hardware builds (R480), containment (R314), and the release of a send (R297). -/

namespace Sys2Proof.Machine

/-- The drain message falls due (R317). -/
def State.drainCheck (s : State) (core : Nat) : State :=
  let q := s.core core
  if q.arm && q.latch.isNone && q.sq1.length ≤ q.low.toNat then s.flyOnce core core 3 (.drainMessagePost core) else s

/-- A message leaves its slot in the send queue (R316): what waited behind it moves, and a drain message may fall due. -/
def State.slotFree (s : State) (core vn seq : Nat) : State :=
  let s := s.modCore core fun q => q.setSq vn ((q.sq vn).filter fun e => e.msg.seq != seq)
  let s := s.pumpSends core
  if vn = 1 then s.drainCheck core else s

/-- An endpoint's message has met its end at a receiver (R448), and what has waited behind it comes on. -/
def State.endpointAccepted (s : State) (m : Message) : State :=
  match s.endpointOf m with
  | none => s
  | some (pid, _) => (s.endpointDone m).pumpEndpoints pid

/-- The sender learns that its message has been accepted, diverted or dropped (R316). -/
def State.accepted (s : State) (m : Message) : State :=
  if m.side.hardware then s
  else if m.smod ≠ s.module then s.toModule m.smod 1 (.accepted m)
  else if m.side.endpoint ≠ 0 then s.endpointAccepted m
  else s.slotFree (senderOf m) m.vn m.seq

/-- The partition a message was sent from, on the own module; 64 for any other sender. -/
def State.msgPid (s : State) (m : Message) : Nat :=
  if m.smod = s.module && m.side.endpoint == 0 then s.pidOf (senderOf m) else 64

/-- The route word of a message (R307). -/
def messageRoute (m : Message) : Word :=
  BitVec.ofNat 64 (m.key.toNat * 2 ^ 48 + m.launch % 2 ^ 16 * 2 ^ 32 + m.vn * 2 ^ 30 + m.kind * 2 ^ 28
    + m.module * 2 ^ 16 + m.dest)

/-- A message of another partition's key, diverted to the supervisor of the receiving one with a record of it (R314,
R409 KIND 1, R411 TYPE 2), or dropped with a machine check at a core of no partition. -/
def State.contain (s : State) (core : Nat) (m : Message) : State :=
  match s.partOf core with
  | some (pid, p) =>
    let words := [BitVec.ofNat 64 (2 + core * 256), messageRoute m, messageHeader m] ++ m.payload
    let r : Word × State :=
      if p.svqRoom then (zext p.svqTail, s.putRecord pid p words) else (0xFFFFFFFF, s)
    (r.2.coreNotice core 1 [r.1]).accepted m
  | none => s.machineCheck.accepted m

/-- Whether a message's key is that of the partition of the core it has reached (R314). -/
def State.keyOk (s : State) (core : Nat) (m : Message) : Bool :=
  match s.partOf core with
  | some (_, p) => p.key == m.key
  | none => false

/-- The message numbered n that a unit of the module builds for a core (R480). -/
def builtMessage (n unit : Nat) (key : BitVec 16) (launch module dest smod sender : Nat) (tag path : Word)
    (payload : List Word) : Message :=
  { key := key, launch := launch, vn := 1, kind := 0, module := module, dest := dest, cls := 0x0B
    sy := coreY sender, sx := coreX sender, smod := smod, r := false, s := false, h := false, seq := 0
    payload := payload ++ List.replicate (6 - payload.length) 0
    side := ⟨tag, path, false, 0, n, (smod, unit), false, 0⟩ }

/-- The completion message of an engine command (R122, R157), from the unit of core owner to the command's sender. -/
def State.completeTo (s : State) (owner module dest launch : Nat) (tag status num eidx : Word) : State :=
  let p := s.partAt owner
  let (n, s) := s.fresh
  let unit := octetPlace (octetOf owner)
  let m := builtMessage n unit p.key launch module dest s.module owner tag 0 [status, num, eidx]
  s.sendMessage unit (s.pidOf owner) module dest m

/-- A command's sender answered with a status, if it asked for it (R122). -/
def State.answerCommand (s : State) (owner : Nat) (m : Message) (status : Word) : State :=
  if (m.payload.getD 0 0).getLsbD 11 then
    s.completeTo owner m.smod (senderOf m) m.launch (fold m.side.tag 1) status 0 0
  else s

/-- A class-0x08 or class-0x09 message of a SEND: read for its completion bit alone, and rejected (R157). -/
def State.rejectCommand (s : State) (m : Message) (e : Event) : State :=
  match s.heldBack m.dest (s.msgPid m) e with
  | some t => t
  | none => if s.keyOk m.dest m then (s.accepted m).answerCommand m.dest m 0xFF else s.contain m.dest m

/-- COLLECTIVE_COMMAND (R157). -/
def execCollectiveCommand (m : Message) (s : State) : Host.Outcome State Fault Refusal :=
  change (fun s => s.rejectCommand m (.collectiveCommand m)) s

/-- MATRIX_COMMAND (R157). -/
def execMatrixCommand (m : Message) (s : State) : Host.Outcome State Fault Refusal :=
  change (fun s => s.rejectCommand m (.matrixCommand m)) s

end Sys2Proof.Machine
end

