-- ==== Sys2Proof/Machine/Summary.lean ====
section
/-! DEFINITION. The registers that Umber reports and a snapshot latches (R459, R462). -/

namespace Sys2Proof.Machine

/-- A number placed at a bit. -/
def at' (n lo : Nat) : Word := BitVec.ofNat 64 (n * 2 ^ lo)

/-- Bits gathered: bit i set where the i-th of a list holds. -/
def gather : List Bool → Nat
  | [] => 0
  | b :: t => b.toNat + 2 * gather t

/-- The state of a fabric port in the summary. -/
def FabPort.summary (f : FabPort) : Nat := f.lanes.toNat * 16 + f.mode.toNat

/-- Words 1 to 7 of the summary record. -/
def State.summary (s : State) : List Word :=
  let pids := List.range 64
  let rails := s.rails.toList
  [BitVec.ofNat 64 (s.evseq - 1), BitVec.ofNat 64 s.wallNs,
    BitVec.ofNat 64 (gather (pids.map fun i => (s.part i).isSome)),
    BitVec.ofNat 64 (gather (pids.map fun i => match s.part i with | some p => p.conf | none => false)),
    at' (gather (rails.map (·.derate))) 0 ||| at' (rails.any (·.emerg)).toNat 16,
    BitVec.ofNat 64 ((s.fabPorts.toList.zipIdx).foldl (fun n f => n + f.1.summary * 256 ^ f.2) 0),
    BitVec.ofNat 64 s.mchecks]

/-- What a snapshot latches of the registers as they stand (R462). -/
def State.registers (s : State) : Snapshot :=
  { octets := s.octets.map fun o => (o.1, o.2.counters, o.2.overflow), rails := s.rails.toList
    ports := s.fabPorts.toList, summary := s.summary }

end Sys2Proof.Machine
end

