-- ==== Sys2Proof/Machine/Schedule.lean ====
section
/-! DEFINITION. What step calls around an instruction or event: fetching (R22, R23), the choice of a context (R205, R248),
what falls due, and the passing of time (log entry 1). -/

namespace Sys2Proof.Machine

/-! ## Fetch -/

/-- What the fetch at a context's pc gives: an instruction with its decoding, a word that is no instruction, or a trap. -/
inductive Fetched where
  | instr (i : Instr)
  | illegal (w : BitVec 32)
  | trap (c : BitVec 8) (v : Word)

/-- The halfword of a core's code store at an offset. -/
def State.code16 (s : State) (core off : Nat) : BitVec 16 := BitVec.ofNat 16 (s.read (codeKey core off) 2)

/-- Whether a halfword of the code store holds an uncorrectable error (R423). -/
def Core.codeBad (k : Core) (off : Nat) : Bool := k.badCode.contains off

/-- The fetch of one context: ACCESS outside the code store (R23), POISON of a bad halfword (R423), else the 16-bit or
32-bit instruction at pc (R22). -/
def State.fetch (s : State) (core k : Nat) : Fetched :=
  let c := s.ctx core k
  let p := c.pc.toNat
  if 16384 ≤ p + 1 then .trap cACCESS c.pc
  else
    let lo := s.code16 core p
    if (s.core core).codeBad p then .trap cPOISON c.pc
    else if lo.getLsbD 0 = false then
      match decode16 lo with
      | .ok i => .instr i
      | .error _ => .illegal (lo.zeroExtend 32)
    else if 16384 < p + 4 then .trap cACCESS c.pc
    else if (s.core core).codeBad (p + 2) then .trap cPOISON c.pc
    else
      let w := s.code16 core (p + 2) ++ lo
      match decode32 w with
      | .ok i => .instr i
      | .error _ => .illegal w

/-! ## The choice of a context (R205) -/

/-- The priority of what runs in a context. -/
def Run.prio : Run → Nat
  | .none => 0
  | .task _ p _ _ => p
  | .firing _ p _ => p

/-- A ready context (R205). -/
def Ctx.isReady (c : Ctx) : Bool := c.run != .none && c.mode == .ready && !c.serialHeld

/-- A context whose instruction is not blocked, or is to be looked at again. -/
def Ctx.live (c : Ctx) : Bool := c.mode == .ready || (c.mode == .blocked && c.again)

/-- A context that can issue. -/
def Ctx.canIssue (c : Ctx) : Bool := c.run != .none && c.live && !c.serialHeld

/-- The contexts of one priority that can issue, from the level's pointer round. -/
def Core.level (k : Core) (prio : Nat) : List Nat :=
  let start := k.rr[prio % 4]'(Nat.mod_lt _ (by decide))
  ((List.range 8).map fun i => (start + i) % 8).filter fun i =>
    let c := k.ctx i
    c.canIssue && c.run.prio == prio

/-- The contexts that can issue, the one to be preferred first: by priority, in round robin within it (R205). -/
def Core.order (k : Core) : List Nat := k.level 3 ++ k.level 2 ++ k.level 1 ++ k.level 0

/-- The partition of a core runs (R418). -/
def State.partRuns (s : State) (c : Nat) : Bool := match s.partOf c with | some (_, p) => p.stage == .running | none => false

/-- Run cycles pass on a core: a partition occupies it and its octet is active (R361). -/
def State.coreLives (s : State) (c : Nat) : Bool := (s.partOf c).isSome && (s.octet (octetOf c)).power == .active

/-- A core that may issue: its partition runs (R418) and its octet is active (R431). -/
def State.coreRuns (s : State) (c : Nat) : Bool :=
  s.partRuns c && (s.octet (octetOf c)).power == .active

/-- A vector load that its core has accepted is still reading words: it completes though its partition is being pre-empted
(R267). -/
def State.finishes (s : State) (c : Nat) : Bool :=
  match s.partOf c with
  | some (_, p) => match p.stage with
    | .preempting _ =>
      (s.octet (octetOf c)).power == .active && (s.core c).ctxs.toList.any fun x => !x.vread.isEmpty
    | _ => false
  | none => false

/-- The quad of a core within its octet (R248): left, of in-octet indices 0, 1, 4 and 5, or right. -/
def quadOf (c : Nat) : Nat := inOctet c / 2 % 2

/-- A context's next instruction is one of the vector unit (R248): its major is VARITH, VFMA, VMEM or VMISC. A vector load
whose words are being read has been accepted. -/
def State.vecNext (s : State) (c k : Nat) : Bool :=
  let x := s.ctx c k
  let w := (s.code16 c x.pc.toNat).toNat
  x.vread.isEmpty && w % 2 == 1 && 0x1E ≤ w / 2 % 64 && w / 2 % 64 ≤ 0x21

/-- The vector unit of a core's quad. -/
def State.quad (s : State) (c : Nat) : Quad := (s.octet (octetOf c)).quads[quadOf c % 2]'(Nat.mod_lt _ (by decide))

/-- The octet clock's cycle of a core's octet. -/
def State.octetCycle (s : State) (c : Nat) : Nat := (s.octet (octetOf c)).cyclesAt 8 s.now

/-- A core offers its quad a vector instruction: it may issue, and the context it would take has one next. -/
def State.offers (s : State) (c : Nat) : Bool :=
  s.coreRuns c && (s.core c).lastIssue != some (s.cycle c)
    && match (s.core c).order with | k :: _ => s.vecNext c k | [] => false

/-- The cores of a core's quad, from the unit's pointer round by in-octet index. -/
def State.quadRound (s : State) (c : Nat) : List Nat :=
  let q := quadOf c
  let l := [2 * q, 2 * q + 1, 2 * q + 4, 2 * q + 5]
  let n := (s.quad c).next
  ((l.filter fun i => n ≤ i) ++ l.filter fun i => i < n).map fun i => octetCore (octetOf c) i

/-- The vector unit accepts a core's instruction in this cycle (R248): it has accepted none, and of the cores that offer one
this one's turn comes first. -/
def State.quadTakes (s : State) (c : Nat) : Bool :=
  (s.quad c).last != some (s.octetCycle c) && ((s.quadRound c).find? fun d => d == c || s.offers d) == some c

/-- The context a core issues from: the first of its order whose vector instruction, if that is its next, is accepted
(R205, R248); while its partition is being pre-empted, only a vector load that goes on reading (R267). -/
def State.choose (s : State) (c : Nat) : Option Nat :=
  (s.core c).order.find? fun k =>
    (!s.vecNext c k || s.quadTakes c) && (s.coreRuns c || !(s.ctx c k).vread.isEmpty)

/-- The vector unit of a core's quad has accepted an instruction from it (R248). -/
def State.quadTook (s : State) (c : Nat) : State :=
  let n := s.octetCycle c
  s.modOctet (octetOf c) fun o =>
    { o with quads := o.quads.set (quadOf c % 2) ⟨some n, inOctet c + 1⟩ (Nat.mod_lt _ (by decide)) }

/-- A level's pointer moved past a context, and the cycle noted (R205). -/
def Core.issued (k : Core) (i prio cycle : Nat) : Core :=
  { k with rr := k.rr.set (prio % 4) ((i + 1) % 8) (Nat.mod_lt _ (by decide)), lastIssue := some cycle }

/-! ## What falls due -/

/-- The cycle counts at which something falls due in a context (R361, R364): its cycle alarms, and its WAITC while its
partition runs and no DEADLINE has come (R367, R429). -/
def Ctx.cycleDues (c : Ctx) (core k : Nat) (runs : Bool) : List (Nat × Event) :=
  let alarm (a : Alarm) (slot : Nat) : List (Nat × Event) :=
    match a with | .cycle t => [(t, Event.alarmFire core k slot)] | _ => []
  alarm c.alarm0 0 ++ alarm c.alarm1 1
    ++ match c.wait, c.waitTarget with
      | some (.cycles _), some t => if runs && c.dlDue.isNone then [(t, Event.waitTargetReached core k)] else []
      | _, _ => []

/-- Everything that falls due by cycle count on a core on which run cycles pass. -/
def State.cycleDues (s : State) (c : Nat) (q : Core) : List (Nat × Event) :=
  if s.coreLives c then (List.range 8).flatMap fun k => (q.ctx k).cycleDues c k (s.partRuns c) else []

/-- The first of the least times. -/
def earliest : List (Nat × Event) → Option (Nat × Event)
  | [] => none
  | x :: t => match earliest t with
    | some y => if y.1 < x.1 then some y else some x
    | none => some x

/-- What is due by cycle count, with the wall time in units of its cycle. -/
def State.cycleDue (s : State) : Option (Nat × Event) :=
  earliest (s.cores.flatMap fun p =>
    ((s.cycleDues p.1 p.2).filter fun x => x.1 ≤ s.cycle p.1).map fun x => (s.wallOfCycle p.1 x.1, x.2))

/-- An octet's ratio window that has ended (R359); 1,536 stands for the octets that octets does not list. -/
def State.windowDue (s : State) : SMap Octet → Option Event
  | [] => if s.commonOctet.winIdx < s.wallNs / 256 then some (.ratioWindowEnd 1536) else none
  | (o, x) :: t => if x.winIdx < s.wallNs / 256 then some (.ratioWindowEnd o) else s.windowDue t

/-- When an idle octet's sleep falls due, in wall units, with the event (R431, R432, R434: entering takes 200 wall ns). -/
def Octet.sleepDue (x : Octet) (o gate ret : Nat) (tasks : Bool) : Option (Nat × Event) :=
  match x.idleSince with
  | none => none
  | some t =>
    if gate ≠ 0 ∧ tasks = false ∧ x.power ≠ .gated then some (t + (gate * 1000 + 200) * unitsPerNs, .gatingEntry o)
    else if ret ≠ 0 ∧ x.power = .active then some (t + (ret * 1000 + 200) * unitsPerNs, .retentionEntry o)
    else none

/-- Whether any context of an octet holds a task or firing. -/
def State.octetTasks (s : State) (o : Nat) : Bool :=
  (List.range 8).any fun i => (s.core (octetCore o i)).ctxs.toList.any fun c => c.run != .none

/-- The sleep of an octet that falls due, by its partition's pwridle (R432); none while it wakes (R434). -/
def State.octetSleep (s : State) (o : Nat) (x : Octet) : Option (Nat × Event) :=
  if s.wakes o then none else
  let p := s.partAt (octetCore o 0)
  let tasks := s.octetTasks o
  let g := x.sleepDue o p.gate.toNat 0 tasks
  let r := x.sleepDue o 0 p.ret.toNat tasks
  match g, r with
  | some a, some b => if b.1 ≤ a.1 then some b else some a
  | some a, none => some a
  | none, b => b

/-- A sleep that is due. -/
def State.sleepDue (s : State) : SMap Octet → Option Event
  | [] => none
  | (o, x) :: t =>
    match (if x.idleSince = none then none else s.octetSleep o x) with
    | some (d, e) => if d ≤ s.wallUnits then some e else s.sleepDue t
    | none => s.sleepDue t

/-- A ratio window or a sleep that is due. -/
def State.octetDue (s : State) : Option Event :=
  match s.windowDue s.octets with
  | some e => some e
  | none => s.sleepDue s.octets

/-- The event that is due now, with the state that has taken it from the timers: timers in order of their time (R370), and
before them what a cycle count has reached earlier (R364, R367); then ratio windows and sleeps. -/
def State.due (s : State) : Option (Event × State) :=
  let timer := match s.timers with | (d, e) :: t => if d ≤ s.wallUnits then some (d, e, t) else none | [] => none
  match timer, s.cycleDue with
  | some (d, e, t), some (d', e') => if d' < d then some (e', s) else some (e, { s with timers := t })
  | some (_, e, t), none => some (e, { s with timers := t })
  | none, some (_, e) => some (e, s)
  | none, none => s.octetDue.map fun e => (e, s)

/-! ## Time passing -/

/-- The smaller of two times, none being never. -/
def sooner : Option Nat → Option Nat → Option Nat
  | none, b => b
  | a, none => a
  | some a, some b => some (if a ≤ b then a else b)

/-- Uncore cycles until a wall time in units. -/
def State.untilWall (s : State) (d : Nat) : Nat := (d - s.wallUnits + (s.rate - 1)) / s.rate

/-- Uncore cycles until a core's clock has made a number of cycles. -/
def State.untilCycle (s : State) (c target : Nat) : Nat :=
  let x := s.octet (octetOf c)
  let k := (x.clock (inOctet c)).khz
  (target * 1600000 - x.accAt (inOctet c) s.now + (k - 1)) / k

/-- Uncore cycles until the windows of a count have one more behind them. -/
def State.untilWindow (s : State) (winIdx : Nat) : Nat := s.untilWall ((winIdx + 1) * 256 * unitsPerNs)

/-- Uncore cycles until anything falls due. -/
def State.untilDue (s : State) : Option Nat :=
  let t := match s.timers with | (d, _) :: _ => some (s.untilWall d) | [] => none
  let c := s.cores.foldl (fun m p =>
    (s.cycleDues p.1 p.2).foldl (fun m x => sooner m (some (s.untilCycle p.1 x.1))) m) none
  let w := s.octets.foldl (fun m p => sooner m (some (s.untilWindow p.2.winIdx))) (some (s.untilWindow s.commonOctet.winIdx))
  let z := s.octets.foldl (fun m p => match (if p.2.idleSince = none then none else s.octetSleep p.1 p.2) with
    | some (d, _) => sooner m (some (s.untilWall d)) | none => m) none
  sooner t (sooner c (sooner w z))

/-- Cycles of an octet's eight core clocks by uncore cycle n. -/
def Octet.coreCycles (x : Octet) (n : Nat) : Nat := (List.range 8).foldl (fun m i => m + x.cyclesAt i n) 0

/-- Cycles of an octet's eight core clocks before uncore cycle n begins. -/
def Octet.coreCyclesBefore (x : Octet) (n : Nat) : Nat :=
  (List.range 8).foldl (fun m i => m + (x.accAt i n - 1) / 1600000) 0

/-- Core cycles and wall µs counted by an octet that is active (R460). -/
def Octet.tally (x : Octet) (cycles micros : Nat) : Octet :=
  if x.power ≠ .active ∨ x.sources.toList.all (fun v => v != 1 && v != 11) = true then x
  else (x.count 1 cycles).count 11 micros

/-- What an octet counts by itself while n uncore cycles pass (R460): the cycles of its eight cores (source 1), and the
wall µs it is active (source 11). -/
def Octet.pass (x : Octet) (now n wall rate : Nat) : Octet :=
  x.tally (x.coreCycles (now + n) - x.coreCycles now) ((wall + n * rate) / (1000 * unitsPerNs) - wall / (1000 * unitsPerNs))

/-- What an octet has counted by itself before wall reaches t, in units, n uncore cycles from now (R462). -/
def Octet.passBefore (x : Octet) (now n wall t : Nat) : Octet :=
  x.tally (x.coreCyclesBefore (now + n) - x.coreCycles now) ((t - 1) / (1000 * unitsPerNs) - wall / (1000 * unitsPerNs))

/-- The registers that a trigger at wall time t, in units, latches (R462): those that stand before the uncore cycle in which
wall reaches it, with the cycles and µs counted before t. -/
def State.registersBefore (s : State) (t : Nat) : Snapshot :=
  let n := s.untilWall t
  ({ s with
      wallUnits := s.wallUnits + n * s.rate
      octets := s.octets.map fun p => (p.1, p.2.passBefore s.now n s.wallUnits t) } : State).registers

/-- The snapshot whose trigger falls in the next n uncore cycles, taken. -/
def State.takeSnap (s : State) (n : Nat) : State :=
  match s.snapAt with
  | none => s
  | some t =>
    let t := t * unitsPerNs
    if s.wallUnits < t ∧ t ≤ s.wallUnits + n * s.rate then { s with snapTaken := some (s.registersBefore t) } else s

/-- n uncore cycles pass. -/
def State.pass (s : State) (n : Nat) : State :=
  let s := s.takeSnap n
  { s with
    now := s.now + n, wallUnits := s.wallUnits + n * s.rate
    octets := s.octets.map fun p => (p.1, p.2.pass s.now n s.wallUnits s.rate) }

/-- A device that no image has started halts: it takes in nothing but the next cold boot (R464). -/
def State.takes (s : State) (e : Event) : Bool :=
  s.boot != .failed || match e with | .coldBoot _ _ => true | _ => false

/-- Up to n uncore cycles pass, not beyond what falls due next; the number that passed, and the state. -/
def State.elapse (s : State) (n : Nat) : Nat × State :=
  let m := match s.untilDue with | some d => if d < n then (if d = 0 then 1 else d) else n | none => n
  (m, s.pass m)

/-- Uncore cycles to a core's next cycle edge. -/
def State.toEdge (s : State) (c : Nat) : Nat :=
  s.untilCycle c (s.cycle c + 1)

/-! ## Flights -/

/-- Something arrives for an awake octet: if it has begun to go to sleep it gives that up, and a new idle interval starts
(R434). -/
def State.stirOctet (s : State) (o : Nat) : State :=
  let x := s.octet o
  match (if x.idleSince = none then none else s.octetSleep o x) with
  | some (d, _) =>
    if d ≤ s.wallUnits + 200 * unitsPerNs then s.modOctet o fun x => { x with idleSince := some s.wallUnits } else s
  | none => s

/-- A flight reaches its octet's router (R433, R434): a sleeping octet holds it and wakes; one that has begun to go to
sleep gives that up, and a new idle interval starts. Otherwise it goes on, as the event. -/
def State.arrive (s : State) (f : Flight) : Option Event × State :=
  match f.octet with
  | none => (some f.ev, s)
  | some o =>
    let x := s.octet o
    if x.power ≠ .active then (none, (s.modOctet o fun x => { x with held := x.held ++ [f] }).startWake o)
    else (some f.ev, s.stirOctet o)

/-- A flight reaches a memory port by a lower-numbered router input port than an access that has been accepted in this
uncore cycle: it came first and cannot be accepted now (R90). -/
def State.tooLate (s : State) (f : Flight) : Bool :=
  f.vn == 0 && 12288 ≤ f.dst && f.dst < 12560
    && match (s.port (f.dst - 12288)).lastIn with
      | some (n, p) => n == s.now && inPort (s.router f.src) (s.router f.dst) < p
      | none => false

/-- The input port of the access that a memory port accepts now, noted (R90). -/
def State.noteIn (s : State) (f : Flight) : State :=
  if f.vn == 0 && 12288 ≤ f.dst && f.dst < 12560 then
    let p := inPort (s.router f.src) (s.router f.dst)
    s.modPort (f.dst - 12288) fun q => { q with lastIn := some (s.now, p) }
  else s

/-- The flight a deliver turn lands: the k-th or the one that must come before it (R99, R433), with the event that it brings
unless its octet holds it. One that is too late for this uncore cycle waits for the next. -/
def State.land (s : State) (k : Nat) : Option (Option Event × State) :=
  let i := headOf s.flights s.flights.length k
  match s.flights[i]? with
  | none => none
  | some f =>
    if s.tooLate f then some (none, (s.elapse 1).2)
    else some (({ s with flights := s.flights.eraseIdx i } : State).noteIn f |>.arrive f)

/-! ## Upsets (log entry 6) -/

/-- A hardware error: a word poisoned, a decombining record lost, a code halfword gone bad. -/
def State.upset (s : State) : Upset → State
  | .poison key => s.setPoison key
  | .record o i => s.modOctet o fun x => { x with records := x.records.map fun r => if r.1 = i then (i, { r.2 with lost := true }) else r }
  | .code c off => s.modCore c fun k => { k with badCode := insertKey k.badCode off }

/-! ## Idle octets (R431) -/

/-- No context of a core is ready, no engine operation queued, no store or message held, and no held entry has a deadline
(R431). -/
def Core.idle (k : Core) : Bool :=
  k.ctxs.toList.all (fun c => !c.isReady)
    && k.cp0.queue.isEmpty && k.cp1.queue.isEmpty && k.mx.queue.isEmpty && k.cl.queue.isEmpty
    && k.sb.isEmpty && k.sq0.isEmpty && k.sq1.isEmpty && k.sq2.isEmpty && k.waitTab.all fun h => h.req.deadline == 0

/-- An octet of idle cores. -/
def State.octetIdle (s : State) (o : Nat) : Bool :=
  (List.range 8).all fun i => (s.core (octetCore o i)).idle

/-- An octet's idle interval begun, kept or ended. -/
def Octet.markIdle (x : Octet) (idle : Bool) (wall : Nat) : Octet :=
  match idle, x.idleSince with
  | false, _ => { x with idleSince := none }
  | true, some _ => x
  | true, none => { x with idleSince := some wall }

/-- The idle intervals of the octets, after a change. -/
def State.markIdle (s : State) : State :=
  { s with octets := s.octets.map fun p => (p.1, p.2.markIdle (s.octetIdle p.1) s.wallUnits) }

/-! ## Around an instruction -/

/-- ILLEGAL_INSTRUCTION (R24, R56, R59): ILLOP with the word as tval. -/
def execIllegalInstruction (w : BitVec 32) (s : State) : Host.Outcome State Fault Refusal :=
  runInstr (trap cILLOP (w.zeroExtend 64)) s

/-- Whether an instruction has issued: its context does not wait at issue. -/
def Ctx.settled (c : Ctx) : Bool := c.mode != .blocked && !c.mode.isWalking

/-- Nothing of a context's next instruction has been done: it waits for nothing, holds no reply, and has read no word. -/
def Ctx.atStart (c : Ctx) : Bool :=
  c.wait.isNone && c.copy.isNone && c.inval.isNone && c.groupReply.isNone && c.vread.isEmpty

/-- An instruction has issued, or is under way: it has completed, it waits for a time, a reply, a copy or accesses, or it
has read a word. One that waits for room, for an earlier access or for a translation has not issued. -/
def Ctx.gone (c : Ctx) : Bool := (c.settled && !c.mode.isParked) || !c.atStart

/-- After an instruction of context k of core c, s before and t after: what issued moves the pointer of its level
(R205) and of its vector unit (R248), is counted (R460), and lets waiting contexts look again. A word that traps ILLOP,
ILLFEAT or PRIV counts as an instruction issued, the counter of R59 being read as one of the instruction's own (DESIGN
CHOICE: log entry 38). -/
def afterIssue (s : State) (c k : Nat) (t : State) : State :=
  let t := if (s.ctx c k).atStart && (t.ctx c k).gone then
      let t := if s.vecNext c k then t.quadTook c else t
      (t.modCore c fun q => q.issued k (s.ctx c k).run.prio (s.cycle c)).count (octetOf c) 2 1
    else t
  (if (t.ctx c k).settled then t.wakeAll else t).markIdle

/-- The first core of a list that can issue in this cycle, with its context. -/
def State.firstIssue (s : State) : List Nat → Option (Nat × Nat)
  | [] => none
  | c :: t =>
    if (s.coreRuns c || s.finishes c) && (s.core c).lastIssue != some (s.cycle c) then
      match s.choose c with
      | some k => some (c, k)
      | none => s.firstIssue t
    else s.firstIssue t

/-- The core and context the default policy issues from: the focus core first. -/
def State.nextIssue (s : State) : Option (Nat × Nat) := s.firstIssue (s.focusCore :: s.cores.map (·.1))

/-! ## Placing a program (log entry 2) -/

/-- A list of bytes stored from a key. -/
def putBytes (m : List Host.Cell) (key : Nat) : List Byte → List Host.Cell
  | [] => m
  | b :: t => putBytes (memSet m key b) (key + 1) t

/-- The partition that State.withFetchWord places its program in: the whole die, key 1, core 0 its supervisor core. -/
def placedPart : Partition := { Partition.reset with wm1 := 47, hm1 := 31, key := 1, svEn := true }

/-- The state in which context 0 of core 0 runs a standing-launch task at supervisor privilege, whose next instruction's
bytes are given; nothing is due, and the next turn issues from core 0. -/
def State.placeWord (s : State) (bytes : List Byte) : State :=
  let c := s.ctx 0 0
  let pc := if c.pc.toNat % 2 = 0 ∧ c.pc.toNat + 4 ≤ 16384 then c.pc else 0
  let s := { s with
    parts := mapSet s.parts 0 placedPart
    mem := putBytes s.mem (codeKey 0 pc.toNat) bytes
    timers := s.timers.filter fun t => s.wallUnits < t.1
    commonOctet := { s.commonOctet with winIdx := s.wallNs / 256 }
    turns := .issue 0 :: s.turns }
  let s := s.modOctet 0 fun o => { o with
    power := .active, winIdx := s.wallNs / 256, idleSince := none, quads := Vector.replicate 2 ⟨none, 0⟩ }
  let s := s.modCore 0 fun q => { q with lastIssue := none, badCode := [], rr := Vector.replicate 4 0 }
  s.modCtx 0 0 fun x =>
    { x with
      run := .task 0x10 3 none false, mode := .ready, again := false, vread := [], pc := pc, prv := true, dlDue := none, serialHeld := false
      alarm0 := .idle, alarm1 := .idle, wait := none, waitTarget := none }

end Sys2Proof.Machine
end

