-- ==== Sys2Proof/Machine/Engine.lean ====
section
/-! DEFINITION. The engine contexts cp0, cp1, mx and cl: issue, completion, halting, recovery (R118 to R122, R133 to
R136, R386, R387), and how an instruction reads its records (R121). -/

namespace Sys2Proof.Machine

/-! ## Engine contexts -/

/-- An engine context replaced. -/
def Core.setEngine (q : Core) (n : Eng) (e : Engine) : Core :=
  match n with
  | .cp0 => { q with cp0 := e }
  | .cp1 => { q with cp1 := e }
  | .mx => { q with mx := e }
  | .cl => { q with cl := e }

/-- An engine context of a core. -/
def State.engine (s : State) (core : Nat) (n : Eng) : Engine := (s.core core).engine n

/-- An engine context of a core changed. -/
def State.modEngine (s : State) (core : Nat) (n : Eng) (f : Engine → Engine) : State :=
  s.modCore core fun q => q.setEngine n (f (q.engine n))

/-- The head of a queue changed. -/
def Engine.modHead (e : Engine) (f : EngOp → EngOp) : Engine :=
  match e.queue with
  | [] => e
  | o :: t => { e with queue := f o :: t }

/-- The copy channel an operation names (R117). -/
def chanEng : Chan → Eng | .cp0 => .cp0 | .cp1 => .cp1

/-- The channel of an engine context that is one. -/
def engChan : Eng → Chan | .cp1 => .cp1 | _ => .cp0

/-- The issuing task is still there: a killed one that waits for its AMO is not. -/
def Core.ownerLive (q : Core) (o : Owner) : Bool :=
  !o.remote && !(q.ctx o.ctx).dying && (q.ctx o.ctx).run != .none && (q.ctx o.ctx).task == o.task

/-- An operation's own digest added to its launch's (R387). For a command over network 2, key is the carrying SEND's tag
and j is 0. -/
def State.launchOp (s : State) (core : Nat) (o : Owner) (e : Word) : State :=
  s.addDigest (s.pidOf core) o.launch (fold (fold 0 (fold o.key (BitVec.ofNat 64 (2 ^ 63 + o.j)))) e)

/-- An operation that will write no more: its digest is kept for the CWAIT of its task, or goes to the launch (R386). -/
def State.creditOp (s : State) (core : Nat) (n : Eng) (o : EngOp) : State :=
  if (s.core core).ownerLive o.owner then
    s.modEngine core n fun g => { g with done := g.done ++ [⟨o.num, o.owner, o.e⟩] }
  else s.launchOp core o.owner o.e

/-- The group a command holds in DRAIN (R162). -/
def drainGroup : Cmd → Option Nat
  | .xchg g _ _ _ _ => some g
  | .mcast g _ _ _ _ _ => g
  | .reduce g _ _ _ _ _ _ _ => some g
  | _ => none

/-- A group operation that has completed or is dropped leaves DRAIN (R162). -/
def State.undrain (s : State) (core : Nat) (c : Cmd) : State :=
  match drainGroup c with
  | some g => s.askGroup core 16 0 g .drainDown
  | none => s

/-- The sender of a command over network 2 answered at the end of its operation (R122). -/
def State.replyOp (s : State) (core : Nat) (o : EngOp) (status eidx : Nat) : State :=
  match o.reply with
  | some (m, c) =>
    s.completeTo core m c o.owner.launch (fold o.owner.key 1) (BitVec.ofNat 64 status) (BitVec.ofNat 64 o.num)
      (BitVec.ofNat 64 eidx)
  | none => s

/-- An operation completes: C := n (R118), with what its digest, its sender and its group are due. -/
def State.finishOp (s : State) (core : Nat) (n : Eng) (o : EngOp) : State :=
  let s := s.modEngine core n fun g =>
    { g with c := Nat.max g.c o.num, queue := g.queue.filter fun x => x.num != o.num, hist := g.hist ++ [(o.num, s.wallUnits)] }
  (((s.creditOp core n o).replyOp core o 0 0).undrain core o.cmd).kickEngines core

/-- An operation that the halt of its context keeps from running: those numbered F and above (R135). Operations of other
launches below the F of a KIND 7 halt go on (DESIGN CHOICE: R136 does not say; log entry 38). -/
def Engine.barred (g : Engine) (n : Nat) : Bool := match g.halt with | some (_, _, f, _) => f ≤ n | none => false

/-- An engine context halts (R135): nothing more of it starts until it is recovered. -/
def State.haltEngine (s : State) (core : Nat) (n : Eng) (kind eidx f : Nat) : State :=
  s.modEngine core n fun g => if g.halt.isSome then g else { g with halt := some (kind, eidx, f, s.wallUnits) }

/-- An engine context halts at an operation, and the sender of a copy command learns of it (R122). -/
def State.haltOp (s : State) (core : Nat) (n : Eng) (kind eidx : Nat) (o : EngOp) : State :=
  if (s.engine core n).halt.isSome then s
  else (s.haltEngine core n kind eidx o.num).replyOp core o (0x100 + kind) eidx

/-- A halted context recovered (R135): C := I, the range F to I abandoned, and its operations dropped. A copy command so
abandoned sends no completion (DESIGN CHOICE: R122 does not say; log entry 38). -/
def State.recover (s : State) (core : Nat) (n : Eng) : State :=
  let g := s.engine core n
  match g.halt with
  | none => s
  | some (_, eidx, f, _) =>
    let s := s.modEngine core n fun g =>
      { g with
        c := g.i, queue := g.queue.filter fun o => o.num < f, halt := none, aband := some (f, g.i, eidx, s.wallUnits)
        hist := g.hist ++ [(g.i, s.wallUnits)]
        late := g.late ++ (g.queue.filter fun o => f ≤ o.num).flatMap EngOp.lateOf }
    (g.queue.filter fun o => f ≤ o.num).foldl (fun s o => (s.creditOp core n o).undrain core o.cmd) s

/-- The status word of an engine context (R143, R165). -/
def Engine.status (g : Engine) : Word :=
  match g.halt with
  | some (kind, eidx, _, _) => BitVec.ofNat 64 (2 ^ 63 + kind * 2 ^ 32 + eidx)
  | none => BitVec.ofNat 64 (g.c % 2 ^ 63)

/-- A launch that ends drops its operations (R136): the context halts with KIND 7 at the lowest of them, unless it has
halted already. A copy command so dropped sends no completion (DESIGN CHOICE: R122 does not say; log entry 38). -/
def State.dropOps (s : State) (core : Nat) (n : Eng) (pick : EngOp → Bool) : State :=
  let g := s.engine core n
  match g.queue.filter pick with
  | [] => s
  | o :: t =>
    let s := s.haltEngine core n 7 0 o.num
    let s := s.modEngine core n fun g =>
      { g with queue := g.queue.filter fun x => !pick x, late := g.late ++ (o :: t).flatMap EngOp.lateOf }
    (o :: t).foldl (fun s o => (s.creditOp core n o).undrain core o.cmd) s

/-! ## Issue -/

/-- A context holds fewer than 4 operations (R118, R156). -/
def Engine.room (g : Engine) : Bool := g.queue.length < 4

/-- An operation as it is issued. -/
def newOp (num : Nat) (owner : Owner) (cmd : Cmd) (stores posted : List Nat) (fmt : BitVec 8 × Word × BitVec 18)
    (reply : Option (Nat × Nat)) : EngOp where
  num := num
  owner := owner
  cmd := cmd
  stores := stores
  posted := posted
  started := false
  next := 0
  out := 0
  read := false
  values := []
  got := 0
  result := false
  snap := []
  hist := []
  sample := none
  fmt := fmt
  e := 0
  reply := reply
  walked := none

/-- The context's stores that a command releases (R120). -/
def State.ownStores (s : State) : List Nat :=
  (s.fcore.sb.filter fun e => e.ctx == s.focusCtx).map (·.id)

/-- The waits of an engine command of the given fence classes (R110, R303; log entry 11). -/
def engineWaits (cls : List Nat) : M Unit := do
  noAmo
  noLoad
  fenced cls

/-- A command issued by the focus context: numbered, queued, its number in rd (R118, R141); J counts it (R381). -/
def issueOp (n : Eng) (rd : Reg) (cmd : Cmd) : M Unit := do
  let s ← get
  let g := s.fcore.engine n
  let c := s.fctx
  let owner : Owner := ⟨c.task, s.focusCtx, c.lnum.toNat, c.dkey, c.dordJ.toNat, false, c.path⟩
  let o := newOp (g.i + 1) owner cmd s.ownStores c.posted (c.mfmt, c.mascale, c.mbscale) none
  let s := s.modFcore fun q => q.setEngine n { g with i := g.i + 1, queue := g.queue ++ [o] }
  set ((s.modF fun c => { c with dordJ := c.dordJ + 1 }).kickEngines s.focusCore)
  writeX rd (BitVec.ofNat 64 (g.i + 1))

/-! ## Reading local memory at issue (R121) -/

/-- The offset an own-core address names (R65). -/
def ownOff (a : Word) : Option Nat := if bits a 63 16 = 0xFC0000000000 then some (bits a 15 0) else none

/-- The offset an own-core address of an alignment names. -/
def ownAligned (a : Word) (n : Nat) : Option Nat :=
  match ownOff a with
  | some o => if o % n = 0 then some o else none
  | none => none

/-- n 64-bit words of a value, the lowest first. -/
def wordsOf (v : Nat) : Nat → List Word
  | 0 => []
  | n + 1 => BitVec.ofNat 64 v :: wordsOf (v / 2 ^ 64) n

/-- The lowest poisoned word of n from a key. -/
def State.firstPoison (s : State) (key : Nat) : Nat → Option Nat
  | 0 => none
  | n + 1 => if s.poisoned key then some key else s.firstPoison (key + 8) n

/-- A residents' exchange holds an access to local words of a core (R349). -/
def State.swapping (s : State) (core off n : Nat) : Bool :=
  let q := s.core core
  match q.exch, q.resident with
  | some _, some r => r.base < off + n && off < r.base + 2 ^ (8 + r.cls)
  | _, _ => false

/-- n words of the own local memory, read as a load of the context reads them (R121, R197): from its store buffer when
that supplies every byte, else from memory once its stores there are performed; POISON at the first poisoned word. -/
def readOwn (off n : Nat) : M (List Word) := do
  let s ← get
  let key := localKey s.focusCore off
  match if s.fcore.sb.isEmpty then Forward.none else sbForward s.module s.focusCtx key s.fcore.sb (8 * n) with
  | .all v => return wordsOf v n
  | .part => block
  | .none =>
    holdUntil (!s.swapping s.focusCore off (8 * n))
    match s.firstPoison key n with
    | some k => trap cPOISON (ownForm (k - localKey s.focusCore 0))
    | none => return wordsOf (s.read key (8 * n)) n

/-! ## Engine translation (R77, R135) -/

/-- The number of an engine's walks. -/
def walkerOf : Eng → Nat | .cp0 => 16 | .cp1 => 17 | .mx => 18 | .cl => 19

/-- A translated access of the running operation of an engine of a core, or the KIND of its fault: 3 XLATE, 4 PERM; 0 while it
waits for a walk (R76). It uses the cluster's TLB; a page that is not there is walked, and one that an entry denies is walked
afresh from ptroot (R78). -/
def State.engineDest (s : State) (core : Nat) (n : Eng) (va : Word) (a : Access) : Except Nat Dest × State :=
  let ask (fresh : Bool) : Except Nat Dest × State := (.error 0, s.askWalk ⟨core, walkerOf n, va, a, fresh⟩)
  let given := match (s.engine core n).queue with | o :: _ => o.walked | [] => none
  if !(s.partAt core).ptEn then (.error 3, s)
  else match given with
    | some (page, k) =>
      if page = pageOf va then (.error k, s) else ask false
    | none => match tlbFind (s.pidOf core) va (s.clusterTlb core) with
      | some (e, big) => if permits e a then (.ok (leafDest e big va), s) else ask true
      | none => ask false

/-- Where a destination now lies: a copied line of a moving page has gone (R79). -/
def State.whereNow (s : State) (d : Dest) : Dest :=
  if d.module = s.module then
    let r := s.homeNow d.key
    { d with module := r.1, key := r.2 }
  else d

/-- The source of the flight that stands for an engine's access which a sleeping octet's router holds (R433). -/
def enginePlace (core : Nat) (n : Eng) : Nat :=
  40000 + 4 * core + match n with | .cp0 => 0 | .cp1 => 1 | .mx => 2 | .cl => 3

/-- How the work on one unit ends: the unit is done; there is more of it; it waits for a port, looks again, or waits for
what will take it up; or it fails with a KIND. -/
inductive Work where
  | moved (s : State)
  | more (s : State)
  | stall (s : State)
  | wait (s : State)
  | bad (kind : Nat) (s : State)

/-- A unit that has no translation: it waits for a walk, or fails. -/
def Work.untranslated (kind : Nat) (s : State) : Work := if kind = 0 then .wait s else .bad kind s

/-- An engine's access that reaches its home on the own module, or what becomes of it: a sleeping octet holds it, in the
order of arrival, as the event ev that takes the work up (R433, R434); an exchange of residents (R349) or a line on its way
(R79) makes it wait. A port that has stopped on network 0 lets it pass: it comes on network 2 (R92, R97, R100). -/
def State.engineGo (s : State) (core : Nat) (n : Eng) (ev : Event) (d : Dest) : Except Work State :=
  if d.module ≠ s.module then .ok s
  else if isDevice d.key then
    if s.lineAway d.key then .error (.stall s) else .ok (s.bufferMiss d.key)
  else
    let c := homePlace d.key
    let o := octetOf c
    let mine (f : Flight) : Bool := f.held && f.src == enginePlace core n
    if (s.octet o).power ≠ .active then
      if (s.octet o).held.any mine then .error (.wait s)
      else
        let f : Flight := ⟨enginePlace core n, c, 2, ev, [], true⟩
        .error (.wait ((s.modOctet o fun x => { x with held := x.held ++ [f] }).startWake o))
    else if s.flights.any mine then .error (.wait s)
    else if s.swapping c (d.key % 65536) 1 then .error (.stall s)
    else .ok (s.stirOctet o)

/-- The engines of a core may work: its partition runs and its octet is awake. -/
def State.enginesRun (s : State) (core : Nat) : Bool := s.coreRuns core

end Sys2Proof.Machine
end

