-- ==== Sys2Proof/Machine/Copy.lean ====
section
/-! DEFINITION. The copy channels: shape records and coordinate blocks (R123 to R131), the checks of R134 and R140, SHPCHK,
CPYIN, CPYOUT, CPYLL and CSTAT (R140 to R143), the channels' work (R118, R119, R131, R135) and copy commands (R122). -/

namespace Sys2Proof.Machine

/-! ## Shape records -/

/-- Word i of a record. -/
def recW (r : List Word) (i : Nat) : Word := r.getD i 0

/-- RANK. -/
def recRank (r : List Word) : Nat := bits (recW r 0) 2 0
/-- ESIZE. -/
def recEsize (r : List Word) : Nat := bits (recW r 0) 11 8
/-- PADMODE. -/
def recPad (r : List Word) : Nat := bits (recW r 0) 13 12
/-- SEAL. -/
def recSeal (r : List Word) : Nat := bits (recW r 0) 63 48
/-- STRIDE of a dimension. -/
def recStride (r : List Word) (d : Nat) : Int := (recW r (3 + 2 * d)).toInt
/-- EXTENT of a dimension. -/
def recExtent (r : List Word) (d : Nat) : Nat := bits (recW r (4 + 2 * d)) 31 0
/-- BOX of a dimension. -/
def recBox (r : List Word) (d : Nat) : Nat := bits (recW r (4 + 2 * d)) 47 32

/-- Unit bytes s of an ESIZE code (R126). -/
def unitBytes (code : Nat) : Nat :=
  if code < 4 then 2 ^ code else if code = 4 then 6 else if code = 5 then 10 else 16

/-- A BX element plane. -/
def recBx (r : List Word) : Bool := 4 ≤ recEsize r

/-- Units of a row: elements, or blocks of 16 (R129). -/
def rowUnits (r : List Word) : Nat := if recBx r then recBox r 0 / 16 else recBox r 0

/-- Row bytes (R129). -/
def rowBytes (r : List Word) : Nat := rowUnits r * unitBytes (recEsize r)

/-- The dimensions below RANK. -/
def recDims (r : List Word) : List Nat := List.range (recRank r)

/-- Rows of a box: the product of the boxes of the dimensions above the innermost. -/
def boxRows (r : List Word) : Nat := (recDims r).tail.foldl (fun n d => n * recBox r d) 1

/-- Box bytes (R129). -/
def boxBytes (r : List Word) : Nat := rowBytes r * boxRows r

/-- Units of a box. -/
def boxUnits (r : List Word) : Nat := rowUnits r * boxRows r

/-- The fold of R127 over the words of a record or map. -/
def foldWords : List Word → BitVec 16
  | [] => 0
  | w :: t => w.truncate 16 ^^^ (w >>> (16 : Nat)).truncate 16 ^^^ (w >>> (32 : Nat)).truncate 16
      ^^^ (w >>> (48 : Nat)).truncate 16 ^^^ foldWords t

/-- The fold of a record, SEAL taken as zero (R127). -/
def recFold (r : List Word) : BitVec 16 :=
  match r with
  | [] => 0
  | w :: t => foldWords ((w &&& 0x0000FFFFFFFFFFFF) :: t)

/-- The static check of a record: the lowest failing code of 2 to 12, or 0 (R140). -/
def shapeCode (r : List Word) : Nat :=
  let rank := recRank r
  let es := recEsize r
  let s := unitBytes es
  let dims := recDims r
  if rank = 0 ∨ 5 < rank then 2
  else if 6 < es then 3
  else if recPad r = 3 ∨ (recPad r = 1 ∧ 4 ≤ es) then 4
  else if recPad r = 1 ∧ s < 8 ∧ 256 ^ s ≤ (recW r 1).toNat then 5
  else if bits (recW r 0) 47 14 ≠ 0 ∨ bits (recW r 0) 7 3 ≠ 0 ∨ dims.any (fun d => bits (recW r (4 + 2 * d)) 63 48 != 0)
      ∨ ((List.range 16).drop (3 + 2 * rank)).any (fun i => recW r i != 0) then 6
  else if dims.any (fun d => recExtent r d == 0 || 0x7FFFFFFF < recExtent r d) then 7
  else if dims.any (fun d => recBox r d == 0) then 8
  else if (if es < 4 then dims.any (fun d => recStride r d % (s : Int) != 0)
      else recStride r 0 != 0 || dims.tail.any (fun d => recStride r d % 2 != 0)) then 9
  else if 4 ≤ es ∧ (recExtent r 0 % 16 ≠ 0 ∨ recBox r 0 % 16 ≠ 0) then 10
  else if rowBytes r % 8 ≠ 0 then 11
  else if 65536 < boxBytes r then 12
  else 0

/-- A sealed record (R127). -/
def recSealed (r : List Word) : Bool := recSeal r == (recFold r ^^^ 0x5A5A).toNat && shapeCode r == 0

/-! ## Coordinates and addresses -/

/-- Start of dimension d in a coordinate block (R128). -/
def crdStart (c : List Word) (d : Nat) : Int :=
  (BitVec.ofNat 32 ((recW c (d / 2)).toNat / 2 ^ (32 * (d % 2)))).toInt

/-- The box indices of a row number, from a dimension up. -/
def rowIndices (r : List Word) : List Nat → Nat → List Nat
  | [], _ => []
  | d :: t, n => n % recBox r d :: rowIndices r t (n / recBox r d)

/-- The array coordinates of unit u of the box (R129, R130): dimension 0 counts elements. -/
def coords (r c : List Word) (u : Nat) : List Int :=
  let b0 := u % rowUnits r * (if recBx r then 16 else 1)
  let idx := b0 :: rowIndices r (recDims r).tail (u / rowUnits r)
  (idx.zip (recDims r)).map fun p => crdStart c p.2 + (p.1 : Int)

/-- In bounds (R130). -/
def inBounds (r : List Word) (c : List Int) : Bool :=
  (c.zip (recDims r)).all fun p => decide (0 ≤ p.1) && decide (p.1 < recExtent r p.2)

/-- Coordinates clamped into the array (PADMODE 2). A BX block stays on a block boundary. -/
def clamped (r : List Word) (c : List Int) : List Int :=
  (c.zip (recDims r)).map fun p =>
    let top : Int := recExtent r p.2 - (if recBx r && p.2 == 0 then 16 else 1)
    if p.1 < 0 then 0 else if top < p.1 then top else p.1

/-- A signed 64-bit range (R131). -/
def signed64 (v : Int) : Bool := decide (-(2 ^ 63 : Int) ≤ v) && decide (v < 2 ^ 63)

/-- The byte offset of coordinates; none on OVERFLOW (R131). -/
def recOffset (r : List Word) : List (Int × Nat) → Int → Option Int
  | [], off => some off
  | (c, d) :: t, off =>
    let p := if d = 0 && recBx r then c / 16 * (unitBytes (recEsize r) : Int) else c * recStride r d
    if signed64 p && signed64 (off + p) then recOffset r t (off + p) else none

/-- Where a unit lies: a translated address, a byte of a core's local memory with the address in the form of BASE, or the
KIND of the fault: 1 OVERFLOW, 2 RANGE (R131). -/
inductive Place where
  | virt (a : Nat)
  | here (core off : Nat) (form : Word)
  | bad (kind : Nat)
  deriving DecidableEq, Repr

/-- R131's address of coordinates, for core in partition p. -/
def recPlace (p : Partition) (core : Nat) (r : List Word) (c : List Int) : Place :=
  let s := unitBytes (recEsize r)
  let base := recW r 2
  match recOffset r (c.zip (recDims r)) 0 with
  | none => .bad 1
  | some off =>
    if bits base 63 56 = 0 then
      let a : Int := (base.toNat : Int) + off
      if !signed64 a then .bad 1
      else if a < 0 ∨ (2 ^ 55 : Int) < a + s then .bad 2
      else .virt a.toNat
    else
      let o : Int := (bits base 15 0 : Int) + off
      if o < 0 ∨ 65536 < o + s then .bad 2
      else match coreForm p core base with
        | some (k, _) => .here k o.toNat (BitVec.ofNat 64 (base.toNat / 65536 * 65536 + o.toNat))
        | none => .bad 2

/-! ## Issue checks (R134) -/

/-- Codes 1 and 2: the addresses of the record and the coordinate block. -/
def cpyAddrCode (r c : Word) : Nat :=
  if (ownAligned r 128).isNone then 1 else if (ownAligned c 32).isNone then 2 else 0

/-- Codes 3 to 7, for core in partition p. -/
def cpyCode (p : Partition) (core : Nat) (l : Word) (r c : List Word) : Nat :=
  let sealed := recSealed r
  let base := recW r 2
  let s := unitBytes (recEsize r)
  match ownAligned l 8 with
  | none => 3
  | some o =>
    if sealed && decide (65536 < o + boxBytes r) then 3
    else if !sealed then 4
    else if !(if bits base 63 56 = 0 then !base.getLsbD 55 else (coreForm p core base).isSome) then 5
    else if base.toNat % (if recBx r then 2 else s) ≠ 0 then 6
    else if ((List.range 8).drop (recRank r)).any (fun d => crdStart c d != 0) || (recBx r && crdStart c 0 % 16 != 0) then 7
    else 0

/-- Codes 8 to 10 of CPYLL, for core in partition p, and the destination and source it names. -/
def cpyllCode (p : Partition) (core : Nat) (d s n : Word) : Nat :=
  match coreForm p core d, coreForm p core s with
  | some (dc, d'), some (sc, s') =>
    let n := n.toNat
    if d' % 8 ≠ 0 ∨ s' % 8 ≠ 0 then 8
    else if n = 0 ∨ n % 8 ≠ 0 ∨ 65536 < n ∨ 65536 < d' + n ∨ 65536 < s' + n then 9
    else if dc = sc ∧ d' < s' + n ∧ s' < d' + n then 10
    else 0
  | _, _ => 8

/-! ## Copy commands over network 2 (R122) -/

/-- The words of a core's local memory; the lowest poisoned one is none. -/
def State.localWords (s : State) (core off n : Nat) : Option (List Word) :=
  let key := localKey core off
  match s.firstPoison key n with
  | some _ => none
  | none => some (wordsOf (s.read key (8 * n)) n)

/-- The issue checks of a copy command for the core that owns the channel: the command, or the status that rejects it. A
record or coordinate block with a poisoned word rejects it with 0xFF (DESIGN CHOICE: R122 names no status; log entry 38). -/
def State.checkCommand (s : State) (owner : Nat) (m : Message) : Except Nat Cmd :=
  let w (i : Nat) : Word := m.payload.getD i 0
  let op := bits (w 0) 2 0
  let p := s.partAt owner
  if op = 0 ∨ 3 < op ∨ bits (w 0) 63 12 ≠ 0 ∨ bits (w 0) 7 4 ≠ 0 ∨ w 4 ≠ 0 ∨ w 5 ≠ 0 then .error 0xFF
  else if op = 3 then
    let code := cpyllCode p owner (w 1) (w 2) (w 3)
    if code = 0 then .ok (.cpyll (w 1) (w 2) (w 3).toNat) else .error code
  else
    let code := cpyAddrCode (w 2) (w 3)
    if code ≠ 0 then .error code
    else match s.localWords owner (bits (w 2) 15 0) 16, s.localWords owner (bits (w 3) 15 0) 4 with
      | some r, some c =>
        let code := cpyCode p owner (w 1) r c
        if code ≠ 0 then .error code
        else if op = 1 then .ok (.cpyin (bits (w 1) 15 0) r c) else .ok (.cpyout (bits (w 1) 15 0) r c)
      | _, _ => .error 0xFF

/-- The core that owns the channel a command names, and the channel. -/
def commandOwner (m : Message) : Nat × Eng :=
  let w := m.payload.getD 0 0
  (octetCore (octetOf m.dest) (bits w 10 8), if w.getLsbD 3 then .cp1 else .cp0)

/-- An exchange of residents holds words of the record or coordinate block that a command names (R349). -/
def State.commandSwaps (s : State) (owner : Nat) (m : Message) : Bool :=
  let w (i : Nat) : Word := m.payload.getD i 0
  let op := bits (w 0) 2 0
  (op == 1 || op == 2) && (cpyAddrCode (w 2) (w 3) == 0)
    && (s.swapping owner (bits (w 2) 15 0) 128 || s.swapping owner (bits (w 3) 15 0) 32)

/-- A copy command that its octet's engine takes up: rejected, or queued behind the commands of its channel; false while
the channel is full, or an exchange of residents holds what the command reads. -/
def State.takeCommand (s : State) (m : Message) : Bool × State :=
  let (owner, h) := commandOwner m
  if s.commandSwaps owner m then (false, s) else
  match s.checkCommand owner m with
  | .error code => (true, s.answerCommand owner m (BitVec.ofNat 64 code))
  | .ok cmd =>
    let g := s.engine owner h
    if !g.room then (false, s)
    else
      let o : Owner := ⟨0, 0, m.launch, m.side.tag, 0, true, m.side.path⟩
      let reply := if (m.payload.getD 0 0).getLsbD 11 then some (m.smod, senderOf m) else none
      let op := newOp (g.i + 1) o cmd [] [] (0, 0, 0) reply
      (true, (s.modEngine owner h fun g => { g with i := g.i + 1, queue := g.queue ++ [op] }).kickEngines owner)

/-- The commands that wait in an octet's engine inbox, those of a full channel kept in order. -/
def takeCommands : List Message → List (Nat × Eng) → State → List Message × State
  | [], _, s => ([], s)
  | m :: t, full, s =>
    if full.contains (commandOwner m) then
      let r := takeCommands t full s
      (m :: r.1, r.2)
    else match s.takeCommand m with
      | (true, s) => takeCommands t full s
      | (false, s) =>
        let r := takeCommands t (commandOwner m :: full) s
        (m :: r.1, r.2)

/-- An octet's engine looks at its inbox. -/
def State.engineInbox (s : State) (o : Nat) : State :=
  let l := (s.octet o).engInbox
  if l.isEmpty then s
  else
    let r := takeCommands l [] s
    r.2.modOctet o fun x => { x with engInbox := r.1 }

/-! ## The instructions -/

/-- The channel instruction's waits and feature. -/
def copyGate (i : Instr) : M Unit := needs .cpy i

/-- n words from a key. SHPCHK never traps (R140), and the spec says nothing of the value it reads from a poisoned word:
a free word. -/
def State.wordsFree (s : State) (key : Nat) : Nat → List Word × State
  | 0 => ([], s)
  | n + 1 =>
    let r := if s.poisoned key then s.drawWord else (s.word key, s)
    let t := r.2.wordsFree (key + 8) n
    (r.1 :: t.1, t.2)

/-- SHPCHK (R140). -/
def execShpchk (d a : Reg) (s : State) : Host.Outcome State Fault Refusal :=
  seq4 (do
    copyGate (.shpchk d a)
    let v ← readX a
    match ownAligned v 128 with
    | none => writeX d 1
    | some o =>
      engineWaits [0, 1]
      let s ← get
      let key := localKey s.focusCore o
      holdUntil (s.fcore.sb.isEmpty || sbForward s.module s.focusCtx key s.fcore.sb 128 == .none)
      holdUntil (!s.swapping s.focusCore o 128)
      let (r, s) := s.wordsFree key 16
      let code := shapeCode r
      let x := recFold r ^^^ (if code = 0 then 0x5A5A else 0xA5A5)
      set (s.storeBytes s.focusCore (key + 6) 2 (zext x))
      writeX d (BitVec.ofNat 64 code)) s

/-- CPYIN and CPYOUT at issue (R141). -/
def copyBox (i : Instr) (input : Bool) (h : Chan) (d a b c : Reg) : M Unit := do
  copyGate i
  let l ← readX a
  let r ← readX b
  let k ← readX c
  let code := cpyAddrCode r k
  if code ≠ 0 then trap cENGARG (BitVec.ofNat 64 code)
  engineWaits [2, 3]
  let rec' ← readOwn (bits r 15 0) 16
  let crd ← readOwn (bits k 15 0) 4
  let s ← get
  let code := cpyCode s.fpart s.focusCore l rec' crd
  if code ≠ 0 then trap cENGARG (BitVec.ofNat 64 code)
  holdUntil (s.fcore.engine (chanEng h)).room
  issueOp (chanEng h) d (if input then .cpyin (bits l 15 0) rec' crd else .cpyout (bits l 15 0) rec' crd)

/-- CPYIN (R141). -/
def execCpyin (h : Chan) (d a b c : Reg) (s : State) : Host.Outcome State Fault Refusal :=
  seq4 (copyBox (.cpyin h d a b c) true h d a b c) s

/-- CPYOUT (R141). -/
def execCpyout (h : Chan) (d a b c : Reg) (s : State) : Host.Outcome State Fault Refusal :=
  seq4 (copyBox (.cpyout h d a b c) false h d a b c) s

/-- CPYLL (R142). -/
def execCpyll (h : Chan) (d a b c : Reg) (s : State) : Host.Outcome State Fault Refusal :=
  seq4 (do
    copyGate (.cpyll h d a b c)
    let x ← readX a
    let y ← readX b
    let n ← readX c
    let s ← get
    let code := cpyllCode s.fpart s.focusCore x y n
    if code ≠ 0 then trap cENGARG (BitVec.ofNat 64 code)
    engineWaits [2, 3]
    holdUntil (s.fcore.engine (chanEng h)).room
    issueOp (chanEng h) d (.cpyll x y n.toNat)) s

/-- CSTAT (R143): the status, and the recovery of a halted channel (R135). -/
def execCstat (h : Chan) (d : Reg) (s : State) : Host.Outcome State Fault Refusal :=
  seq4 (do
    copyGate (.cstat h d)
    noLoad
    let s ← get
    let g := s.fcore.engine (chanEng h)
    set ((s.recover s.focusCore (chanEng h)).engineInbox (octetOf s.focusCore))
    writeX d g.status) s

/-! ## The channels at work -/

/-- The pieces of a unit of n bytes at a, those of each 64-byte line together: one access each (R137). -/
def lineParts (a n : Nat) : List (List (Nat × Nat)) :=
  let k := Nat.min n (64 - a % 64)
  if k = n then [pieces a 4 n] else [pieces a 4 k, pieces (a + k) 4 (n - k)]

/-- The destinations of a line's pieces, every check made before an access is issued (R135), or the KIND of the fault. -/
def State.piecesAt (s : State) (core : Nat) (h : Eng) (a : Access) : List (Nat × Nat) → Except Nat (List (Dest × Nat)) × State
  | [] => (.ok [], s)
  | (v, n) :: t =>
    match s.engineDest core h (BitVec.ofNat 64 v) a with
    | (.error k, s) => (.error k, s)
    | (.ok d, s) =>
      match s.piecesAt core h a t with
      | (.error k, s) => (.error k, s)
      | (.ok l, s) => (.ok ((s.whereNow d, n) :: l), s)

/-- The destinations of a unit's lines. -/
def State.linesAt (s : State) (core : Nat) (h : Eng) (a : Access) :
    List (List (Nat × Nat)) → Except Nat (List (List (Dest × Nat))) × State
  | [] => (.ok [], s)
  | p :: t =>
    match s.piecesAt core h a p with
    | (.error k, s) => (.error k, s)
    | (.ok l, s) =>
      match s.linesAt core h a t with
      | (.error k, s) => (.error k, s)
      | (.ok r, s) => (.ok (l :: r), s)

/-- The local destinations of n bytes at an offset of a core. -/
def State.localLines (s : State) (core off n : Nat) : List (List (Dest × Nat)) :=
  (lineParts off n).map fun l => l.map fun p => (⟨s.module, localKey core p.1, false, false⟩, p.2)

/-- The destinations of the unit at a place. -/
def State.unitAt (s : State) (core : Nat) (h : Eng) (n : Nat) (a : Access) :
    Place → Except Nat (List (List (Dest × Nat))) × State
  | .bad k => (.error k, s)
  | .virt v => s.linesAt core h a (lineParts v n)
  | .here k o _ => (.ok (s.localLines k o n), s)

/-- A value put together from its pieces, the lowest first. -/
def joinPieces : List (Nat × Word) → List (Dest × Nat) → Nat
  | (_, v) :: t, (_, n) :: r => v.toNat % 256 ^ n + 256 ^ n * joinPieces t r
  | _, _ => 0

/-- The lines of which pieces are still to be read, after n. -/
def unreadLines : Nat → List (List (Dest × Nat)) → List (List (Dest × Nat))
  | _, [] => []
  | n, l :: t => if l.length ≤ n then unreadLines (n - l.length) t else l :: t

/-- The bytes of a list of pieces. -/
def pieceBytes (l : List (Dest × Nat)) : Nat := (l.map fun p => p.2).sum

/-- The head of an engine context's queue changed. -/
def State.modOp (s : State) (core : Nat) (h : Eng) (f : EngOp → EngOp) : State := s.modEngine core h fun g => g.modHead f

/-- A unit's lines read, one access each, that of another module by a request (R137, R436); k goes on with the value of all,
after poison has been looked for. o holds what has come back. -/
def State.readLines (s : State) (core : Nat) (h : Eng) (ev : Event) (o : EngOp) (lines : List (List (Dest × Nat)))
    (k : State → Nat → Work) : Work :=
  let spoilt (l : List (Nat × Word)) : Bool := l.any fun g => g.1 == 0
  if spoilt o.snap then .bad 5 s
  else match unreadLines o.snap.length lines with
    | ((d, n) :: l) :: rest =>
      match s.engineGo core h ev d with
      | .error w => w
      | .ok s =>
        let w := n + pieceBytes l
        if d.module = s.module then
          let got := o.snap ++ answerParts (s.loadAt d.key w)
          let s := s.modOp core h fun o => { o with snap := got }
          if spoilt got then .bad 5 s
          else match rest with
            | [] => k s (joinPieces got lines.flatten)
            | _ :: _ => .more s
        else
          let (id, s) := s.fresh
          let s := s.modOp core h fun o => { o with posted := [id] }
          let who : Who := ⟨s.module, core, if h = .cp1 then 17 else 16, id⟩
          .wait (s.toModule d.module 0 (.load ⟨who, s.pidOf core, d.module, d.key, w, (s.partAt core).key⟩))
    | _ => k s (joinPieces o.snap lines.flatten)

/-- The store of one line's pieces of a value. -/
def lineStore (v : Nat) : List (Dest × Nat) → List (Nat × Nat × Word)
  | [] => []
  | (d, n) :: t => (d.key, n, BitVec.ofNat 64 (v % 256 ^ n)) :: lineStore (v / 256 ^ n) t

/-- One line of a unit written: on another module as a posted store whose acknowledgement the operation waits for (R119). -/
def State.writeLine (s : State) (core : Nat) (h : Eng) (d : Dest) (l : List (Nat × Nat × Word)) : State :=
  let op : StoreOp := match l with | [(k, n, v)] => .bytes k n v | _ => .block l
  if d.module = s.module then ((s.queueLine d.key).getD s).storeAt (homePlace d.key) d.key op
  else
    let (id, s) := s.fresh
    let s := s.modOp core h fun o => { o with posted := o.posted ++ [id] }
    s.toModule d.module 0 (.store ⟨.ctx ⟨s.module, core, 16, id⟩, core, s.pidOf core, 0, d.module, op, false, 0, (s.partAt core).key⟩)

/-- The unit done: folded into e as a write of n bytes at an address (R386), counted (R460), and passed. The spec gives a
unit wider than 8 bytes no 64-bit value to fold: a free value of it. -/
def State.unitDone (s : State) (core : Nat) (h : Eng) (fold' : Option (Word × Nat)) (n : Nat) : State :=
  let e (e : Word) : Word :=
    match fold' with
    | none => e
    | some (a, v) => foldStore e a (if n ≤ 8 then BitVec.ofNat 64 v else Config.wideValue n v) n 0 0
  (s.modOp core h fun o => { o with next := o.next + 1, snap := [], got := 0, e := e o.e }).count (octetOf core) 4 n

/-- A unit of n bytes written to its lines, one access each, and folded; o counts the lines written. -/
def State.writeLines (s : State) (core : Nat) (h : Eng) (ev : Event) (o : EngOp) (fold' : Option Word) (n v : Nat)
    (lines : List (List (Dest × Nat))) : Work :=
  match lines.drop o.got with
  | ((d, m) :: l) :: rest =>
    match s.engineGo core h ev d with
    | .error w => w
    | .ok s =>
      let before := pieceBytes (lines.take o.got).flatten
      let s := s.writeLine core h d (lineStore (v / 256 ^ before) ((d, m) :: l))
      match rest with
      | [] => .moved (s.unitDone core h (fold'.map fun a => (a, v)) n)
      | _ :: _ => .more (s.modOp core h fun o => { o with got := o.got + 1 })
  | _ => .moved (s.unitDone core h (fold'.map fun a => (a, v)) n)

/-- A unit skipped: nothing is accessed (R130). -/
def State.unitSkip (s : State) (core : Nat) (h : Eng) : State :=
  s.modEngine core h fun g => g.modHead fun o => { o with next := o.next + 1 }

/-- A write to the own local memory of a unit of CPYIN. -/
def State.landUnit (s : State) (core : Nat) (h : Eng) (ev : Event) (o : EngOp) (off n v : Nat) : Work :=
  s.writeLines core h ev o (some (ownForm off)) n v (s.localLines core off n)

/-- Unit u of a CPYIN (R130, R131, R141). -/
def State.inUnit (s : State) (core : Nat) (h : Eng) (ev : Event) (o : EngOp) (dst : Nat) (r c : List Word) : Work :=
  let u := o.next
  let n := unitBytes (recEsize r)
  let at' := coords r c u
  let inside := inBounds r at'
  let off := dst + u * n
  if !inside && recPad r = 0 then s.landUnit core h ev o off n 0
  else if !inside && recPad r = 1 then s.landUnit core h ev o off n ((recW r 1).toNat % 256 ^ n)
  else
    match s.unitAt core h n .read (recPlace (s.partAt core) core r (if inside then at' else clamped r at')) with
    | (.error k, s) => .untranslated k s
    | (.ok l, s) => s.readLines core h ev o l fun s v => s.landUnit core h ev o off n v

/-- The address of a unit in the form of BASE (R386). -/
def placeWord' : Place → Word
  | .virt a => BitVec.ofNat 64 a
  | .here _ _ f => f
  | .bad _ => 0

/-- Unit u of a CPYOUT (R130, R131, R141). -/
def State.outUnit (s : State) (core : Nat) (h : Eng) (ev : Event) (o : EngOp) (src : Nat) (r c : List Word) : Work :=
  let u := o.next
  let n := unitBytes (recEsize r)
  let at' := coords r c u
  if !inBounds r at' then .moved (s.unitSkip core h)
  else
    let place := recPlace (s.partAt core) core r at'
    match s.unitAt core h n .write place with
    | (.error k, s) => .untranslated k s
    | (.ok l, s) =>
      s.readLines core h ev o (s.localLines core (src + u * n) n) fun s v =>
        let exempt := l.flatten.any fun p => p.1.exempt
        s.writeLines core h ev o (if exempt then none else some (placeWord' place)) n v l

/-- Word u of a CPYLL (R142). -/
def State.llUnit (s : State) (core : Nat) (h : Eng) (ev : Event) (o : EngOp) (dst src : Word) : Work :=
  let p := s.partAt core
  match coreForm p core dst, coreForm p core src with
  | some (dc, d), some (sc, x) =>
    s.readLines core h ev o (s.localLines sc (x + 8 * o.next) 8) fun s v =>
      s.writeLines core h ev o (some (dst + BitVec.ofNat 64 (8 * o.next))) 8 v (s.localLines dc (d + 8 * o.next) 8)
  | _, _ => .bad 2 s

/-- The units of a channel's operation. -/
def opUnits : Cmd → Nat
  | .cpyin _ r _ => boxUnits r
  | .cpyout _ r _ => boxUnits r
  | .cpyll _ _ n => n / 8
  | _ => 0

/-- The element index of unit u (R129; for CPYLL the word's, R135). -/
def unitIndex (c : Cmd) (u : Nat) : Nat :=
  match c with
  | .cpyin _ r _ => if recBx r then 16 * u else u
  | .cpyout _ r _ => if recBx r then 16 * u else u
  | _ => u

/-- The next unit of a channel's running operation, the work to be taken up by the event ev. -/
def State.nextUnit (s : State) (core : Nat) (h : Eng) (ev : Event) (o : EngOp) : Work :=
  match o.cmd with
  | .cpyin d r c => s.inUnit core h ev o d r c
  | .cpyout d r c => s.outUnit core h ev o d r c
  | .cpyll d x _ => s.llUnit core h ev o d x
  | _ => .moved (s.unitSkip core h)

/-- The end of a stretch of work: complete once every unit is performed and acknowledged (R119), or more to do. -/
def State.afterUnits (s : State) (core : Nat) (h : Eng) (n : Nat) : State :=
  match (s.engine core h).queue with
  | [] => s
  | o :: _ =>
    if o.next < opUnits o.cmd then
      s.flyOnce (octetPlace (octetOf core)) core 2 (.channelOperationComplete core (engChan h) n)
    else
      let s := s.modEngine core h fun g => g.modHead fun o => { o with read := true }
      if o.posted.isEmpty then s.finishOp core h o else s

/-- An operation stands inside a unit: some of it has been read or written. -/
def EngOp.midUnit (o : EngOp) : Bool := !o.snap.isEmpty || o.got != 0

/-- A channel may go on with an operation: its partition runs and its octet is awake, or pre-emption waits for the end of its
unit (R138). -/
def State.channelGoes (s : State) (core : Nat) (o : EngOp) : Bool :=
  s.enginesRun core || (o.midUnit && s.coreLives core)

/-- Up to k units of the running operation of a channel (R118, R131, R135), in a stretch asked for as n. -/
def State.channelWork (s : State) (core : Nat) (h : Eng) (n : Nat) : Nat → State
  | 0 => s.afterUnits core h n
  | k + 1 =>
    let g := s.engine core h
    match g.queue with
    | [] => s
    | o :: _ =>
      if !o.started || g.barred o.num || !o.posted.isEmpty || !s.channelGoes core o then s
      else if opUnits o.cmd ≤ o.next then s.afterUnits core h n
      else
        let ev := Event.channelOperationComplete core (engChan h) n
        match s.nextUnit core h ev o with
        | .moved s => s.channelWork core h n k
        | .more s => s.flyOnce (octetPlace (octetOf core)) core 2 ev
        | .stall s => s.armIn 1 ev
        | .wait s => s
        | .bad kind s =>
          s.flyOnce (octetPlace (octetOf core)) core 2 (.engineFault core h kind ⟨o.num, unitIndex o.cmd o.next⟩)

/-- The rest of a unit of which a line is written, at most n accesses. -/
def State.writeOn (s : State) (core : Nat) (h : Eng) : Nat → State
  | 0 => s
  | n + 1 =>
    match (s.engine core h).queue with
    | [] => s
    | o :: _ =>
      if o.got = 0 then s
      else match s.nextUnit core h (.channelOperationComplete core (engChan h) 1) o with
        | .moved s => s
        | .more s => s.writeOn core h n
        | .stall s | .wait s | .bad _ s => s

/-- A channel's running operation that is to be dropped stops at an element boundary (R136): a unit of which a line is
written is written whole. -/
def State.endUnit (s : State) (core : Nat) (h : Eng) (pick : EngOp → Bool) : State :=
  match (s.engine core h).queue with
  | o :: _ => if pick o && o.started then s.writeOn core h 4 else s
  | [] => s

/-- CHANNEL_OPERATION_START (R118, R120): the oldest operation starts when the stores before it are performed; a running
one whose answer has come goes on. -/
def execChannelOperationStart (core : Nat) (h : Chan) (s : State) : Host.Outcome State Fault Refusal :=
  change (fun s =>
    let e := chanEng h
    let g := s.engine core e
    match g.queue with
    | [] => s
    | o :: _ =>
      if g.barred o.num || !(o.stores.isEmpty && o.posted.isEmpty) || !s.channelGoes core o then s
      else
        let s := s.modEngine core e fun g => g.modHead fun o => { o with started := true }
        s.flyOnce (octetPlace (octetOf core)) core 2 (.channelOperationComplete core h (opUnits o.cmd))) s

/-- CHANNEL_OPERATION_COMPLETE (R119): up to n elements of the running operation, in box order, and its completion. -/
def execChannelOperationComplete (core : Nat) (h : Chan) (n : Nat) (s : State) : Host.Outcome State Fault Refusal :=
  change (fun s => (s.channelWork core (chanEng h) n n).engineInbox (octetOf core)) s

/-- ENGINE_FAULT (R135): the context of the operation halts, if it still runs, and the sender of a copy command learns of it
(R122). -/
def execEngineFault (core : Nat) (e : Eng) (kind : Nat) (op : OpPlace) (s : State) : Host.Outcome State Fault Refusal :=
  change (fun s =>
    let g := s.engine core e
    match g.queue with
    | [] => s
    | o :: _ =>
      if !o.started || o.num != op.num then s else s.haltOp core e kind op.eidx o) s

/-- COPY_COMMAND (R122): accepted into the engine's inbox, and taken up there in order. -/
def execCopyCommand (m : Message) (s : State) : Host.Outcome State Fault Refusal :=
  change (fun s =>
    match s.heldBack m.dest (s.msgPid m) (.copyCommand m) with
    | some t => t
    | none =>
      if s.keyOk m.dest m then
        let s := (s.modOctet (octetOf m.dest) fun x => { x with engInbox := x.engInbox ++ [m] }).accepted m
        s.engineInbox (octetOf m.dest)
      else s.contain m.dest m) s

end Sys2Proof.Machine
end

