-- ==== Sys2Proof/Machine/Flags.lean ====
section
/-! DEFINITION. Number formats, exceptions and rounding (R225 to R239): every value is unpacked to an exact sign,
magnitude and exponent, computed exactly, and rounded once. -/

namespace Sys2Proof.Machine

/-! ## Exceptions (R229, R249) -/

/-- The accrued exception bits of fcsr: IV 0, ZD 1, OV 2, UN 3, IX 4. -/
abbrev Exc := BitVec 5

def excIV : Exc := 0x01
def excZD : Exc := 0x02
def excOV : Exc := 0x04
def excUN : Exc := 0x08
def excIX : Exc := 0x10

/-- An exception raised under a condition. -/
def excIf (b : Bool) (e : Exc) : Exc := if b then e else 0

/-! ## Formats (R226) -/

/-- A binary format: exponent bits and fraction bits. -/
structure Fmt where
  eb : Nat
  fb : Nat
  deriving DecidableEq, Repr

def fmtH : Fmt := ⟨5, 10⟩
def fmtBf : Fmt := ⟨8, 7⟩
def fmtS : Fmt := ⟨8, 23⟩
def fmtD : Fmt := ⟨11, 52⟩

/-- The exponent bias. -/
def Fmt.bias (f : Fmt) : Nat := 2 ^ (f.eb - 1) - 1

/-- The width in bits. -/
def Fmt.width (f : Fmt) : Nat := 1 + f.eb + f.fb

/-- The exponent of the smallest normal. -/
def Fmt.emin (f : Fmt) : Int := 1 - (f.bias : Int)

/-- The exponent of the largest finite value. -/
def Fmt.emax (f : Fmt) : Int := f.bias

/-- The canonical NaN (R226, R227). -/
def Fmt.nan (f : Fmt) : Nat := (2 ^ f.eb - 1) * 2 ^ f.fb + 2 ^ (f.fb - 1)

/-- Infinity of a sign. -/
def Fmt.inf (f : Fmt) (s : Bool) : Nat := (if s then 2 ^ (f.eb + f.fb) else 0) + (2 ^ f.eb - 1) * 2 ^ f.fb

/-- The largest finite value of a sign. -/
def Fmt.big (f : Fmt) (s : Bool) : Nat := f.inf s - 1

/-- Zero of a sign. -/
def Fmt.zero (f : Fmt) (s : Bool) : Nat := if s then 2 ^ (f.eb + f.fb) else 0

/-- A value: NaN (signalling or not), infinity, or (−1)^s × m × 2^e exactly. -/
inductive FVal where
  | nan (sig : Bool)
  | inf (s : Bool)
  | fin (s : Bool) (m : Nat) (e : Int)
  deriving DecidableEq, Repr

/-- The value of a bit pattern (R226). -/
def Fmt.val (f : Fmt) (b : Nat) : FVal :=
  let s := b / 2 ^ (f.eb + f.fb) % 2 == 1
  let e := b / 2 ^ f.fb % 2 ^ f.eb
  let m := b % 2 ^ f.fb
  if e = 2 ^ f.eb - 1 then (if m = 0 then .inf s else .nan (m < 2 ^ (f.fb - 1)))
  else if e = 0 then .fin s m (f.emin - f.fb)
  else .fin s (2 ^ f.fb + m) ((e : Int) - f.bias - f.fb)

/-- The sign of a value; a NaN has none. -/
def FVal.sign : FVal → Bool
  | .nan _ => false
  | .inf s => s
  | .fin s _ _ => s

def FVal.isNan : FVal → Bool
  | .nan _ => true
  | _ => false

/-- A signalling NaN. -/
def FVal.isSig : FVal → Bool
  | .nan b => b
  | _ => false

/-- The value with its sign inverted. -/
def FVal.neg : FVal → FVal
  | .nan b => .nan b
  | .inf s => .inf !s
  | .fin s m e => .fin (!s) m e

/-! ## Rounding (R228, R230) -/

/-- The five rounding modes. -/
inductive RMode where | rne | rtz | rdn | rup | rmm
  deriving DecidableEq, Repr

/-- The mode of a value of FRM (R249). -/
def frmMode (v : BitVec 3) : RMode :=
  if v = 1 then .rtz else if v = 2 then .rdn else if v = 3 then .rup else if v = 4 then .rmm else .rne

/-- Whether a magnitude with an integer part and a remainder of sh bits rounds up in magnitude. -/
def roundsUp (r : RMode) (s : Bool) (m sh : Nat) : Bool :=
  let q := m / 2 ^ sh
  let rem := m % 2 ^ sh
  match r with
  | .rne => 2 ^ sh < 2 * rem || (2 * rem == 2 ^ sh && q % 2 == 1)
  | .rtz => false
  | .rdn => s && rem != 0
  | .rup => !s && rem != 0
  | .rmm => 2 ^ sh ≤ 2 * rem && rem != 0

/-- A magnitude m × 2^e rounded to a multiple of 2^q: the multiple, and whether it differs. -/
def roundMul (r : RMode) (s : Bool) (m : Nat) (e q : Int) : Nat × Bool :=
  if q ≤ e then (m * 2 ^ (e - q).toNat, false)
  else
    let sh := (q - e).toNat
    (m / 2 ^ sh + (if roundsUp r s m sh then 1 else 0), m % 2 ^ sh != 0)

/-- What an overflowing result becomes (R228). -/
def overflowTo (f : Fmt) (r : RMode) (s : Bool) : Nat :=
  match r with
  | .rne | .rmm => f.inf s
  | .rtz => f.big s
  | .rdn => if s then f.inf s else f.big s
  | .rup => if s then f.big s else f.inf s

/-- The exponent of the leading bit of m × 2^e, m not zero. -/
def leadExp (m : Nat) (e : Int) : Int := e + Nat.log2 m

/-- (−1)^s × m × 2^e rounded to a format under a mode, with the exceptions (R228, R229). -/
def roundTo (f : Fmt) (r : RMode) (s : Bool) (m : Nat) (e : Int) : Nat × Exc :=
  if m = 0 then (f.zero s, 0)
  else
    let le := leadExp m e
    let q := (if le < f.emin then f.emin else le) - f.fb
    let (n, ix) := roundMul r s m e q
    let (n, q) := if n = 2 ^ (f.fb + 1) then (n / 2, q + 1) else (n, q)
    if 2 ^ f.fb ≤ n ∧ f.emax < q + f.fb then (overflowTo f r s, excOV ||| excIX)
    else
      let tiny := le < f.emin &&
        !(le + 1 == f.emin && (roundMul r s m e (le - f.fb)).1 == 2 ^ (f.fb + 1))
      let bits := if n < 2 ^ f.fb then n else (q + f.fb + f.bias).toNat * 2 ^ f.fb + (n - 2 ^ f.fb)
      (f.zero s + bits, excIf ix excIX ||| excIf (tiny && ix) excUN)

/-- A value rounded to a format (R227, R228). -/
def FVal.to (f : Fmt) (r : RMode) : FVal → Nat × Exc
  | .nan b => (f.nan, excIf b excIV)
  | .inf s => (f.inf s, 0)
  | .fin s m e => roundTo f r s m e

/-- The integer nearest to a value under a mode, between lo and hi, with the exceptions (R229, R230): a bound delivered for
a value beyond it is invalid, and differs from the exact result. -/
def FVal.toInt (r : RMode) (lo hi : Int) : FVal → Int × Exc
  | .nan _ => (0, excIV)
  | .inf s => (if s then lo else hi, excIV ||| excIX)
  | .fin s m e =>
    let (n, ix) := roundMul r s m e 0
    let v : Int := if s then -(n : Int) else n
    if v < lo then (lo, excIV ||| excIX) else if hi < v then (hi, excIV ||| excIX) else (v, excIf ix excIX)

/-- An integer as a value. -/
def intVal (v : Int) : FVal := .fin (v < 0) v.natAbs 0

/-! ## Arithmetic on values -/

/-- A signed magnitude. -/
def signedMag (s : Bool) (m : Nat) : Int := if s then -(m : Int) else m

/-- The exact sum of two finite values: the sign of an exact zero is that of R228. -/
def addFin (r : RMode) (sa : Bool) (ma : Nat) (ea : Int) (sb : Bool) (mb : Nat) (eb : Int) : FVal :=
  let e := if ea ≤ eb then ea else eb
  let v := signedMag sa (ma * 2 ^ (ea - e).toNat) + signedMag sb (mb * 2 ^ (eb - e).toNat)
  if v = 0 then .fin (if sa = sb then sa else r = .rdn) 0 e
  else .fin (v < 0) v.natAbs e

/-- The exact sum, with invalid (R229). -/
def FVal.add (r : RMode) (a b : FVal) : FVal × Exc :=
  let iv := excIf (a.isSig || b.isSig) excIV
  match a, b with
  | .nan _, _ => (.nan false, iv)
  | _, .nan _ => (.nan false, iv)
  | .inf s, .inf t => if s = t then (.inf s, 0) else (.nan false, excIV)
  | .inf s, _ => (.inf s, 0)
  | _, .inf t => (.inf t, 0)
  | .fin sa ma ea, .fin sb mb eb => (addFin r sa ma ea sb mb eb, 0)

/-- The exact product, with invalid. -/
def FVal.mul (a b : FVal) : FVal × Exc :=
  let iv := excIf (a.isSig || b.isSig) excIV
  match a, b with
  | .nan _, _ => (.nan false, iv)
  | _, .nan _ => (.nan false, iv)
  | .inf s, .inf t => (.inf (s ^^ t), 0)
  | .inf s, .fin t m _ => if m = 0 then (.nan false, excIV) else (.inf (s ^^ t), 0)
  | .fin s m _, .inf t => if m = 0 then (.nan false, excIV) else (.inf (s ^^ t), 0)
  | .fin s m e, .fin t n g => (.fin (s ^^ t) (m * n) (e + g), 0)

/-- a × b + c, exact (R253): 0 × ∞ is invalid even with a NaN addend. -/
def FVal.fma (r : RMode) (a b c : FVal) : FVal × Exc :=
  let p := a.mul b
  let q := p.1.add r c
  (q.1, p.2 ||| q.2)

/-- A quotient of magnitudes to at least k bits, its last bit sticky: m/n = q × 2^e. -/
def quotMag (k m n : Nat) : Nat × Int :=
  let sh := k + Nat.log2 n + 1
  let num := m * 2 ^ sh
  (2 * (num / n) + (if num % n = 0 then 0 else 1), -((sh : Int) + 1))

/-- The quotient, with enough bits that one rounding follows exactly. -/
def FVal.div (f : Fmt) (a b : FVal) : FVal × Exc :=
  let iv := excIf (a.isSig || b.isSig) excIV
  match a, b with
  | .nan _, _ => (.nan false, iv)
  | _, .nan _ => (.nan false, iv)
  | .inf _, .inf _ => (.nan false, excIV)
  | .inf s, .fin t _ _ => (.inf (s ^^ t), 0)
  | .fin s _ _, .inf t => (.fin (s ^^ t) 0 0, 0)
  | .fin s m e, .fin t n g =>
    if n = 0 then (if m = 0 then (.nan false, excIV) else (.inf (s ^^ t), excZD))
    else if m = 0 then (.fin (s ^^ t) 0 0, 0)
    else
      let (q, x) := quotMag (f.fb + 4) m n
      (.fin (s ^^ t) q (e - g + x), 0)

/-- The integer square root, by bits from the k-th down. -/
def isqrt (n : Nat) : Nat → Nat → Nat
  | 0, r => r
  | k + 1, r => isqrt n k (if (r + 2 ^ k) * (r + 2 ^ k) ≤ n then r + 2 ^ k else r)

/-- The square root, with enough bits that one rounding follows exactly (R252). -/
def FVal.sqrt (f : Fmt) : FVal → FVal × Exc
  | .nan b => (.nan false, excIf b excIV)
  | .inf s => if s then (.nan false, excIV) else (.inf false, 0)
  | .fin s m e =>
    if m = 0 then (.fin s 0 0, 0)
    else if s then (.nan false, excIV)
    else
      let k := 2 * (f.fb + 4)
      let (m, e) := if e % 2 = 0 then (m * 2 ^ k, e - k) else (m * 2 ^ (k + 1), e - k - 1)
      let r := isqrt m (Nat.log2 m / 2 + 1) 0
      (.fin false (2 * r + (if r * r = m then 0 else 1)) (e / 2 - 1), 0)

/-- a < b of two values that are no NaN; −0 equals +0. -/
def FVal.lt (a b : FVal) : Bool :=
  match a, b with
  | .nan _, _ => false
  | _, .nan _ => false
  | .inf s, .inf t => s && !t
  | .inf s, .fin _ _ _ => s
  | .fin _ _ _, .inf t => !t
  | .fin sa ma ea, .fin sb mb eb =>
    let e := if ea ≤ eb then ea else eb
    signedMag sa (ma * 2 ^ (ea - e).toNat) < signedMag sb (mb * 2 ^ (eb - e).toNat)

/-- Two values that are no NaN are equal. -/
def FVal.eqv (a b : FVal) : Bool := !a.isNan && !b.isNan && !a.lt b && !b.lt a

/-! ## Operations on bit patterns of a format (R252 to R256) -/

/-- An exact result rounded, with the exceptions of both. -/
def finish (f : Fmt) (r : RMode) (v : FVal × Exc) : Nat × Exc :=
  let q := v.1.to f r
  (q.1, v.2 ||| q.2)

def fAdd (f : Fmt) (r : RMode) (a b : Nat) : Nat × Exc := finish f r ((f.val a).add r (f.val b))
def fSub (f : Fmt) (r : RMode) (a b : Nat) : Nat × Exc := finish f r ((f.val a).add r (f.val b).neg)
def fMul (f : Fmt) (r : RMode) (a b : Nat) : Nat × Exc := finish f r ((f.val a).mul (f.val b))
def fDiv (f : Fmt) (r : RMode) (a b : Nat) : Nat × Exc := finish f r ((f.val a).div f (f.val b))
def fSqrt (f : Fmt) (r : RMode) (a : Nat) : Nat × Exc := finish f r ((f.val a).sqrt f)

/-- a × b + c with the product or the addend negated, rounded once (R253). -/
def fFma (f : Fmt) (r : RMode) (np nc : Bool) (a b c : Nat) : Nat × Exc :=
  let va := if np then (f.val a).neg else f.val a
  let vc := if nc then (f.val c).neg else f.val c
  finish f r (va.fma r (f.val b) vc)

/-- Whether pattern a is the smaller, −0 below +0. -/
def fBelow (f : Fmt) (a b : Nat) : Bool :=
  let x := f.val a
  let y := f.val b
  x.lt y || (!y.lt x && x.sign && !y.sign)

/-- FMIN (R252). -/
def fMin (f : Fmt) (a b : Nat) : Nat × Exc :=
  let x := f.val a
  let y := f.val b
  (if x.isNan then (if y.isNan then f.nan else b) else if y.isNan then a else if fBelow f b a then b else a,
    excIf (x.isSig || y.isSig) excIV)

/-- FMAX (R252). -/
def fMax (f : Fmt) (a b : Nat) : Nat × Exc :=
  let x := f.val a
  let y := f.val b
  (if x.isNan then (if y.isNan then f.nan else b) else if y.isNan then a else if fBelow f a b then b else a,
    excIf (x.isSig || y.isSig) excIV)

/-- A pattern's sign bit. -/
def Fmt.signBit (f : Fmt) (a : Nat) : Bool := a / 2 ^ (f.eb + f.fb) % 2 == 1

/-- A pattern with a given sign bit. -/
def Fmt.withSign (f : Fmt) (a : Nat) (s : Bool) : Nat := a % 2 ^ (f.eb + f.fb) + f.zero s

/-- FEQ (R252). -/
def fEq (f : Fmt) (a b : Nat) : Bool × Exc :=
  ((f.val a).eqv (f.val b), excIf ((f.val a).isSig || (f.val b).isSig) excIV)

/-- FLT (R252). -/
def fLt (f : Fmt) (a b : Nat) : Bool × Exc :=
  ((f.val a).lt (f.val b), excIf ((f.val a).isNan || (f.val b).isNan) excIV)

/-- FLE (R252). -/
def fLe (f : Fmt) (a b : Nat) : Bool × Exc :=
  ((f.val a).lt (f.val b) || (f.val a).eqv (f.val b), excIf ((f.val a).isNan || (f.val b).isNan) excIV)

/-- FCLASS's code (R252). -/
def fClass (f : Fmt) (a : Nat) : Nat :=
  let code := match f.val a with
    | .nan b => if b then 5 else 4
    | .inf _ => 3
    | .fin _ m _ => if m = 0 then 0 else if m < 2 ^ f.fb then 1 else 2
  code + if f.signBit a then 8 else 0

/-- FRCPE (R255). -/
def fRcpe (f : Fmt) (a : Nat) : Nat × Exc :=
  match f.val a with
  | .nan b => (f.nan, excIf b excIV)
  | .inf s => (f.zero s, 0)
  | .fin s m e =>
    if m = 0 then (f.inf s, excZD)
    else
      let l := Nat.log2 m
      let le := e + l
      let i := m * 256 / 2 ^ l - 256
      let j := 262144 / (513 + 2 * i) - 256
      if f.emax < -le - 1 then (f.inf s, excOV ||| excIX)
      else ((roundTo f .rne s (256 + j) (-le - 9)).1, 0)

/-- FRSQE (R256). -/
def fRsqe (f : Fmt) (a : Nat) : Nat × Exc :=
  match f.val a with
  | .nan b => (f.nan, excIf b excIV)
  | .inf s => if s then (f.nan, excIV) else (f.zero false, 0)
  | .fin s m e =>
    if m = 0 then (f.inf s, excZD)
    else if s then (f.nan, excIV)
    else
      let l := Nat.log2 m
      let le := e + l
      let p := (le % 2).toNat
      let k := m * 128 / 2 ^ l - 128
      let j := isqrt (67108864 / (2 ^ p * (257 + 2 * k))) 10 0 - 256
      ((roundTo f .rne false (256 + j) (-((le - p) / 2) - 9)).1, 0)

/-- A pattern of one format converted to another (R230). -/
def fConv (f g : Fmt) (r : RMode) (a : Nat) : Nat × Exc := (f.val a).to g r

/-! ## OFP8 (R231, R232) -/

/-- The value of an E4M3 code. -/
def e4m3Val (b : Nat) : FVal :=
  if b % 128 = 127 then .nan false else
    let s := b / 128 % 2 == 1
    let e := b / 8 % 16
    if e = 0 then .fin s (b % 8) (-9) else .fin s (8 + b % 8) ((e : Int) - 10)

/-- The value of an E5M2 code; a signalling code is a NaN as any other (R232). -/
def e5m2Val (b : Nat) : FVal :=
  match (⟨5, 2⟩ : Fmt).val b with
  | .nan _ => .nan false
  | v => v

/-- A value rounded into a small float with RNE and saturated at max = big × 2^q (R232, R235): the code without its sign,
and the exceptions. emin and fb are the format's. -/
def satRound (fb : Nat) (emin : Int) (bias : Nat) (maxCode : Nat) (s : Bool) (m : Nat) (e : Int) : Nat × Exc :=
  if m = 0 then (0, 0)
  else
    let le := leadExp m e
    let q := (if le < emin then emin else le) - fb
    let (n, ix) := roundMul .rne s m e q
    let (n, q) := if n = 2 ^ (fb + 1) then (n / 2, q + 1) else (n, q)
    let code := if n < 2 ^ fb then n else (q + fb + bias).toNat * 2 ^ fb + (n - 2 ^ fb)
    if maxCode < code then (maxCode, excOV ||| excIX)
    else
      let tiny := le < emin && !(le + 1 == emin && (roundMul .rne s m e (le - fb)).1 == 2 ^ (fb + 1))
      (code, excIf ix excIX ||| excIf (tiny && ix) excUN)

/-- A value converted into E4M3 (R232). -/
def toE4m3 : FVal → Nat × Exc
  | .nan _ => (0x7F, excIV)
  | .inf s => ((if s then 0x80 else 0) + 0x7E, excIX)
  | .fin s m e => let r := satRound 3 (-6) 7 0x7E s m e; ((if s then 0x80 else 0) + r.1, r.2)

/-- A value converted into E5M2 (R232). -/
def toE5m2 : FVal → Nat × Exc
  | .nan _ => (0x7E, excIV)
  | .inf s => ((if s then 0x80 else 0) + 0x7B, excIX)
  | .fin s m e => let r := satRound 2 (-14) 15 0x7B s m e; ((if s then 0x80 else 0) + r.1, r.2)

/-! ## BX blocks (R237 to R239) -/

/-- The magnitude bits M of a BX format. -/
def bxM : BxFmt → Nat
  | .bx2 => 2 | .bx4 => 4 | .bx7 => 7

/-- Whether a finite value's magnitude is below 2^x. -/
def belowPow (v : FVal) (x : Int) : Bool :=
  match v with
  | .fin _ m e => m == 0 || leadExp m e < x
  | _ => false

/-- A value that is an infinity or NaN. -/
def FVal.wild : FVal → Bool
  | .fin _ _ _ => false
  | _ => true

/-- A finite value that is zero. -/
def FVal.isZero : FVal → Bool
  | .fin _ m _ => m == 0
  | _ => false

/-- The largest leading exponent of the values that are not zero. -/
def topExp : List FVal → Option Int
  | [] => none
  | .fin _ m e :: t => if m = 0 then topExp t else
      match topExp t with
      | some x => some (if x < leadExp m e then leadExp m e else x)
      | none => some (leadExp m e)
  | _ :: t => topExp t

/-- The field of one BX element for a unit of 2^u (R239). -/
def bxField (mb : Nat) (u : Int) : FVal → Nat
  | .fin s m e =>
    let q := (roundMul .rne false m e u).1
    let g := if 2 ^ mb - 1 < q then 2 ^ mb - 1 else q
    g + if s && g != 0 then 2 ^ mb else 0
  | _ => 0

/-- Fields of a width packed as a little-endian bit string (R225). -/
def packBits (w : Nat) : List Nat → Nat
  | [] => 0
  | x :: t => x % 2 ^ w + 2 ^ w * packBits w t

/-- n fields of a width of a bit string. -/
def unpackBits (w v : Nat) : Nat → List Nat
  | 0 => []
  | n + 1 => v % 2 ^ w :: unpackBits w (v / 2 ^ w) n

/-- μ of the pairs of a block (R239). -/
def bxMus (x : Int) : List FVal → List Nat
  | a :: b :: t => (if belowPow a x && belowPow b x then 1 else 0) :: bxMus x t
  | _ => []

/-- The element fields of a block by pairs. -/
def bxFields (mb : Nat) (base : Int) : List FVal → List Nat → List Nat
  | a :: b :: t, mu :: mus =>
    let u := base - (mu : Int) - ((mb : Int) - 1)
    bxField mb u a :: bxField mb u b :: bxFields mb base t mus
  | _, _ => []

/-- Sixteen values quantised into a block: the element plane, and the scale word (R239). -/
def bxQuant (mb : Nat) (l : List FVal) : Nat × Nat :=
  if l.any FVal.wild then (0, 0xFF)
  else match topExp l with
    | none => (0, 0)
    | some x =>
      let e := if x + 127 < 0 then 0 else if 254 < x + 127 then 254 else (x + 127).toNat
      let mus := bxMus ((e : Int) - 127) l
      (packBits (mb + 1) (bxFields mb ((e : Int) - 127) l mus), e + 256 * packBits 1 mus)

/-- The value of element i of a block (R238). -/
def bxVal (mb plane scale i : Nat) : FVal :=
  let field := plane / 2 ^ ((mb + 1) * i) % 2 ^ (mb + 1)
  let e := scale % 256
  let mu := scale / 256 / 2 ^ (i / 2) % 2
  let mag := field % 2 ^ mb
  if e = 0xFF then .nan false
  else .fin (mag != 0 && field / 2 ^ mb == 1) mag ((e : Int) - 127 - mu - ((mb : Int) - 1))

end Sys2Proof.Machine
end

