-- ==== Sys2Proof/Machine/Group.lean ====
section
/-! DEFINITION. Groups and barriers: the group entry at its home and its updates, GJOIN, GLEAVE, GINFO, GARR, and the
arrivals and releases of barriers (R159 to R169). -/

namespace Sys2Proof.Machine

/-! ## Group entries (R160) -/

/-- Bits of a word replaced. -/
def setBits (w : Word) (hi lo v : Nat) : Word :=
  BitVec.ofNat 64 (w.toNat - bits w hi lo * 2 ^ lo + v % 2 ^ (hi + 1 - lo) * 2 ^ lo)

/-- A word of an entry, where its line now lies (R79). A poisoned word serves as it stands (DESIGN CHOICE: the spec gives the
fate of poison only for an issuing context's accesses; log entry 38). -/
def grpWord (s : State) (key : Nat) : Word := s.tableWord key

def grpNmem (s : State) (key : Nat) : Nat := bits (grpWord s key) 13 0
def grpJoined (s : State) (key : Nat) : Nat := bits (grpWord s key) 29 16
def grpBgen (s : State) (key : Nat) : Nat := bits (grpWord s (key + 8)) 31 0
def grpBarr (s : State) (key : Nat) : Nat := bits (grpWord s (key + 8)) 45 32
def grpDrain (s : State) (key : Nat) : Nat := bits (grpWord s (key + 16)) 31 0

/-- A group is complete (R162, R165). -/
def grpComplete (s : State) (key : Nat) : Bool := grpJoined s key != 0 && grpJoined s key == grpNmem s key

/-- A field of an entry's word at an offset written. -/
def State.grpSet (s : State) (key off hi lo v : Nat) : State :=
  s.putWord (key + off) (setBits (grpWord s (key + off)) hi lo v)

/-- The rank entry at a rank. -/
def State.rankEntry (s : State) (key r : Nat) : Nat :=
  let w := s.tableWord (wordKey (key + 64 + 4 * r))
  if r % 2 = 0 then bits w 31 0 else bits w 63 32

/-- The member at a rank: its module and core. -/
def State.member (s : State) (key r : Nat) : Option (Nat × Nat) :=
  let e := s.rankEntry key r
  if e / 2 ^ 31 % 2 = 1 then some (e / 2 ^ 16 % 4096, e % 2 ^ 14) else none

/-- A rank entry written. -/
def State.setRank (s : State) (key r v : Nat) : State := s.putHome (key + 64 + 4 * r) 4 (BitVec.ofNat 64 v)

/-- VER goes up (R160). -/
def State.bumpVer (s : State) (key : Nat) : State := s.grpSet key 0 47 32 (bits (grpWord s key) 47 32 + 1)

/-- DRAIN changed by one. -/
def State.drainStep (s : State) (key : Nat) (up : Bool) : State :=
  let d := grpDrain s key
  s.grpSet key 16 31 0 (if up then d + 1 else d - 1)

/-! ## Group slots (R161) -/

/-- The slot of a core for a group. -/
def findSlot (g : Nat) : List GroupSlot → Option GroupSlot
  | [] => none
  | x :: t => if x.group = g then some x else findSlot g t

/-- The slot of a core for a group. -/
def State.slot (s : State) (core g : Nat) : Option GroupSlot := findSlot g (s.core core).groups

/-- A slot as GJOIN allocates it (R163). -/
def newSlot (g rank : Nat) (bgen : BitVec 32) (stamp : Nat) : GroupSlot where
  group := g
  rank := rank
  arr := false
  bseen := bgen
  hist := [(bgen, stamp)]
  xep := 0
  xc := 0
  a0 := 0
  d0 := none
  a1 := 0
  d1 := none

/-! ## Updates at the entry's home (R162 to R164) -/

/-- GJOIN's update (R163): the code for the context, and the state. 99 stands for GRPBUSY. Codes 5 and 6 are looked at here
again, before DRAIN and NMEM, for two GJOINs of one core that are under way at once (DESIGN CHOICE: R163 does not say; log
entry 38). -/
def State.joinGroup (s : State) (core g n rank key : Nat) : Nat × State :=
  if (s.slot core g).isSome then (5, s)
  else if 16 ≤ (s.core core).groups.length then (6, s)
  else if grpDrain s key ≠ 0 then (99, s)
  else if grpJoined s key ≠ 0 ∧ grpNmem s key ≠ n then (3, s)
  else if (s.member key rank).isSome then (4, s)
  else
    let s := if grpJoined s key = 0 then s.grpSet key 0 13 0 n else s
    let s := s.setRank key rank (2 ^ 31 + s.module * 2 ^ 16 + core)
    let s := (s.grpSet key 0 29 16 (grpJoined s key + 1)).bumpVer key
    let slot := newSlot g rank (BitVec.ofNat 32 (grpBgen s key)) s.wallUnits
    (0, s.modCore core fun q => { q with groups := q.groups ++ [slot] })

/-- GLEAVE's update (R164). -/
def State.leaveGroup (s : State) (core g key : Nat) : Nat × State :=
  match s.slot core g with
  | none => (1, s)
  | some x =>
    if grpDrain s key ≠ 0 ∨ grpBarr s key ≠ 0 then (99, s)
    else
      let s := s.setRank key x.rank 0
      let s := (s.grpSet key 0 29 16 (grpJoined s key - 1)).bumpVer key
      (0, s.modCore core fun q => { q with groups := q.groups.filter fun y => y.group != g })

/-- What a request to the entry at key answers, and the state (R162 to R165). -/
def State.groupAsk (s : State) (r : GroupReq) (key : Nat) : (Nat × Word) × State :=
  match r.ask with
  | .join n rank => let a := s.joinGroup r.who.core r.group n rank key; ((a.1, 0), a.2)
  | .leave => let a := s.leaveGroup r.who.core r.group key; ((a.1, 0), a.2)
  | .drainUp =>
    if grpComplete s key then
      ((2, BitVec.ofNat 64 (r.group + grpNmem s key * 2 ^ 16)), s.drainStep key true)
    else ((1, 0), s)
  | .drainDown => ((0, 0), s.drainStep key false)
  | .read => (if s.poisoned (s.settle key) then (98, 0) else (0, grpWord s key), s)

/-- A context still waits for the reply to a request. -/
def Ctx.awaits (c : Ctx) (id : Nat) : Bool := match c.req with | some (.group i) => i == id | _ => false

/-- The reply of a group's entry at its context, whose instruction issues again. -/
def Ctx.groupAnswer (c : Ctx) (a : Nat × Word) : Ctx := { c with req := none, mode := .ready, groupReply := some a }

/-- An event at a port's word: held while the port does not accept (R91, R92) or its line is on its way to another module
(R79), a fault where there is no memory (R60). It goes on once it has read those of the words of keys that lie on other
modules. -/
def atPort (key n : Nat) (keys : List Nat) (e : Event) (f : State → State) (s : State) : Host.Outcome State Fault Refusal :=
  if !rangeOk key n then .fault .noSuchAddress
  else
    match s.heldStop (homePlace key) e with
    | some t => .next t
    | none =>
      if s.lineAway (s.settle key) then .next (s.stopAt (portOf key) e)
      else match s.queueLine (s.settle key) with
        | none => .next (s.stopAt (portOf key) e)
        | some t => .next (t.withFar e keys f)

/-- The words of an entry that an update reads and changes (R162 to R165). -/
def State.groupKeys (s : State) (r : GroupReq) (key : Nat) : List Nat :=
  let rank (n : Nat) : List Nat := [wordKey (key + 64 + 4 * n)]
  [key, key + 8, key + 16] ++ match r.ask with
    | .join _ n => rank n
    | .leave => match s.slot r.who.core r.group with | some x => rank x.rank | none => []
    | _ => []

/-- GROUP_ENTRY_UPDATE (R162 to R165): one update at the entry's home, and its reply. A request whose context has gone
changes nothing. -/
def execGroupEntryUpdate (r : GroupReq) (s : State) : Host.Outcome State Fault Refusal :=
  match s.part r.pid with
  | none => .next s
  | some p =>
    let key := p.groupKey r.group
    if r.who.ctx < 8 then
      if (s.ctx r.who.core r.who.ctx).awaits r.who.id then
        atPort key 65536 (s.groupKeys r key) (.groupEntryUpdate r)
          (fun s => let a := s.groupAsk r key; a.2.modCtx r.who.core r.who.ctx fun c => c.groupAnswer a.1) s
      else .next (s.farDone (.groupEntryUpdate r))
    else atPort key 65536 (s.groupKeys r key) (.groupEntryUpdate r) (fun s => (s.groupAsk r key).2) s

/-! ## The instructions -/

/-- A group id that R163 accepts. -/
def Partition.groupOk (p : Partition) (g : Word) : Bool := g.toNat ≤ 4095 && g.toNat < p.grpLimit.toNat

/-- The reply of a group's entry: asked for at the first issue, taken at the next. -/
def groupReply (g : Nat) (ask : GroupAsk) : M (Nat × Word) := do
  match (← fctx).groupReply with
  | some a =>
    modF fun c => { c with groupReply := none }
    return a
  | none =>
    throw (.blockWith fun s =>
      let (id, s) := s.fresh
      (s.modF fun c => { c with mode := .waiting, req := some (.group id) }).askGroup s.focusCore s.focusCtx id g ask)

/-- GJOIN (R163). -/
def execGjoin (d a b : Reg) (s : State) : Host.Outcome State Fault Refusal :=
  seq4 (do
    needs .coll (.gjoin d a b)
    let g ← readX a
    let v ← readX b
    let s ← get
    let n := bits v 13 0
    let r := bits v 29 16
    if s.fctx.groupReply.isSome then finish d g n r
    else if !s.fpart.groupOk g then writeX d 1
    else if bits v 63 30 ≠ 0 ∨ bits v 15 14 ≠ 0 ∨ n = 0 ∨ 16368 < n ∨ n ≤ r then writeX d 2
    else if (s.slot s.focusCore g.toNat).isSome then writeX d 5
    else if 16 ≤ s.fcore.groups.length then writeX d 6
    else
      fullFence
      fenced [0, 1]
      finish d g n r) s
where
  /-- The update at the entry's home, and its code. -/
  finish (d : Reg) (g : Word) (n r : Nat) : M Unit := do
    let x ← groupReply g.toNat (.join n r)
    if x.1 = 99 then trap cGRPBUSY g
    writeX d (BitVec.ofNat 64 x.1)

/-- An operation of the core's cl on a group that is not complete (R164). -/
def Core.clOn (q : Core) (g : Nat) : Bool := q.cl.queue.any fun o => drainGroup o.cmd == some g

/-- GLEAVE (R164). -/
def execGleave (d a : Reg) (s : State) : Host.Outcome State Fault Refusal :=
  seq4 (do
    needs .coll (.gleave d a)
    let g ← readX a
    let s ← get
    if s.fctx.groupReply.isSome then finish d g
    else match s.slot s.focusCore g.toNat with
      | none => writeX d 1
      | some x =>
        if s.fcore.clOn g.toNat || x.a0 != 0 || x.a1 != 0 then writeX d 2
        else
          fullFence
          fenced [0, 1]
          finish d g) s
where
  /-- The update at the home, and its reply. -/
  finish (d : Reg) (g : Word) : M Unit := do
    let x ← groupReply g.toNat .leave
    if x.1 = 99 then trap cGRPBUSY g
    writeX d (BitVec.ofNat 64 x.1)

/-- The word GINFO makes of an entry's word 0 for a core's slot (R165). -/
def ginfoWord (w : Word) (x : Option GroupSlot) : Word :=
  let joined := bits w 29 16
  let nmem := if joined = 0 then 0 else bits w 13 0
  BitVec.ofNat 64 ((if x.isSome then 2 ^ 63 else 0) + (if joined ≠ 0 ∧ joined = nmem then 2 ^ 62 else 0)
    + joined * 2 ^ 32 + nmem * 2 ^ 16 + (match x with | some x => x.rank | none => 0))

/-- Word 0 of a group's entry as a load of the focus context reads it (R165, R197): from its own stores in the buffer, if they
supply all of it, else at its home. The trap of a poisoned word has the entry's PA as its value (DESIGN CHOICE: it has no
VA; log entry 38). -/
def groupWord (g : Nat) : M Word := do
  let s ← get
  let key := s.fpart.groupKey g
  match (if s.fcore.sb.isEmpty then .none else sbForward s.module s.focusCtx key s.fcore.sb 8) with
  | .all v => return BitVec.ofNat 64 v
  | .part => block
  | .none =>
    let x ← groupReply g .read
    if x.1 = 98 then trap cPOISON (BitVec.ofNat 64 key)
    return x.2

/-- GINFO (R165). -/
def execGinfo (d a b : Reg) (s : State) : Host.Outcome State Fault Refusal :=
  seq4 (do
    needs .coll (.ginfo d a b)
    let g ← readX a
    let sel ← readX b
    if sel = 0 then
      if !(← get).fpart.groupOk g && (← fctx).groupReply.isNone then writeX d 0
      else
        noAmo
        fenced [0]
        let w ← groupWord g.toNat
        let s ← get
        writeX d (ginfoWord w (s.slot s.focusCore g.toNat))
    else if sel = 1 then
      noLoad
      let s ← get
      set (s.recover s.focusCore .cl)
      writeX d s.fcore.cl.status
    else trap cENGARG 25) s

/-! ## Barriers -/

/-- The checks of GARR (R168): the slot of the group. -/
def arriveSlot (g : Word) : M GroupSlot := do
  let s ← get
  if !s.fpart.groupOk g then trap cENGARG 17
  match s.slot s.focusCore g.toNat with
  | none => trap cENGARG 19
  | some x => return x

/-- GARR's steps (R167, R168): the arrival is sent once the context's earlier stores are performed. -/
def arrive (g : Word) : M GroupSlot := do
  let x ← arriveSlot g
  noAmo
  noLoad
  let s ← get
  if !x.arr then
    let a : Arrival := ⟨g.toNat, s.ownStores, s.fctx.posted⟩
    set (((s.modSlot s.focusCore g.toNat fun x => { x with arr := true }).modFcore fun q =>
      { q with arrivals := q.arrivals ++ [a] }).pumpArrivals s.focusCore)
  return x

/-- GARR (R168): rd receives the token. -/
def execGarr (d a : Reg) (s : State) : Host.Outcome State Fault Refusal :=
  seq4 (do
    needs .coll (.garr d a)
    let g ← readX a
    let x ← arrive g
    writeX d (g + zext x.bseen * 65536)
    countEvent) s

/-- The members of a complete group, as the entry lists them in rank order. -/
def State.members (s : State) (key : Nat) (n : Nat) : List (Nat × Nat) := (List.range n).filterMap fun r => s.member key r

/-- The release of a generation of a partition's group sent to a member (R166). -/
def State.releaseTo (s : State) (pid key g bgen : Nat) (m : Nat × Nat) : State :=
  if m.1 = s.module then s.fly (portPlace (portOf key)) m.2 1 (.barrierRelease m.2 ⟨pid, g⟩ bgen)
  else s.toModule m.1 1 (.release pid (match s.part pid with | some p => p.key | none => 0) m.2 g bgen)

/-- An arrival counted at the entry (R166). -/
def State.countArrival (s : State) (pid g key : Nat) : State :=
  let n := grpNmem s key
  let b := grpBarr s key + 1
  if b = n then
    let bgen := (grpBgen s key + 1) % 2 ^ 32
    let s := (s.grpSet key 8 45 32 0).grpSet key 8 31 0 bgen
    (s.members key n).foldl (fun s m => s.releaseTo pid key g bgen m) s
  else s.grpSet key 8 45 32 b

/-- BARRIER_ARRIVAL (R166): counted at the entry's home; the last of a generation releases every member. -/
def execBarrierArrival (pid group core : Nat) (s : State) : Host.Outcome State Fault Refusal :=
  match s.part pid with
  | none => .next s
  | some p =>
    let key := p.groupKey group
    let ranks := (List.range ((grpNmem s key + 1) / 2)).map fun i => key + 64 + 8 * i
    let keys := [key, key + 8] ++ if grpBarr s key + 1 = grpNmem s key then ranks else []
    atPort key 65536 keys (.barrierArrival pid group core) (fun s => s.countArrival pid group key) s

/-- BARRIER_RELEASE (R166): BSEEN := BGEN, ARR := 0, at a core of the partition whose group it is. -/
def execBarrierRelease (core : Nat) (group : GroupRef) (bgen : Nat) (s : State) : Host.Outcome State Fault Refusal :=
  change (fun s =>
    match s.heldBack core group.pid (.barrierRelease core group bgen) with
    | some t => t
    | none =>
      if s.pidOf core ≠ group.pid then s
      else s.modSlot core group.group fun x =>
        { x with
          arr := false, bseen := BitVec.ofNat 32 bgen
          hist := x.hist ++ [(BitVec.ofNat 32 bgen, s.wallUnits)] }) s

end Sys2Proof.Machine
end

