-- ==== Sys2Proof/Machine/Collective.lean ====
section
/-! DEFINITION. The collective engine: HALO (R150 to R154), XCHG (R170 to R175), MCAST (R176), REDUCE (R177, R178), and
what its receiving side does (R156, R158, R174). -/

namespace Sys2Proof.Machine

/-! ## HALO: descriptors (R150, R151) -/

/-- Cell size of a halo descriptor. -/
def haloSize (d : List Word) : Nat := 2 ^ bits (recW d 1) 1 0
/-- WIDTH. -/
def haloWidth (d : List Word) : Nat := bits (recW d 1) 11 8
/-- ROWS. -/
def haloRows (d : List Word) : Nat := bits (recW d 0) 47 32
/-- COLS. -/
def haloCols (d : List Word) : Nat := bits (recW d 0) 63 48
/-- PITCH. -/
def haloPitch (d : List Word) : Nat := bits (recW d 0) 31 16
/-- BASE. -/
def haloBase (d : List Word) : Nat := bits (recW d 0) 15 0

/-- A valid descriptor (R151). -/
def haloOk (d : List Word) : Bool :=
  let w := haloWidth d
  let z := haloSize d
  bits (recW d 1) 63 12 == 0 && bits (recW d 1) 7 2 == 0 && recW d 2 == 0 && recW d 3 == 0
    && 1 ≤ w && w ≤ 8 && w ≤ haloRows d && w ≤ haloCols d
    && haloBase d % z == 0 && haloPitch d % z == 0
    && (haloCols d + 2 * w) * z ≤ haloPitch d
    && w * haloPitch d + w * z ≤ haloBase d
    && haloBase d + (haloRows d + w - 1) * haloPitch d + (haloCols d + w) * z ≤ 65536

/-- The local offset of cell (r, c) (R150). -/
def haloCell (d : List Word) (r c : Int) : Nat :=
  ((haloBase d : Int) + r * (haloPitch d : Int) + c * (haloSize d : Int)).toNat

/-- The direction of a mask bit (R154). -/
def dirOf (i : Nat) : Dir := if i = 0 then .n else if i = 1 then .e else if i = 2 then .s else .w

/-- The side of the receiver's counter (R152). -/
def oppositeDir : Dir → Dir | .n => .s | .s => .n | .e => .w | .w => .e

/-- The neighbour of a core in a direction (R152). -/
def neighbour (c : Nat) : Dir → Option Nat
  | .n => if coreY c = 0 then none else some (coreAt (coreX c) (coreY c - 1))
  | .s => if 63 ≤ coreY c then none else some (coreAt (coreX c) (coreY c + 1))
  | .e => if 191 ≤ coreX c then none else some (coreAt (coreX c + 1) (coreY c))
  | .w => if coreX c = 0 then none else some (coreAt (coreX c - 1) (coreY c))

/-- The cells of a push, in row-major order: source and receiver offsets (R152). -/
def haloCells (d : List Word) (dir : Dir) : List (Nat × Nat) :=
  let w := haloWidth d
  let rows := haloRows d
  let cols := haloCols d
  let grid (h k : Nat) (f : Nat → Nat → Nat × Nat) : List (Nat × Nat) :=
    (List.range h).flatMap fun r => (List.range k).map fun c => f r c
  match dir with
  | .n => grid w cols fun r c => (haloCell d r c, haloCell d (rows + r : Nat) c)
  | .s => grid w cols fun r c => (haloCell d (rows - w + r : Nat) c, haloCell d ((r : Int) - w) c)
  | .e => grid rows w fun r c => (haloCell d r (cols - w + c : Nat), haloCell d r ((c : Int) - w))
  | .w => grid rows w fun r c => (haloCell d r c, haloCell d r (cols + c : Nat))

/-- HALO (R154). -/
def execHalo (d a b : Reg) (s : State) : Host.Outcome State Fault Refusal :=
  seq4 (do
    needs .coll (.halo d a b)
    let v ← readX a
    let m ← readX b
    match ownAligned v 32 with
    | none => trap cENGARG 14
    | some o =>
      engineWaits [2, 3]
      let desc ← readOwn o 4
      if !haloOk desc then trap cENGARG 14
      if 16 ≤ m.toNat then trap cENGARG 15
      holdUntil (← get).fcore.cl.room
      issueOp .cl d (.halo desc m.toNat)) s

/-! ## Layout maps (R170 to R172) -/

def mapDim (m : List Word) : Nat := bits (recW m 0) 2 0
def mapSize (m : List Word) : Nat := 2 ^ bits (recW m 0) 5 4
def mapPerm (m : List Word) (j : Nat) : Nat := bits (recW m 0) (9 + 2 * j) (8 + 2 * j)
def mapSrc (m : List Word) : Nat := bits (recW m 1) 15 0
def mapDst (m : List Word) : Nat := bits (recW m 1) 31 16
def mapG (m : List Word) (d : Nat) : Nat := bits (recW m (2 + 2 * d)) 31 0
def mapP (m : List Word) (d : Nat) : Nat := bits (recW m (2 + 2 * d)) 47 32
def mapQ (m : List Word) (d : Nat) : Nat := bits (recW m (2 + 2 * d)) 63 48
def mapB (m : List Word) (d : Nat) : Nat := bits (recW m (3 + 2 * d)) 31 0
def mapD (m : List Word) (d : Nat) : Nat := bits (recW m (3 + 2 * d)) 63 32

/-- The dimensions of a map. -/
def mapDims (m : List Word) : List Nat := List.range (mapDim m)

/-- A product over the dimensions of a map. -/
def mapProd (m : List Word) (f : Nat → Nat) : Nat := (mapDims m).foldl (fun n d => n * f d) 1

/-- A valid map (R171). -/
def mapOk (m : List Word) : Bool :=
  let nd := mapDim m
  let z := mapSize m
  let dims := mapDims m
  let srcLen := z * mapProd m fun d => Nat.min (mapB m d) (mapG m d)
  let dstLen := z * mapProd m fun d => Nat.min (mapD m d) (mapG m d)
  2 ≤ nd && nd ≤ 4
    && bits (recW m 0) 63 16 == 0 && bits (recW m 0) 7 6 == 0 && bits (recW m 0) 3 3 == 0 && bits (recW m 1) 63 32 == 0
    && ((List.range 16).drop (2 + 2 * nd)).all (fun i => recW m i == 0)
    && ((List.range 4).drop nd).all (fun j => mapPerm m j == 0)
    && dims.all (fun d => mapG m d != 0 && mapG m d ≤ 0x7FFFFFFF && mapP m d != 0 && mapQ m d != 0 && mapB m d != 0
        && mapD m d != 0 && mapG m d ≤ mapP m d * mapB m d && mapG m d ≤ mapQ m d * mapD m d)
    && dims.all (fun d => dims.any fun j => mapPerm m j == d)
    && mapSrc m % z == 0 && mapDst m % z == 0
    && mapSrc m + srcLen ≤ 65536 && mapDst m + dstLen ≤ 65536
    && !(mapSrc m < mapDst m + dstLen && mapDst m < mapSrc m + srcLen)

/-- Grid coordinates of a rank under extents given by f, dimension 0 fastest (R172). -/
def gridOf (f : Nat → Nat) : List Nat → Nat → List Nat
  | [], _ => []
  | d :: t, n => n % f d :: gridOf f t (n / f d)

/-- The extent of a block of size b at grid coordinate p in an array of extent g (R172). -/
def blockExtent (g b p : Nat) : Nat := Nat.min b (g - p * b)

/-- L of a dimension for a rank. -/
def mapL (m : List Word) (rank d : Nat) : Nat := blockExtent (mapG m d) (mapB m d) ((gridOf (mapP m) (mapDims m) rank).getD d 0)

/-- M of a dimension for a rank. -/
def mapM (m : List Word) (rank d : Nat) : Nat := blockExtent (mapG m d) (mapD m d) ((gridOf (mapQ m) (mapDims m) rank).getD d 0)

/-- The source elements of a rank. -/
def mapCount (m : List Word) (rank : Nat) : Nat := mapProd m (mapL m rank)

/-- The elements a rank expects (R172). -/
def mapExpected (m : List Word) (rank : Nat) : Nat := mapProd m (mapM m rank)

/-- A mixed-radix number, the first digit fastest. -/
def radix (f : Nat → Nat) : List (Nat × Nat) → Nat
  | [] => 0
  | (x, d) :: t => x + f d * radix f t

/-- Source element i of a rank (R172): its source offset, the destination rank, and the destination offset. -/
def mapElement (m : List Word) (rank i : Nat) : Nat × Nat × Nat :=
  let dims := mapDims m
  let z := mapSize m
  let l := gridOf (mapL m rank) dims i
  let p := gridOf (mapP m) dims rank
  let c := dims.map fun d => p.getD d 0 * mapB m d + l.getD d 0
  let q := dims.map fun d => c.getD d 0 / mapD m d
  let dst := radix (mapQ m) (q.zip dims)
  let mm := dims.map fun d => c.getD d 0 - q.getD d 0 * mapD m d
  let off := (dims.foldl (fun (a : Nat × Nat) j =>
    let d := mapPerm m j
    (a.1 + mm.getD d 0 * a.2, a.2 * mapM m dst d)) (0, z)).1
  (mapSrc m + z * i, dst, mapDst m + off)

/-! ## Issue of group operations (R162, R173, R179) -/

/-- The DRAIN increment of a group operation (R162): ENGARG 17, then the reply of the home, then 18; the members. -/
def drainUp (g : Word) : M Nat := do
  if !(← get).fpart.groupOk g then trap cENGARG 17
  let x ← groupReply g.toNat .drainUp
  if x.1 ≠ 2 then trap cENGARG 18
  return x.2.toNat / 65536

/-- XCHG (R173): the map is copied and XEP counted before cl has room. -/
def execXchg (d a b : Reg) (s : State) : Host.Outcome State Fault Refusal :=
  seq4 (do
    needs .coll (.xchg d a b)
    let v ← readX a
    let g ← readX b
    engineWaits [2, 3]
    let n ← drainUp g
    let s ← get
    match s.slot s.focusCore g.toNat with
    | none => trap cENGARG 19
    | some x =>
      match s.fctx.mapCopy with
      | some (m, e) =>
        holdUntil s.fcore.cl.room
        modF fun c => { c with mapCopy := none }
        issueOp .cl d (.xchg g.toNat m x.rank n e)
      | none =>
        match ownAligned v 128 with
        | none => trap cENGARG 20
        | some o =>
          let m ← readOwn o 16
          if !mapOk m then trap cENGARG 21
          if mapProd m (mapP m) ≠ n ∨ mapProd m (mapQ m) ≠ n then trap cENGARG 22
          let copied (s : State) : State := s.modSlot s.focusCore g.toNat fun x => { x with xep := x.xep + 1 }
          if (← get).fcore.cl.room then
            modify copied
            issueOp .cl d (.xchg g.toNat m x.rank n (x.xep + 1))
          else throw (.blockWith fun s => (copied s).modF fun c => { c with mapCopy := some (m, x.xep + 1) })) s

/-- The specification word of MCAST or REDUCE: DOFF, the count, and bit 32. -/
def specOff (w : Word) : Nat := bits w 15 0
def specCount (w : Word) : Nat := bits w 28 16 + 1
/-- Its other bits are zero. -/
def specOk (w : Word) : Bool := bits w 63 33 == 0 && bits w 31 29 == 0

/-- ENGARG 23: a source or destination of n bytes misplaced, for an alignment. -/
def misplaced (src : Word) (doff n align : Nat) : Bool :=
  match ownAligned src align with
  | none => true
  | some o => 65536 < o + n || doff % align != 0 || 65536 < doff + n

/-- Two ranges of n bytes overlap. -/
def overlaps (a b n : Nat) : Bool := a < b + n && b < a + n

/-- The window a descriptor's words describe: its octets in order of k with k. -/
def windowOctets (w : List Word) : List (Nat × Nat × Nat) :=
  let ox := bits (recW w 0) 5 0
  let oy := bits (recW w 0) 12 8
  ((List.range 256).filter fun k => (recW w (1 + k / 64)).getLsbD (k % 64)).map fun k => (k, ox + k % 16, oy + k / 16)

/-- A descriptor's reserved fields are zero (R176). -/
def windowOk (w : List Word) : Bool :=
  bits (recW w 0) 63 19 == 0 && bits (recW w 0) 15 13 == 0 && bits (recW w 0) 7 6 == 0
    && recW w 5 == 0 && recW w 6 == 0 && recW w 7 == 0

/-- The rest of a MCAST once its targets are known: codes 25 and 26, then the issue. -/
def mcastIssue (d : Reg) (g : Option Nat) (src spec : Word) (noself : Bool) (targets : List (Nat × Nat))
    (contain : Option Nat) : M Unit := do
  let s ← get
  let n := 8 * specCount spec
  let own := (s.module, s.focusCore)
  let targets := if noself then targets.filter (· != own) else targets
  if !specOk spec then trap cENGARG 25
  if targets.contains own && overlaps (bits src 15 0) (specOff spec) n then trap cENGARG 26
  match contain with
  | some k => trap cCONTAIN (BitVec.ofNat 64 k)
  | none => pure ()
  holdUntil s.fcore.cl.room
  issueOp .cl d (.mcast g targets (bits src 15 0) (specOff spec) (specCount spec) (spec.getLsbD 32))

/-- MCAST to a group (R176). -/
def execMcast (n : Bool) (d a b c : Reg) (s : State) : Host.Outcome State Fault Refusal :=
  seq4 (do
    needs .coll (.mcast n d a b c)
    let src ← readX a
    let spec ← readX b
    let g ← readX c
    engineWaits [2, 3]
    let nm ← drainUp g
    if misplaced src (specOff spec) (8 * specCount spec) 8 then trap cENGARG 23
    let s ← get
    mcastIssue d (some g.toNat) src spec n (s.members (s.fpart.groupKey g.toNat) nm) none) s

/-- MCAST to a window (R176). -/
def execMcastWin (n : Bool) (d a b c : Reg) (s : State) : Host.Outcome State Fault Refusal :=
  seq4 (do
    needs .coll (.mcastWin n d a b c)
    let src ← readX a
    let spec ← readX b
    let w ← readX c
    engineWaits [2, 3]
    if misplaced src (specOff spec) (8 * specCount spec) 8 then trap cENGARG 23
    match ownAligned w 64 with
    | none => trap cENGARG 24
    | some o =>
      let desc ← readOwn o 8
      if !windowOk desc then trap cENGARG 24
      let s ← get
      let p := s.fpart
      let idx := bits (recW desc 0) 18 16
      let inside (t : Nat × Nat × Nat) : Bool := t.2.1 ≤ 47 && t.2.2 ≤ 31 && p.hasOctet (t.2.2 * 48 + t.2.1)
      let all := windowOctets desc
      let targets := (all.filter inside).map fun t => (s.module, octetCore (t.2.2 * 48 + t.2.1) idx)
      mcastIssue d none src spec n targets ((all.find? fun t => !inside t).map (·.1))) s

/-- REDUCE (R177). -/
def execReduce (o : RedOp) (d a b c : Reg) (s : State) : Host.Outcome State Fault Refusal :=
  seq4 (do
    needs .coll (.reduce o d a b c)
    let src ← readX a
    let spec ← readX b
    let g ← readX c
    engineWaits [2, 3]
    let n ← drainUp g
    let s ← get
    let w32 := spec.getLsbD 32
    let size := if w32 then 4 else 8
    match s.slot s.focusCore g.toNat with
    | none => trap cENGARG 19
    | some x =>
      if misplaced src (specOff spec) (size * specCount spec) size then trap cENGARG 23
      if !specOk spec || (o == .fadd && !w32) then trap cENGARG 25
      if overlaps (bits src 15 0) (specOff spec) (size * specCount spec) then trap cENGARG 26
      holdUntil s.fcore.cl.room
      issueOp .cl d (.reduce g.toNat x.rank n o w32 (bits src 15 0) (specOff spec) (specCount spec))) s

/-! ## Halting with KIND 8 (R174) -/

/-- The element index a KIND 8 halt records: a running XCHG's own elements sent. -/
def Engine.mismatchIndex (g : Engine) : Nat :=
  match g.queue with
  | o :: _ => match o.cmd with | .xchg _ _ _ _ _ => if o.started then o.next else 0 | _ => 0
  | [] => 0

/-- MISMATCH at a core: F is C + 1 (R174). -/
def State.mismatch (s : State) (core : Nat) : State :=
  let g := s.engine core .cl
  s.haltEngine core .cl 8 g.mismatchIndex (g.c + 1)

/-! ## The slot's arrival counters (R161, R174) -/

/-- The counter of an epoch. -/
def GroupSlot.count (x : GroupSlot) (epoch : Nat) : Nat := if epoch % 2 = 0 then x.a0 else x.a1

/-- The digest of an epoch's counter. -/
def GroupSlot.digest (x : GroupSlot) (epoch : Nat) : Option (BitVec 16) := if epoch % 2 = 0 then x.d0 else x.d1

/-- The counter of an epoch set. -/
def GroupSlot.setCount (x : GroupSlot) (epoch n : Nat) (d : Option (BitVec 16)) : GroupSlot :=
  if epoch % 2 = 0 then { x with a0 := n, d0 := d } else { x with a1 := n, d1 := d }

/-- The running XCHG of a core's cl on a group and epoch: its map and rank. -/
def Engine.runningXchg (g : Engine) (group epoch : Nat) : Option (List Word × Nat) :=
  match g.queue with
  | o :: _ => match o.cmd with
    | .xchg h m r _ e => if o.started && h == group && e == epoch then some (m, r) else none
    | _ => none
  | [] => none

/-- What a running XCHG makes of its epoch's counter: MISMATCH on another digest or too many deposits (R174). -/
def State.checkXchg (s : State) (core group epoch : Nat) : State :=
  match (s.engine core .cl).runningXchg group epoch, s.slot core group with
  | some (m, r), some x =>
    if (match x.digest epoch with | some d => d != foldWords m | none => false) || mapExpected m r < x.count epoch then
      s.mismatch core
    else s
  | _, _ => s

/-! ## Acknowledgements (R156) -/

/-- An acknowledgement sent from a core to the operation of a sender. -/
def State.ackEngine (s : State) (core module src op : Nat) : State :=
  if module = s.module then s.fly core src 1 (.engineAcknowledgement src op)
  else s.toModule module 1 (.engAck (s.pidOf core) src op)

/-- The running operation of a core's cl looked at again. -/
def State.kickCl (s : State) (core : Nat) : State :=
  s.flyOnce (octetPlace (octetOf core)) core 2 (.collectiveOperationComplete core)

/-- ENGINE_ACKNOWLEDGEMENT (R156): one push, deposit, delivery or partial of the operation is performed. -/
def execEngineAcknowledgement (core op : Nat) (s : State) : Host.Outcome State Fault Refusal :=
  change (fun s =>
    (s.modEngine core .cl fun g =>
      ({ g with queue := g.queue.map fun o => if o.num = op then { o with out := o.out - 1 } else o } : Engine).modLate
        fun o => if o.num = op then { o with out := o.out - 1 } else o).kickCl core) s

/-! ## What holds engine traffic back at its receiver -/

/-- Traffic for a core's local memory, held where its octet sleeps, its partition is pre-empted, or its residents are being
exchanged (R154, R176, R180, R349). -/
def State.heldEngine (s : State) (core pid off n : Nat) (e : Event) : Option State :=
  match s.heldBack core pid e with
  | some t => some t
  | none =>
    if s.swapping core off n then some (s.modCore core fun q => { q with exchHeld := q.exchHeld ++ [e] }) else none

/-- The partition of the core that engine traffic comes from. -/
def State.srcPid (s : State) (module core : Nat) : Nat := if module = s.module then s.pidOf core else 64

/-- Words written from a local offset, in ascending order. -/
def State.storeWords (s : State) (core size : Nat) : Nat → List Word → State
  | _, [] => s
  | off, v :: t => (s.storeBytes core (localKey core off) size v).storeWords core size (off + size) t

/-- HALO_PUSH (R152, R153): the cells written, then the counter of the side the data comes from. -/
def execHaloPush (p : Push) (s : State) : Host.Outcome State Fault Refusal :=
  change (fun s =>
    let span := p.cells.foldl (fun n c => Nat.max n (c.1 + p.size)) 0
    let low := p.cells.foldl (fun n c => Nat.min n c.1) 65536
    match s.heldEngine p.dstCore (s.srcPid s.module p.srcCore) low (span - low) (.haloPush p) with
    | some t => t
    | none =>
      let s := p.cells.foldl (fun s c => s.storeBytes p.dstCore (localKey p.dstCore c.1) p.size c.2) s
      let up (h : HaloCount) : HaloCount := ⟨h.count + 1, h.hist ++ [(h.count + 1, s.wallUnits)]⟩
      let s := s.modCore p.dstCore fun q =>
        match p.side with
        | .n => { q with haloN := up q.haloN }
        | .e => { q with haloE := up q.haloE }
        | .s => { q with haloS := up q.haloS }
        | .w => { q with haloW := up q.haloW }
      s.ackEngine p.dstCore s.module p.srcCore p.op) s

/-- A deposit refused: its sender sends it again 1 wall µs later (R174). -/
def State.refuseDeposit (s : State) (d : Deposit) : State :=
  if d.module = s.module then s.armIn 1000 (.depositResend d) else s.toModule d.module 1 (.depositBack d)

/-- DEPOSIT (R174). -/
def execDeposit (d : Deposit) (s : State) : Host.Outcome State Fault Refusal :=
  change (fun s =>
    match s.heldEngine d.dstCore (s.srcPid d.module d.srcCore) d.off d.size (.deposit d) with
    | some t => t
    | none =>
      match s.slot d.dstCore d.group with
      | none => s.ackEngine d.dstCore d.module d.srcCore d.op
      | some x =>
        if x.xc + 2 < d.epoch then s.refuseDeposit d
        else
          let s := s.storeBytes d.dstCore (localKey d.dstCore d.off) d.size d.v
          let s := s.ackEngine d.dstCore d.module d.srcCore d.op
          let other := match x.digest d.epoch with | some g => g != d.digest | none => false
          if d.epoch ≤ x.xc || other then s.mismatch d.dstCore
          else
            let s := s.modSlot d.dstCore d.group fun x => x.setCount d.epoch (x.count d.epoch + 1) (some d.digest)
            (s.checkXchg d.dstCore d.group d.epoch).kickCl d.dstCore) s

/-- A deposit sent to its receiver. -/
def State.sendDeposit (s : State) (d : Deposit) : State :=
  if d.dstModule = s.module then s.fly d.srcCore d.dstCore 2 (.deposit d) else s.toModule d.dstModule 2 (.deposit d)

/-- DEPOSIT_RESEND (R174): a refused deposit sent again, unless its sender's partition is being pre-empted (R180). -/
def execDepositResend (d : Deposit) (s : State) : Host.Outcome State Fault Refusal :=
  change (fun s => if s.partRuns d.srcCore then s.sendDeposit d else s.armIn 1000 (.depositResend d)) s

/-- The launch whose task issued the MCAST of a delivery, where its core is one of this module; 0 for any other. -/
def State.deliveryLaunch (s : State) (d : Delivery) : Nat :=
  if d.module ≠ s.module then 0
  else match (s.core d.srcCore).cl.queue.find? fun o => o.num == d.op with
    | some o => o.owner.launch
    | none => 0

/-- MULTICAST_DELIVERY (R176): the words in ascending order, then with FE the last word's tag. -/
def execMulticastDelivery (d : Delivery) (s : State) : Host.Outcome State Fault Refusal :=
  change (fun s =>
    match s.heldEngine d.dstCore (s.srcPid d.module d.srcCore) d.off (8 * d.words.length) (.multicastDelivery d) with
    | some t => t
    | none =>
      let last := localKey d.dstCore (d.off + 8 * (d.words.length - 1))
      s.wakeAt (s.pidOf d.dstCore) (s.deliveryLaunch d) d.dstCore 0 (.multicastDelivery d) fun s =>
        let s := s.storeWords d.dstCore 8 d.off d.words
        let s := if d.fe then (s.setTag last true).tryHeld d.dstCore last 0 else s
        s.ackEngine d.dstCore d.module d.srcCore d.op) s

/-! ## REDUCE (R177, R178) -/

/-- The bytes a partial takes in a staging buffer. -/
def partialBytes (p : Partial) : Nat := p.values.length * (if p.w32 then 4 else 8)

/-- The left operand combined with the right (R177). -/
def redCombine (op : RedOp) (w32 : Bool) (a b : Word) : Word :=
  match op with
  | .add => amoNew .add w32 a b 0
  | .min => amoNew .min w32 a b 0
  | .max => amoNew .max w32 a b 0
  | .fadd =>
    let r : BitVec 32 := BitVec.ofNat 32 (fAdd fmtS .rne (low32 a).toNat (low32 b).toNat).1
    zext r

/-- The staged partial of a rank for a group, the oldest first. -/
def findStaged (core g rank : Nat) : List Staged → Option Partial
  | [] => none
  | x :: t => if x.p.dstCore = core ∧ x.p.group = g ∧ x.p.srcRank = rank then some x.p else findStaged core g rank t

/-- The oldest staged copy of a partial removed. -/
def dropStaged (p : Partial) : List Staged → List Staged
  | [] => []
  | x :: t => if x.p = p then t else x :: dropStaged p t

/-- REDUCE_PARTIAL (R158, R178): staged, or refused for lack of room. -/
def execReducePartial (p : Partial) (s : State) : Host.Outcome State Fault Refusal :=
  change (fun s =>
    match s.heldBack p.dstCore (s.srcPid p.module p.srcCore) (.reducePartial p) with
    | some t => t
    | none =>
      let o := octetOf p.dstCore
      let used := ((s.octet o).staging.map fun x => partialBytes x.p).foldl (· + ·) 0
      if used + partialBytes p ≤ 262144 then
        ((s.modOctet o fun x => { x with staging := x.staging ++ [⟨p⟩] }).ackEngine p.dstCore p.module p.srcCore p.op).kickCl
          p.dstCore
      else if p.module = s.module then s.armIn 1000 (.partialResend p)
      else s.toModule p.module 1 (.partialBack p)) s

/-- A partial sent to its receiver. -/
def State.sendPartial (s : State) (p : Partial) : State :=
  if p.dstModule = s.module then s.fly p.srcCore p.dstCore 2 (.reducePartial p) else s.toModule p.dstModule 2 (.partialRed p)

/-- PARTIAL_RESEND (R158), as for a deposit. -/
def execPartialResend (p : Partial) (s : State) : Host.Outcome State Fault Refusal :=
  change (fun s => if s.partRuns p.srcCore then s.sendPartial p else s.armIn 1000 (.partialResend p)) s

/-- The folds of words written at a core from an offset (R386). -/
def foldWritten (core size : Nat) : Nat → List Word → Word → Word
  | _, [], e => e
  | off, v :: t, e => foldWritten core size (off + size) t (foldStore e (absForm core off) v size 0 0)

/-- The running REDUCE of a core's cl on a group. -/
def Engine.runningReduce (g : Engine) (group : Nat) : Bool :=
  match g.queue with
  | o :: _ => match o.cmd with | .reduce h _ _ _ _ _ _ _ => o.started && h == group && !o.result | _ => false
  | [] => false

/-- REDUCE_RESULT (R178): written at rank 0's DOFF; the member's own operation has it, and folds it (DESIGN CHOICE: R181 does
not say whether the member's or rank 0's operation does; log entry 38). -/
def execReduceResult (p : Partial) (s : State) : Host.Outcome State Fault Refusal :=
  change (fun s =>
    let size := if p.w32 then 4 else 8
    match s.heldEngine p.dstCore (s.srcPid p.module p.srcCore) p.off (partialBytes p) (.reduceResult p) with
    | some t => t
    | none =>
      let s := s.storeWords p.dstCore size p.off p.values
      if (s.engine p.dstCore .cl).runningReduce p.group then
        (s.modEngine p.dstCore .cl fun g => g.modHead fun o =>
          { o with result := true, e := foldWritten p.dstCore size p.off p.values o.e }).kickCl p.dstCore
      else s) s

/-- Rank 0's result sent to every member. -/
def State.sendResult (s : State) (core : Nat) (p : Partial) (m : Nat × Nat) : State :=
  let p := { p with dstModule := m.1, dstCore := m.2 }
  if m.1 = s.module then s.fly core m.2 2 (.reduceResult p) else s.toModule m.1 2 (.result p)

/-- Bytes that a core's cl has moved: its octet's collective engine is part of the copy engine (R156), whose bytes are counted
as they leave (R460; DESIGN CHOICE: log entry 38). -/
def State.clMoved (s : State) (core n : Nat) : State := s.count (octetOf core) 4 n

/-- The running REDUCE's next step of the tree (R178): got is the step s, 0 once the partial or the result has been
sent. A partial that differs stays in the staging buffer, as does one whose receiver's operation is dropped, and the next
REDUCE of the group meets it (DESIGN CHOICE: R178 does not say; log entry 38). -/
def State.reduceStep (s : State) (core : Nat) (o : EngOp) (g rank n : Nat) (op : RedOp) (w32 : Bool) (dst : Nat) :
    Nat → State
  | 0 => s
  | f + 1 =>
    let key := (s.partAt core).groupKey g
    let st := o.got
    let part (m : Nat × Nat) : Partial :=
      ⟨(s.partAt core).key, core, rank, o.num, s.module, m.1, m.2, g, st, op, w32, dst, o.values⟩
    if st = 0 then s
    else if n ≤ st then
      if rank = 0 then
        let s := s.modEngine core .cl fun e => e.modHead fun o => { o with got := 0 }
        (s.members key n).foldl (fun s m => (s.sendResult core (part m) m).clMoved core (partialBytes (part m))) s
      else s
    else if rank % (2 * st) = st then
      let s := s.modEngine core .cl fun e => e.modHead fun o => { o with got := 0, out := o.out + 1 }
      match s.member key (rank - st) with
      | some m => (s.sendPartial (part m)).clMoved core (partialBytes (part m))
      | none => s
    else if rank + st < n then
      match findStaged core g (rank + st) (s.octet (octetOf core)).staging with
      | none => s
      | some p =>
        if p.values.length ≠ o.values.length ∨ p.w32 ≠ w32 ∨ p.red ≠ op then s.mismatch core
        else
          let vs := (o.values.zip p.values).map fun v => redCombine op w32 v.1 v.2
          let o := { o with got := 2 * st, values := vs }
          let s := s.modOctet (octetOf core) fun x => { x with staging := dropStaged p x.staging }
          let s := s.modEngine core .cl fun e => e.modHead fun x => { x with got := o.got, values := o.values }
          s.reduceStep core o g rank n op w32 dst f
    else
      let o := { o with got := 2 * st }
      let s := s.modEngine core .cl fun e => e.modHead fun x => { x with got := o.got }
      s.reduceStep core o g rank n op w32 dst f

/-! ## The sending side -/

/-- A cl operation that reads a poisoned word of its own local memory halts with KIND 5 (R135, R179). -/
def State.clPoison (s : State) (core eidx : Nat) : State :=
  let num := match (s.engine core .cl).queue with | o :: _ => o.num | [] => 0
  s.flyOnce (octetPlace (octetOf core)) core 2 (.engineFault core .cl 5 ⟨num, eidx⟩)

/-- The steps of a cl operation's sending side: directions, elements, targets. -/
def clSteps : Cmd → Nat
  | .halo _ _ => 4
  | .xchg _ m r _ _ => mapCount m r
  | .mcast _ t _ _ _ _ => t.length
  | .reduce _ _ _ _ _ _ _ _ => 1
  | _ => 0

/-- The step passed, with the bytes it moves (R460), what it folds and how many acknowledgements it is owed. -/
def State.clPass (s : State) (core out bytes : Nat) (e : Word → Word) : State :=
  (s.modEngine core .cl fun g => g.modHead fun o => { o with next := o.next + 1, out := o.out + out, e := e o.e }).clMoved
    core bytes

/-- A value of n bytes of the own local memory; none where a word is poisoned. -/
def State.localValue (s : State) (core off n : Nat) : Option Word :=
  let key := localKey core off
  if s.poisoned key then none else some (BitVec.ofNat 64 (s.read key n))

/-- The push to the neighbour of direction i (R152). A poisoned source cell halts with EIDX 0 (DESIGN CHOICE: R179 names none
for a KIND 5 of a HALO; log entry 38). -/
def State.haloStep (s : State) (core : Nat) (o : EngOp) (desc : List Word) (mask : Nat) : State :=
  let i := o.next
  let dir := dirOf i
  let z := haloSize desc
  match neighbour core dir with
  | none => s.clPass core 0 0 id
  | some t =>
    if !(mask.testBit i && (s.partAt core).hasCore t) then s.clPass core 0 0 id
    else
      let cells := haloCells desc dir
      match cells.find? fun c => s.poisoned (localKey core c.1) with
      | some _ => s.clPoison core 0
      | none =>
        let vs := cells.map fun c => (c.2, (s.localValue core c.1 z).getD 0)
        let s := s.clPass core 1 (z * vs.length) fun e => vs.foldl (fun e c => foldStore e (absForm t c.1) c.2 z 0 0) e
        s.fly core t 2 (.haloPush ⟨(s.partAt core).key, core, o.num, t, oppositeDir dir, z, vs⟩)

/-- The deposit of the next source element (R172, R173). -/
def State.xchgStep (s : State) (core : Nat) (o : EngOp) (g : Nat) (m : List Word) (rank epoch : Nat) : State :=
  let z := mapSize m
  let (src, dst, off) := mapElement m rank o.next
  match s.localValue core src z, s.member ((s.partAt core).groupKey g) dst with
  | none, _ => s.clPoison core o.next
  | some v, some t =>
    let s := s.clPass core 1 z fun e => foldStore e (absForm t.2 off) v z 0 0
    s.sendDeposit ⟨(s.partAt core).key, core, o.num, s.module, t.1, t.2, g, epoch, foldWords m, off, z, v⟩
  | some _, none => s.clPass core 0 0 id

/-- The delivery to the next target (R176). A poisoned source word halts with EIDX 0 (DESIGN CHOICE: R179 names none for a
KIND 5 of an MCAST; log entry 38). -/
def State.mcastStep (s : State) (core : Nat) (o : EngOp) (targets : List (Nat × Nat)) (src dst words : Nat) (fe : Bool) :
    State :=
  match targets[o.next]?, s.localWords core src words with
  | none, _ => s
  | some _, none => s.clPoison core 0
  | some t, some l =>
    let s := s.clPass core 1 (8 * l.length) fun e => foldWritten t.2 8 dst l e
    let d : Delivery := ⟨(s.partAt core).key, core, o.num, s.module, t.2, dst, l, fe⟩
    if t.1 = s.module then s.fly core t.2 2 (.multicastDelivery d) else s.toModule t.1 2 (.delivery d)

/-- The source elements of a REDUCE read. -/
def State.reduceRead (s : State) (core : Nat) (w32 : Bool) (src cnt : Nat) : State :=
  let z := if w32 then 4 else 8
  match (List.range cnt).find? fun i => s.poisoned (localKey core (src + z * i)) with
  | some i => s.clPoison core i
  | none =>
    let vs := (List.range cnt).map fun i => (s.localValue core (src + z * i) z).getD 0
    (s.modEngine core .cl fun g => g.modHead fun o => { o with next := 1, got := 1, values := vs }).kickCl core

/-- The next step of the running cl operation's sending side. -/
def State.clStep (s : State) (core : Nat) (o : EngOp) : State :=
  match o.cmd with
  | .halo d m => s.haloStep core o d m
  | .xchg g m r _ e => s.xchgStep core o g m r e
  | .mcast _ t a b n fe => s.mcastStep core o t a b n fe
  | .reduce _ _ _ _ w a _ n => s.reduceRead core w a n
  | _ => s

/-- An exchange of residents holds the own words that the running cl operation's next step reads (R349). -/
def State.clSwaps (s : State) (core : Nat) (o : EngOp) : Bool :=
  match o.cmd with
  | .halo d _ => (haloCells d (dirOf o.next)).any fun c => s.swapping core c.1 (haloSize d)
  | .xchg _ m r _ _ => s.swapping core (mapElement m r o.next).1 (mapSize m)
  | .mcast _ _ src _ words _ => s.swapping core src (8 * words)
  | .reduce _ _ _ _ w32 src _ cnt => s.swapping core src ((if w32 then 4 else 8) * cnt)
  | _ => false

/-- COLLECTIVE_OPERATION_START (R156): the oldest operation starts once the stores it releases are performed (R120); a
running one sends its next element, delivery or push. -/
def execCollectiveOperationStart (core : Nat) (s : State) : Host.Outcome State Fault Refusal :=
  change (fun s =>
    let g := s.engine core .cl
    match g.queue with
    | [] => s
    | o :: _ =>
      if g.barred o.num || !(o.stores.isEmpty && o.posted.isEmpty) || !s.enginesRun core then s
      else
        let again (s : State) : State := s.flyOnce core (octetPlace (octetOf core)) 2 (.collectiveOperationStart core)
        if !o.started then
          let s := s.modEngine core .cl fun g => g.modHead fun o => { o with started := true }
          let s := match o.cmd with | .xchg h _ _ _ e => s.checkXchg core h e | _ => s
          again s
        else if s.clSwaps core o then s.armIn 1 (.collectiveOperationStart core)
        else if o.next < clSteps o.cmd then again (s.clStep core o)
        else s.kickCl core) s

/-- Whether the running operation is complete (R119, R173, R176, R178). -/
def State.clDone (s : State) (core : Nat) (o : EngOp) : Bool :=
  o.started && clSteps o.cmd ≤ o.next && o.out == 0 &&
    match o.cmd with
    | .xchg g m r _ e => match s.slot core g with
      | some x => x.count e == mapExpected m r && x.xc + 1 == e
      | none => false
    | .reduce _ _ _ _ _ _ _ _ => o.result && o.got == 0
    | _ => true

/-- COLLECTIVE_OPERATION_COMPLETE (R156, R173): a REDUCE takes its next steps of the tree; an operation whose conditions
hold completes. -/
def execCollectiveOperationComplete (core : Nat) (s : State) : Host.Outcome State Fault Refusal :=
  change (fun s =>
    let g := s.engine core .cl
    match g.queue with
    | [] => s
    | o :: _ =>
      if g.barred o.num || !o.started || !s.enginesRun core then s
      else
        let s := if clSteps o.cmd ≤ o.next then s.modEngine core .cl fun g => g.modHead fun o => { o with read := true } else s
        let s := match o.cmd with
          | .reduce g r n op w _ d _ => if o.next = 1 then s.reduceStep core o g r n op w d 16 else s
          | _ => s
        match (s.engine core .cl).queue with
        | [] => s
        | o :: _ =>
          if (s.engine core .cl).barred o.num || !s.clDone core o then s
          else
            let s := match o.cmd with
              | .xchg g _ _ _ e => s.modSlot core g fun x => { x.setCount e 0 none with xc := e }
              | _ => s
            s.finishOp core .cl o) s

end Sys2Proof.Machine
end

