-- ==== Sys2Proof/Machine/Matrix.lean ====
section
/-! DEFINITION. The matrix unit: formats (R276), the order of sums (R241 to R244), issue and its checks (R284 to R288), the
arbiter (R270), and the commands at work (R274, R278 to R283). -/

namespace Sys2Proof.Machine

/-! ## Formats (R276) -/

/-- The rows of R241. -/
inductive MRow where | half | fp64 | int | bx | mx
  deriving DecidableEq, Repr

/-- The row of a format code. -/
def fmtRow (c : Nat) : MRow :=
  if c < 2 then .half else if c = 2 then .fp64 else if c < 5 then .int else if c < 8 then .bx else .mx

/-- Bits of an element. -/
def fmtBits (c : Nat) : Nat :=
  if c < 2 then 16 else if c = 2 then 64 else if c = 3 then 8 else if c = 4 then 4 else if c = 5 then 3
  else if c = 6 then 5 else if c = 10 ∨ c = 11 then 6 else if c = 12 then 4 else 8

/-- The unit that K must respect. -/
def fmtUnit (c : Nat) : Nat := if c < 4 then 1 else if c = 4 then 2 else if c < 8 then 16 else 32

/-- Scale bytes of a unit; 0 for a format without a scale plane. -/
def fmtScale (c : Nat) : Nat := if 5 ≤ c ∧ c ≤ 7 then 2 else if 8 ≤ c ∧ c ≤ 13 then 1 else 0

/-- The feature of a format. -/
def fmtFeature (c : Nat) : Feature := if c < 5 then .mat else if c < 8 then .bxf else .mxf

/-- Bytes of a row or column of K elements (R277). -/
def fmtRowBytes (c k : Nat) : Nat := k * fmtBits c / 8

/-- Scale bytes of a row or column of K elements (R277). -/
def fmtScaleBytes (c k : Nat) : Nat := k / fmtUnit c * fmtScale c

/-- The columns of a tile (R277). -/
def fmtCols (c : Nat) : Nat := if c = 2 then 16 else 32

/-! ## Elements -/

/-- A small float of the MX family, all codes finite (R233). -/
def smallVal (eb fb bias b : Nat) : FVal :=
  let s := b / 2 ^ (eb + fb) % 2 == 1
  let e := b / 2 ^ fb % 2 ^ eb
  let m := b % 2 ^ fb
  if e = 0 then .fin s m (1 - (bias : Int) - fb) else .fin s (2 ^ fb + m) ((e : Int) - bias - fb)

/-- An n-bit two's complement field. -/
def signedField (n b : Nat) : Int := if b < 2 ^ (n - 1) then b else (b : Int) - 2 ^ n

/-- The value of an element of a format without its block's scale. -/
def elemVal (c b : Nat) : FVal :=
  if c = 0 then fmtH.val b else if c = 1 then fmtBf.val b else if c = 2 then fmtD.val b
  else if c = 8 ∨ c = 14 then e4m3Val b else if c = 9 ∨ c = 15 then e5m2Val b
  else if c = 10 then smallVal 2 3 1 b else if c = 11 then smallVal 3 2 3 b else if c = 12 then smallVal 2 1 1 b
  else
    let n := signedField 8 b
    .fin (n < 0) n.natAbs (-6)

/-- A value times 2^x. -/
def FVal.shift (x : Int) : FVal → FVal
  | .fin s m e => .fin s m (e + x)
  | v => v

/-- Element k of a row or column, from its bytes and its scale bytes (R225, R234, R238). -/
def operand (c row scale k : Nat) : FVal :=
  let w := fmtBits c
  let b := row / 2 ^ (w * k) % 2 ^ w
  match fmtRow c with
  | .bx => bxVal (w - 1) (row / 2 ^ (w * (k / 16 * 16)) % 2 ^ (w * 16)) (scale / 2 ^ (16 * (k / 16)) % 2 ^ 16) (k % 16)
  | .mx =>
    if fmtScale c = 0 then elemVal c b
    else
      let e := scale / 2 ^ (8 * (k / 32)) % 256
      if e = 0xFF then .nan false else (elemVal c b).shift ((e : Int) - 127)
  | _ => elemVal c b

/-- Element k of an integer row. -/
def operandInt (c row k : Nat) : Int := signedField (fmtBits c) (row / 2 ^ (fmtBits c * k) % 2 ^ fmtBits c)

/-! ## The order of matrix sums (R242 to R244) -/

/-- A row of A, or a column of B: its bytes and its scale bytes. -/
structure Line where
  fmt : Nat
  data : Nat
  scale : Nat
  deriving DecidableEq, Repr

/-- The exact sum of the n products from k up. -/
def blockSum (a b : Line) (k : Nat) : Nat → FVal → FVal
  | 0, s => s
  | n + 1, s =>
    let p := ((operand a.fmt a.data a.scale k).mul (operand b.fmt b.data b.scale k)).1
    blockSum a b (k + 1) n (s.add .rne p).1

/-- The block values added into c in ascending order, each rounded once to binary32 (R242, R243). -/
def blocksInto (a b : Line) (unit j : Nat) : Nat → Nat → Nat
  | 0, c => c
  | n + 1, c =>
    let bv := ((blockSum a b (unit * j) unit (.fin false 0 0)).to fmtS .rne).1
    blocksInto a b unit (j + 1) n (fAdd fmtS .rne c bv).1

/-- One fused step for each k in ascending order (R244). -/
def fusedInto (f : Fmt) (a b : Line) (k : Nat) : Nat → Nat → Nat
  | 0, c => c
  | n + 1, c =>
    let x := finish f .rne ((operand a.fmt a.data 0 k).fma .rne (operand b.fmt b.data 0 k) (f.val c))
    fusedInto f a b (k + 1) n x.1

/-- Integer products added with wraparound (R244). -/
def intInto (a b : Line) (k : Nat) : Nat → BitVec 32 → BitVec 32
  | 0, c => c
  | n + 1, c => intInto a b (k + 1) n (c + BitVec.ofInt 32 (operandInt a.fmt a.data k * operandInt b.fmt b.data k))

/-- An accumulator element after the blocks, or the k, of a row of A and a column of B (R286). -/
def tileElement (a b : Line) (k c : Nat) : Nat :=
  match fmtRow a.fmt with
  | .bx => blocksInto a b 16 0 (k / 16) c
  | .mx => blocksInto a b 32 0 (k / 32) c
  | .half => fusedInto fmtS a b 0 k c
  | .fp64 => fusedInto fmtD a b 0 k c
  | .int => (intInto a b 0 k (BitVec.ofNat 32 c)).toNat

/-! ## Issue checks (R284) -/

/-- AFMT and BFMT of mfmt (R275). -/
def afmt (m : BitVec 8) : Nat := m.toNat % 16
def bfmt (m : BitVec 8) : Nat := m.toNat / 16

/-- Whether a local range of n bytes at an own-core address fits. -/
def ownRange (a : Word) (align n : Nat) : Bool :=
  match ownAligned a align with
  | some o => o + n ≤ 65536
  | none => false

/-- The checks that an MMA's start repeats (R278): 28, 29, 31 and 33, or 0. -/
def formatCode (af bf k : Nat) (mascale : Word) (mbscale : Nat) : Nat :=
  if fmtRow af ≠ fmtRow bf then 28
  else if k = 0 ∨ 4096 < k ∨ k % fmtUnit af ≠ 0 ∨ k % fmtUnit bf ≠ 0 then 29
  else if fmtScale af ≠ 0 ∧ ownRange mascale 1 (32 * fmtScaleBytes af k) = false then 31
  else if fmtScale bf ≠ 0 ∧ 262144 < mbscale + fmtCols bf * fmtScaleBytes bf k then 33
  else 0

/-- ENGARG 28 to 33 of an MMA, the lowest failing (R284). -/
def mmaCode (af bf : Nat) (a b k mascale : Word) (mbscale : Nat) : Nat :=
  let f := formatCode af bf k.toNat mascale mbscale
  if f = 28 ∨ f = 29 then f
  else if !ownRange a 8 (32 * fmtRowBytes af k.toNat) then 30
  else if f = 31 then 31
  else if 262143 < b.toNat ∨ b.toNat % 8 ≠ 0 ∨ 262144 < b.toNat + fmtCols bf * fmtRowBytes bf k.toNat then 32
  else f

/-! ## The instructions -/

/-- W of an accumulator (R280). -/
def Core.wOf (q : Core) : Acc → Nat | .acc0 => q.w0 | .acc1 => q.w1

/-- W of an accumulator set. -/
def Core.setW (q : Core) (a : Acc) (n : Nat) : Core :=
  match a with | .acc0 => { q with w0 := n } | .acc1 => { q with w1 := n }

/-- The other accumulator. -/
def otherAcc : Acc → Acc | .acc0 => .acc1 | .acc1 => .acc0

/-- A matrix command issued once mx has room (R269), the accumulator it writes noted (R280). -/
def matrixIssue (d : Reg) (w : Option Acc) (c : Cmd) : M Unit := do
  engineWaits [4, 5]
  let s ← get
  holdUntil s.fcore.mx.room
  let n := s.fcore.mx.i + 1
  match w with
  | some a => set (s.modFcore fun q => q.setW a n)
  | none => pure ()
  issueOp .mx d c

/-- MMA (R286). -/
def execMma (n : Acc) (d a b c : Reg) (s : State) : Host.Outcome State Fault Refusal :=
  seq4 (do
    let i := Instr.mma n d a b c
    needs .mat i
    let x ← fctx
    needs (fmtFeature (afmt x.mfmt)) i
    needs (fmtFeature (bfmt x.mfmt)) i
    let va ← readX a
    let vb ← readX b
    let k ← readX c
    let code := mmaCode (afmt x.mfmt) (bfmt x.mfmt) va vb k x.mascale x.mbscale.toNat
    if code ≠ 0 then trap cENGARG (BitVec.ofNat 64 code)
    matrixIssue d (some n) (.mma n va vb k)) s

/-- ACCZ (R287). -/
def execAccz (n : Acc) (d : Reg) (s : State) : Host.Outcome State Fault Refusal :=
  seq4 (do
    needs .mat (.accz n d)
    matrixIssue d (some n) (.accz n)) s

/-- ACCLD (R287). -/
def execAccld (n : Acc) (d a : Reg) (s : State) : Host.Outcome State Fault Refusal :=
  seq4 (do
    needs .mat (.accld n d a)
    let v ← readX a
    if !ownRange v 64 4096 then trap cENGARG 34
    matrixIssue d (some n) (.accld n (bits v 15 0))) s

/-- The words of an accumulator (R279). -/
def State.accWords (s : State) (core : Nat) (a : Acc) : List (BitVec 32) :=
  (List.range 1024).map fun i => BitVec.ofNat 32 (s.read (accKey core a (4 * i)) 4)

/-- ACCST (R287): premature while Wa > Q, which traps NDREAD in CHECK, RECORD and REPLAY (R280). -/
def execAccst (n : Acc) (d a : Reg) (s : State) : Host.Outcome State Fault Refusal :=
  seq4 (do
    needs .mat (.accst n d a)
    let v ← readX a
    if !ownRange v 64 4096 then trap cENGARG 34
    let s ← get
    let w := s.fcore.wOf n
    let early : Bool := s.fcore.mxq < w
    let mode := s.fctx.lmode
    if early && (mode == 1 || mode == 2 || mode == 3) then trap cNDREAD (BitVec.ofNat 64 w)
    matrixIssue d none (.accst n (bits v 15 0) early)
    if early then
      modify fun s =>
        let h := s.accWords s.focusCore n
        s.modEngine s.focusCore .mx fun g =>
          { g with queue := g.queue.map fun o => if o.num = g.i then { o with hist := [h] } else o }) s

/-- ACCMV (R287): the other accumulator is written. -/
def execAccmv (n : Acc) (d : Reg) (s : State) : Host.Outcome State Fault Refusal :=
  seq4 (do
    needs .mat (.accmv n d)
    matrixIssue d (some (otherAcc n)) (.accmv n)) s

/-- WBLD (R288). -/
def execWbld (d a b c : Reg) (s : State) : Host.Outcome State Fault Refusal :=
  seq4 (do
    needs .mat (.wbld d a b c)
    let x ← readX a
    let v ← readX b
    let l ← readX c
    if x.toNat % 8 ≠ 0 ∨ l = 0 ∨ 65536 < l.toNat ∨ l.toNat % 8 ≠ 0 ∨ 262144 < x.toNat + l.toNat then trap cENGARG 35
    let own := (ownOff v).isSome
    if !(own || (bits v 63 55 == 0)) || v.toNat % 8 != 0 || (own && 65536 < bits v 15 0 + l.toNat) then trap cENGARG 36
    matrixIssue d none (.wbld x.toNat v l.toNat)) s

/-! ## The arbiter (R270) -/

/-- A core's head command may start (R269). WBLD takes the fill port, every other the array. -/
def State.mxReady (s : State) (core : Nat) (fill : Bool) : Bool :=
  let g := (s.core core).mx
  match g.queue with
  | [] => false
  | o :: _ =>
    let w := match o.cmd with | .wbld _ _ _ => true | _ => false
    w == fill && !o.started && !g.barred o.num && o.stores.isEmpty && o.posted.isEmpty && s.enginesRun core

/-- The index the arbiter starts from next, n visits left: the command's core, and the arbiter after it. -/
def arbitrate (ready : Nat → Bool) (weight : Nat → Nat) : Nat → Nat → Nat → Option (Nat × Nat × Nat)
  | 0, _, _ => none
  | n + 1, idx, left =>
    if 0 < left ∧ ready idx then some (idx, idx, left - 1)
    else
      let next := (idx + 1) % 8
      arbitrate ready weight n next (weight next)

/-! ## Reads of a command (R274, R278, R281) -/

/-- The words that hold n bytes from a key. -/
def wordKeys (key n : Nat) : List Nat :=
  if n = 0 then []
  else
    let lo := key / 8
    let hi := (key + n - 1) / 8
    (List.range (hi + 1 - lo)).map fun i => 8 * (lo + i)

/-- The ranges an MMA reads: A, A's scales, B, B's scales, each by key and bytes. -/
def mmaRanges (core : Nat) (a b k : Word) (f : BitVec 8 × Word × BitVec 18) : List (Nat × Nat) :=
  let af := afmt f.1
  let bf := bfmt f.1
  let n := k.toNat
  let o := octetOf core
  [(localKey core (bits a 15 0), 32 * fmtRowBytes af n),
    (localKey core (bits f.2.1 15 0), 32 * fmtScaleBytes af n),
    (bufKey o b.toNat, fmtCols bf * fmtRowBytes bf n),
    (bufKey o f.2.2.toNat, fmtCols bf * fmtScaleBytes bf n)]

/-- The first poisoned word of a local range: its byte offset in the range. -/
def State.rangePoison (s : State) (r : Nat × Nat) : Option Nat :=
  match (wordKeys r.1 r.2).find? fun k => s.poisoned k with
  | some k => some (k - r.1)
  | none => none

/-- The words of ranges as they stand. -/
def State.snapRanges (s : State) (l : List (Nat × Nat)) : List (Nat × Word) :=
  l.flatMap fun r => (wordKeys r.1 r.2).map fun k => (k, s.word k)

/-- The words a command has read: each that changed since its start is the old or the new one, freely (R274, R281). -/
def State.settleWords (s : State) : List (Nat × Word) → List Host.Cell × State
  | [] => ([], s)
  | (k, v) :: t =>
    let now := s.word k
    let r : Word × State :=
      if now = v || s.poisoned k then (v, s) else let b := s.drawBit; (if b.1 then now else v, b.2)
    let x := r.2.settleWords t
    (memWrite x.1 k 8 r.1.toNat, x.2)

/-- The values sampled at an MMA's start (R278). -/
def State.sampled (s : State) (core : Nat) (o : EngOp) : BitVec 8 × Word × BitVec 18 :=
  match o.sample with
  | some v => v
  | none =>
    let c := s.ctx core o.owner.ctx
    (c.mfmt, c.mascale, c.mbscale)

/-- The recheck of an MMA's start (R278). -/
def State.recheck (s : State) (core : Nat) (k : Word) (f : BitVec 8 × Word × BitVec 18) : Bool :=
  let p := s.partAt core
  p.enabled (fmtFeature (afmt f.1)) && p.enabled (fmtFeature (bfmt f.1))
    && formatCode (afmt f.1) (bfmt f.1) k.toNat f.2.1 f.2.2.toNat == 0

/-! ## Starting -/

/-- The head command of a core's mx changed. -/
def State.modMx (s : State) (core : Nat) (f : EngOp → EngOp) : State := s.modEngine core .mx fun g => g.modHead f

/-- One word of a premature ACCST: the accumulator's word after some prefix, freely (R280). -/
def pickWord (hist : List (List (BitVec 32))) (i : Nat) (s : State) : BitVec 32 × State :=
  let vals := hist.map fun h => h.getD i 0
  match vals with
  | [] => (0, s)
  | v :: t =>
    if t.all (· == v) then (v, s)
    else
      let p := s.drawPick
      (vals.getD (p.1 % vals.length) v, p.2)

/-- The words an ACCST stores, from word i up. -/
def pickWords (hist : List (List (BitVec 32))) (i : Nat) : Nat → State → List (BitVec 32) × State
  | 0, s => ([], s)
  | n + 1, s =>
    let r := pickWord hist i s
    let t := pickWords hist (i + 1) n r.2
    (r.1 :: t.1, t.2)

/-- Words joined by pairs into 8-byte words. -/
def pairWords : List (BitVec 32) → List Word
  | a :: b :: t => (b ++ a) :: pairWords t
  | _ => []

/-- The head command of a core starts: what it reads is noted, or mx halts (R278, R282). Of several poisoned words of an MMA
it reports the lowest of the A range, else of A's scales (DESIGN CHOICE, log entry 38). -/
def State.startMx (s : State) (core : Nat) (o : EngOp) : State :=
  let begin' (s : State) (snap : List (Nat × Word)) (f : BitVec 8 × Word × BitVec 18) : State :=
    s.modMx core fun o => { o with started := true, snap := snap, fmt := f }
  match o.cmd with
  | .mma _ a b k =>
    let f := s.sampled core o
    if !s.recheck core k f then s.haltEngine core .mx 9 0 o.num
    else
      let l := mmaRanges core a b k f
      match (l.take 2).filterMap s.rangePoison with
      | e :: _ => s.haltEngine core .mx 5 e o.num
      | [] => begin' s (s.snapRanges l) f
  | .accld _ a =>
    let r := (localKey core a, 4096)
    match s.rangePoison r with
    | some e => s.haltEngine core .mx 5 e o.num
    | none => begin' s (s.snapRanges [r]) o.fmt
  | .accst n _ early =>
    let r := pickWords (if early then o.hist else [s.accWords core n]) 0 1024 s
    (begin' r.2 [] o.fmt).modMx core fun o => { o with values := pairWords r.1, read := true }
  | _ => begin' s [] o.fmt

/-- An exchange of residents holds own words that a command reads at its start (R349). -/
def State.mxSwaps (s : State) (core : Nat) (o : EngOp) : Bool :=
  match o.cmd with
  | .mma _ a b k =>
    ((mmaRanges core a b k (s.sampled core o)).take 2).any fun r => r.2 != 0 && s.swapping core (r.1 % 65536) r.2
  | .accld _ a => s.swapping core a 4096
  | _ => false

/-- What an MMA would sample (R278) a load that is still to be answered may undo: an instruction that ran ahead of it has
changed the values (R93). -/
def State.sampleOpen (s : State) (core : Nat) (o : EngOp) : Bool :=
  let c := s.ctx core o.owner.ctx
  let r := s.sampled core o
  match o.cmd with
  | .mma _ _ _ _ => o.sample.isNone && c.pend.any fun p => match p.saved with
    | some x => (x.mfmt, x.mascale, x.mbscale) != r
    | none => false
  | _ => false

/-- A core's head command waits for an exchange of residents, or for what it samples. -/
def State.mxHeld (s : State) (core : Nat) : Bool :=
  match (s.core core).mx.queue with
  | [] => false
  | o :: _ => s.mxSwaps core o || s.sampleOpen core o

/-- A core's head command may start now. -/
def State.mxStarts (s : State) (core : Nat) (fill : Bool) : Bool := s.mxReady core fill && !s.mxHeld core

/-- The state after the arbiter has chosen (R270). -/
def State.arbiter (s : State) (oct : Nat) : Option (Nat × State) :=
  let x := s.octet oct
  match arbitrate (fun i => s.mxStarts (octetCore oct i) false) (fun i => (s.core (octetCore oct i)).mxwt.toNat) 9
      x.arbIdx x.arbLeft with
  | none => none
  | some (i, idx, left) => some (octetCore oct i, s.modOctet oct fun x => { x with arbIdx := idx, arbLeft := left })

/-- The array or the fill port given to the head command of a core, which starts. -/
def State.giveMx (s : State) (oct core : Nat) (fill : Bool) : State :=
  match (s.core core).mx.queue with
  | [] => s
  | o :: _ =>
    let s := s.startMx core o
    let again := s.flyOnce (octetPlace oct) (octetPlace oct) 2 (.matrixCommandStart oct fill)
    if (s.core core).mx.barred o.num then again
    else
      let s := s.modOctet oct fun x =>
        if fill then { x with fill := some (core, o.num) } else { x with array := some (core, o.num) }
      s.flyOnce (octetPlace oct) (octetPlace oct) 2 (.matrixCommandComplete oct fill 8192)

/-- MATRIX_COMMAND_START (R269, R270, R278): the free array takes the arbiter's choice; the free fill port takes a WBLD, of
several cores' the one of lowest in-octet index (DESIGN CHOICE, log entry 38); a WBLD whose answer has come goes on. -/
def execMatrixCommandStart (octet : Nat) (fill : Bool) (s : State) : Host.Outcome State Fault Refusal :=
  change (fun s =>
    let x := s.octet octet
    if fill then
      match x.fill with
      | some (core, _) =>
        match (s.core core).mx.queue with
        | o :: _ =>
          if o.started && o.posted.isEmpty then
            s.flyOnce (octetPlace octet) (octetPlace octet) 2 (.matrixCommandComplete octet true 8192)
          else s
        | [] => s
      | none =>
        match (List.range 8).find? fun i => s.mxReady (octetCore octet i) true with
        | some i => s.giveMx octet (octetCore octet i) true
        | none => s
    else if x.array.isSome then s
    else match s.arbiter octet with
      | none =>
        let s := s.modOctet octet fun x => { x with arbLeft := 0 }
        if (List.range 8).any fun i => s.mxReady (octetCore octet i) false then s.armIn 1 (.matrixCommandStart octet false) else s
      | some (core, s) => s.giveMx octet core false) s

/-! ## Completing (R282) -/

/-- The accumulator words after an MMA (R286). -/
def mmaResult (cells : List Host.Cell) (core : Nat) (a b k : Word) (f : BitVec 8 × Word × BitVec 18)
    (old : List (BitVec 32)) : List (BitVec 32) :=
  let af := afmt f.1
  let bf := bfmt f.1
  let n := k.toNat
  let o := octetOf core
  let ra := fmtRowBytes af n
  let sa := fmtScaleBytes af n
  let rb := fmtRowBytes bf n
  let sb := fmtScaleBytes bf n
  let rowA (i : Nat) : Line := ⟨af, memRead cells (localKey core (bits a 15 0) + i * ra) ra,
    memRead cells (localKey core (bits f.2.1 15 0) + i * sa) sa⟩
  let colB (j : Nat) : Line := ⟨bf, memRead cells (bufKey o b.toNat + j * rb) rb,
    memRead cells (bufKey o f.2.2.toNat + j * sb) sb⟩
  let cols := (List.range (fmtCols bf)).map colB
  let word (i : Nat) : Nat := (old.getD i 0).toNat
  (List.range 32).flatMap fun i =>
    let r := rowA i
    if af = 2 then
      (cols.zipIdx).flatMap fun c =>
        let v := tileElement r c.1 n (word (32 * i + 2 * c.2) + 2 ^ 32 * word (32 * i + 2 * c.2 + 1))
        [BitVec.ofNat 32 v, BitVec.ofNat 32 (v / 2 ^ 32)]
    else (cols.zipIdx).map fun c => BitVec.ofNat 32 (tileElement r c.1 n (word (32 * i + c.2)))

/-- Words stored in an accumulator. -/
def putAcc (m : List Host.Cell) (key : Nat) : List (BitVec 32) → List Host.Cell
  | [] => m
  | w :: t => putAcc (memWrite m key 4 w.toNat) (key + 4) t

/-- An accumulator written, all words at once; the premature ACCSTs queued see one more state (R280). -/
def State.setAcc (s : State) (core : Nat) (a : Acc) (l : List (BitVec 32)) : State :=
  let s := { s with mem := putAcc s.mem (accKey core a 0) l }
  s.modEngine core .mx fun g =>
    { g with queue := g.queue.map fun o => match o.cmd with
      | .accst n _ true => if n = a ∧ o.started = false then { o with hist := o.hist ++ [l] } else o
      | _ => o }

/-- Words of an accumulator from bytes. -/
def accOf (cells : List Host.Cell) (key : Nat) : List (BitVec 32) :=
  (List.range 1024).map fun i => BitVec.ofNat 32 (memRead cells (key + 4 * i) 4)

/-- Up to n of the 8-byte words of an ACCST stored, in ascending address order, each folded (R287, R386); none while they
are held (R349). -/
def State.accstWords (s : State) (core a : Nat) : Nat → State
  | 0 => s
  | n + 1 =>
    match (s.core core).mx.queue with
    | [] => s
    | o :: _ =>
      match o.values[o.next]? with
      | none => s
      | some v =>
        let off := a + 8 * o.next
        let s := s.storeBytes core (localKey core off) 8 v
        (s.modMx core fun o => { o with next := o.next + 1, e := foldStore o.e (ownForm off) v 8 0 0 }).accstWords core a n

/-- The array freed, the command complete (R269), counted (R460); what may start next is looked for. -/
def State.arrayDone (s : State) (oct core : Nat) (o : EngOp) : State :=
  let s := (s.modOctet oct fun x => { x with array := none }).finishOp core .mx o
  (s.count oct 3 1).flyOnce (octetPlace oct) (octetPlace oct) 2 (.matrixCommandStart oct false)

/-- The running command of the array completes, or goes on. -/
def State.arrayWork (s : State) (oct core n : Nat) (o : EngOp) : State :=
  match o.cmd with
  | .mma a x b k =>
    let r := s.settleWords o.snap
    (r.2.setAcc core a (mmaResult r.1 core x b k o.fmt (r.2.accWords core a))).arrayDone oct core o
  | .accz a => (s.setAcc core a (List.replicate 1024 0)).arrayDone oct core o
  | .accld a x =>
    let r := s.settleWords o.snap
    (r.2.setAcc core a (accOf r.1 (localKey core x))).arrayDone oct core o
  | .accmv a => (s.setAcc core (otherAcc a) (s.accWords core a)).arrayDone oct core o
  | .accst _ x _ =>
    if s.swapping core x 4096 then s.armIn 1 (.matrixCommandComplete oct false n)
    else
      let s := s.accstWords core x n
      match (s.core core).mx.queue with
      | [] => s
      | o :: _ =>
        if o.next < o.values.length then
          s.flyOnce (octetPlace oct) (octetPlace oct) 2 (.matrixCommandComplete oct false n)
        else s.arrayDone oct core o
  | _ => s

/-- Word u of a WBLD (R288), the work to be taken up by the event ev. -/
def State.wbldUnit (s : State) (core : Nat) (ev : Event) (o : EngOp) (d : Nat) (a : Word) : Work :=
  let off := 8 * o.next
  let put (s : State) (v : Nat) : Work :=
    let s := s.write (bufKey (octetOf core) (d + off)) 8 v
    .moved (s.modMx core fun o => { o with next := o.next + 1, snap := [] })
  match ownOff a with
  | some x => s.readLines core .mx ev o (s.localLines core (x + off) 8) put
  | none =>
    let va := a.toNat + off
    if 2 ^ 55 < va + 8 then .bad 2 s
    else match s.unitAt core .mx 8 .read (.virt va) with
      | (.error k, s) => .untranslated k s
      | (.ok l, s) => s.readLines core .mx ev o l put

/-- The fill port freed; what may start next is looked for. -/
def State.fillFree (s : State) (oct : Nat) : State :=
  let s := s.modOctet oct fun x => { x with fill := none }
  (s.flyOnce (octetPlace oct) (octetPlace oct) 2 (.matrixCommandStart oct true)).flyOnce (octetPlace oct) (octetPlace oct) 2
    (.matrixCommandStart oct false)

/-- The fill port of a core's octet freed if the WBLD that has it has been dropped (R283). -/
def State.dropFill (s : State) (core : Nat) : State :=
  match (s.octet (octetOf core)).fill with
  | some (c, n) => if c = core && (s.core core).mx.queue.all (fun o => o.num != n) then s.fillFree (octetOf core) else s
  | none => s

/-- Up to k words of the running WBLD, in a stretch asked for as n. -/
def State.fillWork (s : State) (oct core n : Nat) : Nat → State
  | 0 => s.flyOnce (octetPlace oct) (octetPlace oct) 2 (.matrixCommandComplete oct true n)
  | k + 1 =>
    match (s.core core).mx.queue with
    | [] => s.fillFree oct
    | o :: _ =>
      match o.cmd with
      | .wbld d a len =>
        if !o.posted.isEmpty || !s.channelGoes core o then s
        else if len ≤ 8 * o.next then ((s.finishOp core .mx o).count oct 3 1).fillFree oct
        else
          let ev := Event.matrixCommandComplete oct true n
          match s.wbldUnit core ev o d a with
          | .moved s => s.fillWork oct core n k
          | .more s => s.flyOnce (octetPlace oct) (octetPlace oct) 2 ev
          | .stall s => s.armIn 1 ev
          | .wait s => s
          | .bad kind s => (s.haltEngine core .mx kind (8 * o.next) o.num).fillFree oct
      | _ => s.fillFree oct

/-- MATRIX_COMMAND_COMPLETE (R282, R288): the running command of the array commits, or stores up to n words; the running
WBLD moves up to n words. A command that was dropped commits nothing (R283). -/
def execMatrixCommandComplete (octet : Nat) (fill : Bool) (n : Nat) (s : State) : Host.Outcome State Fault Refusal :=
  change (fun s =>
    let x := s.octet octet
    if fill then
      match x.fill with
      | none => s
      | some (core, num) =>
        match (s.core core).mx.queue with
        | o :: _ =>
          if o.num = num ∧ (s.core core).mx.barred num = false then s.fillWork octet core n n else s.fillFree octet
        | [] => s.fillFree octet
    else
      match x.array with
      | none => s
      | some (core, num) =>
        let free (s : State) : State :=
          (s.modOctet octet fun x => { x with array := none }).flyOnce (octetPlace octet) (octetPlace octet) 2
            (.matrixCommandStart octet false)
        match (s.core core).mx.queue with
        | o :: _ =>
          if o.num = num ∧ (s.core core).mx.barred num = false then s.arrayWork octet core n o else free s
        | [] => free s) s

/-! ## Recovery (R271) -/

/-- mx recovered: Q := I (R280). -/
def State.recoverMx (s : State) (core : Nat) : State :=
  if (s.core core).mx.halt.isSome then
    (s.recover core .mx).modCore core fun q => { q with mxq := q.mx.i }
  else s

/-- MXSTAT_RECOVER (R271): a write of 1 to HALT. -/
def execMxstatRecover (core : Nat) (s : State) : Host.Outcome State Fault Refusal := change (fun s => s.recoverMx core) s

end Sys2Proof.Machine
end

