-- ==== Sys2Proof/Machine/Waits.lean ====
section
/-! DEFINITION. The waits and time: CWAIT, HWAIT, GBAR, GWAIT, JOIN, WAITC, WAITW and WAITA (R144, R155, R168, R337, R362,
R370), alarms and deadlines (R364 to R367), the time reads (R368), and the events of time. -/

namespace Sys2Proof.Machine

/-! ## What a wait sees (R370) -/

/-- What CWAIT sees of an engine under a deadline (R144): nothing yet, its success, or the fault it traps with. -/
inductive Seen where
  | nothing
  | success
  | fault (eidx : Nat)
  deriving DecidableEq, Repr

/-- The tests of CWAIT's loop on the events stamped before t (0: all). -/
def Engine.seen (g : Engine) (n t : Word) : Seen :=
  let aband := match g.aband with
    | some (f, i, eidx, stamp) => if f ≤ n.toNat && n.toNat ≤ i && counts stamp t then some eidx else none
    | none => none
  let halt := match g.halt with
    | some (_, eidx, f, stamp) => if f ≤ n.toNat && counts stamp t then some eidx else none
    | none => none
  match aband, halt with
  | some e, _ => .fault e
  | none, some e => .fault e
  | none, none => if n = 0 || g.hist.any (fun p => n.toNat ≤ p.1 && counts p.2 t) then .success else .nothing

/-- The halo counter of a direction. -/
def Core.halo (q : Core) : Dir → HaloCount
  | .n => q.haloN | .e => q.haloE | .s => q.haloS | .w => q.haloW

/-- A halo counter has reached n by an increment stamped before t. -/
def HaloCount.seen (h : HaloCount) (n t : Word) : Bool :=
  n == 0 || h.hist.any fun p => n.toNat ≤ p.1 && counts p.2 t

/-- BSEEN, as the last release stamped before t left it, is past generation n (R168). -/
def GroupSlot.seen (x : GroupSlot) (n : BitVec 32) (t : Word) : Bool :=
  match (x.hist.filter fun p => counts p.2 t).getLast? with
  | some p => 1 ≤ (p.1 - n).toNat && (p.1 - n).toNat < 2 ^ 31
  | none => false

/-- The key of the word whose tag says that a join slot is full (R223). -/
def joinKey (core base k : Nat) : Nat := localKey core (base + 16 * k + 8)

/-- A join slot was filled before t. -/
def State.slotFull (s : State) (core base : Nat) (t : Word) (k : Nat) : Bool :=
  match mapFind s.tags (joinKey core base k) with
  | some stamp => counts stamp t
  | none => false

/-- The stamp of an alarm slot that has fired before t. -/
def Alarm.firedBefore (a : Alarm) (t : Word) : Option Nat :=
  match a with
  | .fired n => if counts n t then some n else none
  | _ => none

/-- An alarm slot that is neither armed nor fired. -/
def Alarm.isIdle (a : Alarm) : Bool := match a with | .idle => true | _ => false

/-- The slot that WAITA returns (R362): the lowest stamp, a tie to slot 0. -/
def Ctx.firstAlarm (c : Ctx) (t : Word) : Option Nat :=
  match c.alarm0.firedBefore t, c.alarm1.firedBefore t with
  | some a, some b => some (if a ≤ b then 0 else 1)
  | some _, none => some 0
  | none, some _ => some 1
  | none, none => none

/-- Whether the event that completes a wait of a context has come, counting those stamped before t (0: all). A barrier wait
whose group slot GLEAVE frees sees nothing more and ends at its deadline (DESIGN CHOICE: R168 does not say; log entry 38). -/
def State.waitSeen (s : State) (core k : Nat) (w : Wait) (t : Word) : Bool :=
  match w with
  | .engine e n _ => ((s.core core).engine e).seen n t != .nothing
  | .halo d n _ => ((s.core core).halo d).seen n t
  | .barrier g n _ _ => match s.slot core g with | some x => x.seen n t | none => false
  | .join _ n base _ => (List.range n).all fun i => s.slotFull core base t i
  | .cycles _ => match (s.ctx core k).waitTarget with | some n => n ≤ s.cycle core | none => false
  | .wall at' d => s.reached at' && (d == 0 || at'.toNat < d.toNat) && (t == 0 || at'.toNat < t.toNat)
  | .alarm _ _ =>
    let c := s.ctx core k
    (c.alarm0.isIdle && c.alarm1.isIdle) || (c.firstAlarm t).isSome

/-- The deadline of a wait, 0 for none. -/
def Wait.limit : Wait → Word
  | .engine _ _ t => t
  | .halo _ _ t => t
  | .barrier _ _ t _ => t
  | .join _ _ _ t => t
  | .cycles _ => 0
  | .wall _ d => d
  | .alarm _ d => d

/-- The earlier of two deadlines, 0 being none. -/
def earlier (a b : Word) : Word := if a = 0 then b else if b = 0 then a else if a.toNat ≤ b.toNat then a else b

/-! ## How a wait ends -/

/-- status.TO of the focus context. -/
def setTo (v : Bool) : M Unit := modF fun c => { c with tmo := v }

/-- How REPLAY steers a timed wait (R393): as it comes, to the performance, or to the timeout that was logged. -/
inductive Steer where
  | plain
  | perform
  | expire
  deriving DecidableEq, Repr

/-- The steering of a timed wait of the focus context by what the log holds for it. -/
def State.steer (s : State) (t : Word) : Steer :=
  let c := s.fctx
  let tag := c.tag.toNat % 2 ^ 45
  if t = 0 then .plain
  else match s.loggedEntry (s.pidOf s.focusCore) c.lnum.toNat s.focusCore 5 tag (2 ^ 45) with
    | none => .plain
    | some w => if entryData w < 2 ^ 45 then .perform else .expire

/-- The wall time at which a wait is looked at, 0 for none, and whether it is its deadline. -/
def Wait.due : Wait → Word × Bool
  | .wall t d => if d ≠ 0 ∧ d.toNat ≤ t.toNat then (d, true) else (t, false)
  | w => (w.limit, true)

/-- The event that looks at a wait of a context when its time comes, armed once; none for a time that has passed. -/
def State.armWait (s : State) (core k : Nat) : State :=
  match (s.ctx core k).wait with
  | none => s
  | some w =>
    let e := if w.due.2 then Event.waitDeadlineExpiry core k else .waitTargetReached core k
    if w.due.1 = 0 ∨ s.reached w.due.1 = true then s else (s.disarm e).armAt w.due.1 e

/-- The wait of the focus context goes on. -/
def goOn {α : Type} (orig : State) : M α := throw (.blockIn (orig.armWait orig.focusCore orig.focusCtx))

/-- A timed wait decided (R370, R374): performed when its event counts, timed out when wall has reached t, else waiting on.
orig is the state with the wait registered. -/
def timedWait (orig : State) (t : Word) (seen : Word → Bool) (perform expire : M Unit) : M Unit := do
  let st := orig.steer t
  let tag := orig.fctx.tag.toNat % 2 ^ 45
  if st ≠ .expire ∧ seen (if st = .perform then 0 else t) = true then
    if t ≠ 0 then
      let _ ← decideHere orig 5 tag (2 ^ 46) []
    setTo false
    perform
  else if t ≠ 0 ∧ st ≠ .perform ∧ orig.reached t = true then
    let _ ← decideHere orig 5 (tag + 2 ^ 45) (2 ^ 46) []
    setTo true
    expire
  else goOn orig

/-- The digests of the task's operations that a CWAIT for n acquires, folded into D in order of J (R386). -/
def foldDone (d : Word) (l : List DoneOp) : Word :=
  l.foldl (fun d o => fold (fold d (BitVec.ofNat 64 (2 ^ 63 + o.owner.j))) o.e) d

/-- A completed operation placed by J. -/
def doneIns (o : DoneOp) : List DoneOp → List DoneOp
  | [] => [o]
  | p :: t => if o.owner.j < p.owner.j then o :: p :: t else p :: doneIns o t

/-- A CWAIT for n on an engine has succeeded: what it acquires of its own task is folded (R386), and a wait on mx is
noted for the accumulators (R280). -/
def cwaitDone (e : Eng) (n : Word) : M Unit := do
  let s ← get
  let k := s.focusCtx
  let c := s.fctx
  let g := s.fcore.engine e
  let mine (o : DoneOp) : Bool := o.num ≤ n.toNat && o.owner.ctx == k && o.owner.task == c.task && !o.owner.remote
  let l := (g.done.filter mine).foldl (fun l o => doneIns o l) []
  let s := s.modFcore fun q => q.setEngine e { g with done := g.done.filter fun o => !mine o }
  let s := match e with | .mx => s.modFcore fun q => { q with mxq := Nat.max q.mxq n.toNat } | _ => s
  set (s.modF fun c => { c with digest := foldDone c.digest l })

/-- A JOIN's slots emptied as one step (R337), and the deliveries that this lets go (R191), with the JOIN's origin tag; the
JOIN waits on where Madder holds them (R392, R393). orig is the state with the wait registered. -/
def emptySlots (orig : State) (core base n : Nat) : M Unit := do
  let c := orig.fctx
  let pid := orig.pidOf core
  let keys := (List.range n).map fun i => joinKey core base i
  let act (s : State) : State :=
    keys.foldl (fun s key => s.tryHeld core key c.tag) (keys.foldl (fun s key => s.setTag key false) s)
  match (← get).wakeTry pid c.lnum.toNat core orig.focusCtx c.tag act with
  | some t => set t
  | none => throw (.blockIn (orig.waitLog pid core orig.focusCtx c.tag (orig.recMode pid c.lnum.toNat == 3)))

/-- The full slots counted upward from slot 0, of those filled before t (R337). -/
def State.fullSlots (s : State) (core base : Nat) (t : Word) (n : Nat) : Nat :=
  ((List.range n).takeWhile fun i => s.slotFull core base t i).length

/-- The lowest poisoned word of a JOIN's slots, as its address (R337). -/
def State.poisonedSlot (s : State) (core base n : Nat) : Option Word :=
  ((List.range n).find? fun i => s.poisoned (joinKey core base i)).map fun i =>
    BitVec.ofNat 64 (0xFC00000000000000 + base + 16 * i + 8)

/-- The value that WAITA returns by the log (R393). -/
def State.loggedAlarm (s : State) : Option Nat :=
  let c := s.fctx
  (s.loggedEntry (s.pidOf s.focusCore) c.lnum.toNat s.focusCore 9 c.tag.toNat (2 ^ 44)).map fun w =>
    entryData w / 2 ^ 44 % 4

/-- WAITA's outcome v, logged as TYPE 9 (R390), with the slot it consumes. -/
def alarmOutcome (orig : State) (rd : Reg) (v : Nat) : M Unit := do
  let _ ← decideHere orig 9 (orig.fctx.tag.toNat % 2 ^ 44 + v * 2 ^ 44) (2 ^ 46) []
  modF fun c => if v = 0 then { c with alarm0 := .idle } else if v = 1 then { c with alarm1 := .idle } else c
  setTo (v == 3)
  writeX rd (BitVec.ofNat 64 v)
  countEvent

/-- WAITA decided (R362, R393). -/
def pollAlarm (orig : State) (rd : Reg) (d : Word) : M Unit := do
  let c := orig.fctx
  let expired := d != 0 && orig.reached d
  match orig.loggedAlarm with
  | some 0 => if (c.alarm0.firedBefore 0).isSome then alarmOutcome orig rd 0 else goOn orig
  | some 1 => if (c.alarm1.firedBefore 0).isSome then alarmOutcome orig rd 1 else goOn orig
  | some 3 => if expired then alarmOutcome orig rd 3 else goOn orig
  | some _ => alarmOutcome orig rd 2
  | none =>
    if c.alarm0.isIdle && c.alarm1.isIdle then alarmOutcome orig rd 2
    else match c.firstAlarm d with
      | some i => alarmOutcome orig rd i
      | none => if expired then alarmOutcome orig rd 3 else goOn orig

/-- One look of a registered wait of the focus context at its port: it ends, traps, or goes on. -/
def poll (w : Wait) : M Unit := do
  let orig ← get
  let core := orig.focusCore
  let seen := orig.waitSeen core orig.focusCtx w
  match w with
  | .engine e n t =>
    let eff := if orig.steer t = .perform then 0 else t
    match (if orig.steer t = .expire then Seen.nothing else (orig.fcore.engine e).seen n eff) with
    | .fault eidx => trap cENGFAULT (BitVec.ofNat 64 eidx)
    | _ =>
      timedWait orig t seen (cwaitDone e n) (pure ())
      if t ≠ 0 then countEvent
  | .halo _ _ t =>
    timedWait orig t seen (pure ()) (pure ())
    if t ≠ 0 then countEvent
  | .barrier _ _ t gbar =>
    timedWait orig t seen (pure ()) (pure ())
    if gbar then modF fun c => { c with ap := false }
    countEvent
  | .join rd n base t =>
    if n ≠ 0 ∧ orig.swapping core base (16 * n) = true then goOn orig
    match orig.poisonedSlot core base n with
    | some va => trap cPOISON va
    | none =>
      timedWait orig t seen
        (do
          emptySlots orig core base n
          writeX rd (BitVec.ofNat 64 n))
        (writeX rd (BitVec.ofNat 64 (orig.fullSlots core base t n)))
      countEvent
  | .cycles _ => timedWait orig 0 seen (pure ()) (pure ())
  | .wall at' d =>
    timedWait orig d (fun t => orig.reached at' && (t == 0 || at'.toNat < t.toNat)) (pure ()) (pure ())
    if d ≠ 0 then countEvent
  | .alarm rd d => pollAlarm orig rd d

/-- The wait of an instruction registered with its context, back the stream slots before it, and looked at once. -/
def beginWait (back : Vector (Option Stream) 6) (w : Wait) (target : Option Nat) : M Unit := do
  modF fun c => { c with wait := some w, waitBack := back, waitTarget := target }
  poll w

/-- A wait instruction: one that waits already looks again; else its operands are read and its wait begins. -/
def waiting (begin' : Vector (Option Stream) 6 → M Unit) : M Unit := do
  let c ← fctx
  match c.wait with
  | some w => poll w
  | none => begin' c.streams

/-! ## The waits -/

/-- CWAIT (R144). -/
def execCwait (e : Eng) (a b : Reg) (s : State) : Host.Outcome State Fault Refusal :=
  seq4 (waiting fun back => do
    let n ← readX a
    let t ← readX b
    noLoad
    if ((← get).fcore.engine e).i < n.toNat then trap cENGARG 16
    beginWait back (.engine e n t) none) s

/-- HWAIT (R155). -/
def execHwait (d : Dir) (a b : Reg) (s : State) : Host.Outcome State Fault Refusal :=
  seq4 (waiting fun back => do
    let n ← readX a
    let t ← readX b
    beginWait back (.halo d n t) none) s

/-- GBAR (R168): GARR's steps unless AP says that they are done; then the wait for the generation kept. -/
def execGbar (a b : Reg) (s : State) : Host.Outcome State Fault Refusal :=
  seq4 (waiting fun back => do
    needs .coll (.gbar a b)
    let g ← readX a
    let t ← readX b
    noLoad
    if !(← fctx).ap then
      let x ← arrive g
      modF fun c => { c with waitGen := x.bseen, ap := true }
    let n := (← fctx).waitGen
    beginWait back (.barrier g.toNat n t true) none) s

/-- GWAIT (R168). Reserved bits are tested before the slot, as in R168's steps, though R179 reports the lowest failing code
(DESIGN CHOICE, log entry 38). -/
def execGwait (a b : Reg) (s : State) : Host.Outcome State Fault Refusal :=
  seq4 (waiting fun back => do
    needs .coll (.gwait a b)
    let t ← readX a
    let d ← readX b
    if bits t 63 48 ≠ 0 ∨ bits t 15 12 ≠ 0 then trap cENGARG 27
    let g := bits t 11 0
    let s ← get
    if (s.slot s.focusCore g).isNone then trap cENGARG 19
    beginWait back (.barrier g (BitVec.ofNat 32 (bits t 47 16)) d false) none) s

/-- JOIN (R337). -/
def execJoin (d a b : Reg) (s : State) : Host.Outcome State Fault Refusal :=
  seq4 (waiting fun back => do
    let n ← readX a
    let t ← readX b
    let base := (← fctx).joinBase.toNat * 16
    if 256 < n.toNat ∨ 65536 < base + 16 * n.toNat then trap cACCESS n
    fullFence
    fenced [0]
    beginWait back (.join d n.toNat base t) none) s

/-- WAITC (R362). -/
def execWaitc (a : Reg) (s : State) : Host.Outcome State Fault Refusal :=
  seq4 (waiting fun back => do
    let n ← readX a
    if 2 ^ 48 ≤ n.toNat then trap cACCESS n
    let s ← get
    beginWait back (.cycles n.toNat) (some (s.cycle s.focusCore + Nat.max 1 n.toNat))) s

/-- WAITW (R362). -/
def execWaitw (a b : Reg) (s : State) : Host.Outcome State Fault Refusal :=
  seq4 (waiting fun back => do
    let t ← readX a
    let d ← readX b
    beginWait back (.wall t d) none) s

/-- WAITA (R362). -/
def execWaita (d b : Reg) (s : State) : Host.Outcome State Fault Refusal :=
  seq4 (waiting fun back => do
    let t ← readX b
    beginWait back (.alarm d t) none) s

/-! ## Time reads (R368, R374) -/

/-- CYC of a core (R357, R359). -/
def State.ratio (s : State) (c : Nat) : BitVec 10 := (s.octet (octetOf c)).ratio[inOctet c % 8]'(Nat.mod_lt _ (by decide))

/-- A value of time read by the focus context, a decision of TYPE 4: of kind 0 cycle, 1 wall, 2 ratio (R390). -/
def timeValue (kind : Nat) : M Word := do
  let orig ← get
  let c := orig.fctx
  let now : Word :=
    if kind = 0 then BitVec.ofNat 64 (orig.cycle orig.focusCore)
    else if kind = 1 then BitVec.ofNat 64 orig.wallNs
    else (orig.ratio orig.focusCore).zeroExtend 64
  let v ← decideHere orig 4 (c.tag.toNat % 2 ^ 44 + kind * 2 ^ 44) (2 ^ 46) [now]
  countEvent
  return v.getD now

/-- RDCYC (R368). -/
def execRdcyc (d : Reg) (s : State) : Host.Outcome State Fault Refusal := seq4 (do writeX d (← timeValue 0)) s

/-- RDWALL (R368). -/
def execRdwall (d : Reg) (s : State) : Host.Outcome State Fault Refusal := seq4 (do writeX d (← timeValue 1)) s

/-! ## Alarms (R364) -/

/-- A slot of a context written. -/
def Ctx.setAlarm (c : Ctx) (a : Nat) (v : Alarm) : Ctx := if a = 0 then { c with alarm0 := v } else { c with alarm1 := v }

/-- A slot of a context. -/
def Ctx.alarm (c : Ctx) (a : Nat) : Alarm := if a = 0 then c.alarm0 else c.alarm1

/-- ALC (R364). -/
def execAlc (a : BitVec 1) (b : Reg) (s : State) : Host.Outcome State Fault Refusal :=
  seq4 (do
    let n ← readX b
    if 2 ^ 48 ≤ n.toNat then trap cACCESS n
    let s ← get
    let v : Alarm := if n = 0 then .fired s.wallUnits else .cycle (s.cycle s.focusCore + n.toNat)
    modF fun c => c.setAlarm a.toNat v) s

/-- ALW (R364). -/
def execAlw (a : BitVec 1) (b : Reg) (s : State) : Host.Outcome State Fault Refusal :=
  seq4 (do
    let t ← readX b
    let s ← get
    if s.reached t then modF fun c => c.setAlarm a.toNat (.fired s.wallUnits)
    else
      modF fun c => c.setAlarm a.toNat (.wall t)
      modify fun s => s.armAt t (.alarmFire s.focusCore s.focusCtx a.toNat)) s

/-- ALX (R364). -/
def execAlx (a : BitVec 1) (s : State) : Host.Outcome State Fault Refusal :=
  seq4 (modF fun c => c.setAlarm a.toNat .idle) s

/-- ALARM_FIRE (R364): an armed slot whose count or time has come is fired, stamped with the wall time of the cycle, or
with its time. -/
def execAlarmFire (core ctx slot : Nat) (s : State) : Host.Outcome State Fault Refusal :=
  change (fun s =>
    let c := s.ctx core ctx
    match c.alarm slot with
    | .cycle t => if t ≤ s.cycle core then s.setCtx core ctx (c.setAlarm slot (.fired (s.stampOfCycle core t))) else s
    | .wall t => if s.reached t then s.setCtx core ctx (c.setAlarm slot (.fired (t.toNat * unitsPerNs))) else s
    | _ => s) s

/-! ## Deadlines (R366, R367) -/

/-- deadline.T written. -/
def State.setDeadline (s : State) (core k : Nat) (t : Word) : State :=
  let s := (s.disarm (.deadlineTrap core k)).modCtx core k fun c => { c with deadline := t }
  if t = 0 then s else s.armAt t (.deadlineTrap core k)

/-- DLARM (R366). -/
def execDlarm (a : Reg) (s : State) : Host.Outcome State Fault Refusal :=
  seq4 (do
    let t ← readX a
    modify fun s => s.setDeadline s.focusCore s.focusCtx t) s

/-- DLCLR (R366). -/
def execDlclr (s : State) : Host.Outcome State Fault Refusal :=
  seq4 (modify fun s => s.setDeadline s.focusCore s.focusCtx 0) s

/-- The log holds a DEADLINE for a core at the count of instructions that the context has issued (R393). -/
def State.deadlineLogged (s : State) (core k : Nat) : Bool :=
  let c := s.ctx core k
  (s.loggedEntry (s.pidOf core) c.lnum.toNat core 10 c.issued (2 ^ 46)).isSome

/-- A context that leaves what it waits for, because its DEADLINE is due (R367): an outstanding full/empty operation is
cancelled at its home (R194), a parked instruction is left. -/
def State.leaveWait (s : State) (core k : Nat) : State :=
  let c := s.ctx core k
  match c.mode with
  | .parked _ _ _ _ => s.modCtx core k fun c => { c with mode := .ready }
  | .waiting =>
    match c.req with
    | some (.fe r reg va exempt false back) =>
      (s.cancelReq core k).modCtx core k fun c => { c with req := some (.fe r reg va exempt true back) }
    | _ => s
  | _ => s

/-- DEADLINE_TRAP (R366, R367): wall has reached the armed deadline, which becomes 0; the trap is taken at the next
instruction boundary. In a replay the log's count decides instead (R393). -/
def execDeadlineTrap (core ctx : Nat) (s : State) : Host.Outcome State Fault Refusal :=
  change (fun s =>
    let c := s.ctx core ctx
    if c.run = .none ∨ c.deadline = 0 ∨ s.reached c.deadline = false then s
    else if s.recMode (s.pidOf core) c.lnum.toNat = 3 then
      (if s.deadlineLogged core ctx then s.leaveWait core ctx else s).armIn 1000 (.deadlineTrap core ctx)
    else
      (s.modCtx core ctx fun c => { c with dlDue := some c.deadline, deadline := 0 }).leaveWait core ctx) s

/-- The DEADLINE that a context takes at the boundary before its next instruction, if one is due there. A wait whose
event was stamped before it completes first (R367), as does an instruction that its group's entry has answered, or a
CODELD that has begun to read. -/
def State.deadlineHere (s : State) (core k : Nat) : Option Word :=
  let c := s.ctx core k
  let answered := (match c.groupReply with | some a => a.1 != 2 | none => false)
    || match c.copy with | some p => !p.header.isEmpty | none => false
  let due :=
    if s.recMode (s.pidOf core) c.lnum.toNat = 3 then (if c.deadline ≠ 0 ∧ s.deadlineLogged core k = true then some c.deadline else none)
    else c.dlDue
  match due with
  | none => none
  | some t =>
    let first := match c.wait with
      | some (.cycles _) => false
      | some w => s.recMode (s.pidOf core) c.lnum.toNat != 3 && s.waitSeen core k w (earlier w.limit t)
      | none => false
    if answered || first then none else some t

/-- A due DEADLINE is taken at the boundary (R366, R406), as a decision of TYPE 10 (R390). A vector load whose words are being
read has issued. -/
def State.takeDeadline (s : State) (core k : Nat) : Option State :=
  match (if (s.ctx core k).vread.isEmpty then s.deadlineHere core k else none) with
  | none => none
  | some t =>
    let c := s.ctx core k
    let take (s : State) : State :=
      ((s.disarm (.deadlineTrap core k)).modCtx core k fun x => { x with dlDue := none, deadline := 0 }).takeTrap
        core k cDEADLINE t
    if c.lmode = 2 ∨ c.lmode = 3 then
      match s.decide (s.pidOf core) c.lnum.toNat core k 10 c.issued (2 ^ 46) [] c.tag with
      | .go s _ => some (take s)
      | .hold s => some (s.modCtx core k fun x => { x with mode := .blocked })
      | .fail s cause => some (s.takeTrap core k cause (if cause = cLOGFULL then 0 else c.tag))
    else some (take s)

/-! ## The events of waits and of time -/

/-- A context's registered wait looks at its port again, in its own instruction, while its partition runs (R418, R429). -/
def State.pollAt (s : State) (core k : Nat) : Host.Outcome State Fault Refusal :=
  let c := s.ctx core k
  match c.wait with
  | none => .next s
  | some w =>
    if (c.mode = .blocked ∨ c.mode = .ready) ∧ c.dlDue = none ∧ s.partRuns core = true then
      let t := s.setCtx core k { c with mode := .ready, again := false }
      match seq4 (poll w) { t with focusCore := core, focusCtx := k } with
      | .next t => .next { t with focusCore := s.focusCore, focusCtx := s.focusCtx }
      | .fault f => .fault f
      | .refused r => .refused r
    else .next s

/-- WAIT_DEADLINE_EXPIRY (R370): a wait whose deadline has come and whose event is not stamped before it ends, with
status.TO = 1. -/
def execWaitDeadlineExpiry (core ctx : Nat) (s : State) : Host.Outcome State Fault Refusal := s.pollAt core ctx

/-- WAIT_TARGET_REACHED (R362): a WAITC whose run cycles have passed, or a WAITW whose time has come, ends. -/
def execWaitTargetReached (core ctx : Nat) (s : State) : Host.Outcome State Fault Refusal := s.pollAt core ctx

/-- The cycles a clock of an octet had counted when wall was at a time in units that has just passed. -/
def State.cyclesWhen (s : State) (x : Octet) (due i : Nat) : Nat :=
  let acc := x.accAt i s.now
  if x.power = .active then (acc * s.rate - (x.clock i).khz * (s.wallUnits - due)) / (1600000 * s.rate) else acc / 1600000

/-- A window of an octet ends: CYC of each core is the cycle edges inside it, if the octet was active throughout (R359). -/
def State.windowEnd (s : State) (x : Octet) : Octet :=
  let due := (x.winIdx + 1) * 256 * unitsPerNs
  let active := x.power == .active
  { x with
    winIdx := x.winIdx + 1, winWhole := active
    winBase := Vector.ofFn fun i : Fin 8 => s.cyclesWhen x due i
    ratio := if x.winWhole && active then
        Vector.ofFn fun i : Fin 8 => BitVec.ofNat 10 (s.cyclesWhen x due i - x.winBase[i.val]'(i.isLt))
      else x.ratio }

/-- RATIO_WINDOW_END (R359): 1,536 stands for the octets that octets does not list. -/
def execRatioWindowEnd (octet : Nat) (s : State) : Host.Outcome State Fault Refusal :=
  change (fun s =>
    if octet = 1536 then { s with commonOctet := s.windowEnd s.commonOctet }
    else s.modOctet octet s.windowEnd) s

/-- The least and the greatest frequency of a clock in kHz (R2, R3): 0.70 and 1.50 cycles per wall ns. -/
def State.clockBounds (s : State) : Nat × Nat := ((7 * s.rate + 9) / 10, 3 * s.rate / 2)

/-- WALL_DISCIPLINE (R358): the rate of wall, within 100 parts per million of the uncore clock's. The clocks of the octets
on rails without an emergency stay within their range (R3). -/
def execWallDiscipline (ppm : Int) (s : State) : Host.Outcome State Fault Refusal :=
  change (fun s =>
    if -100 ≤ ppm ∧ ppm ≤ 100 then
      let s : State := { s with ppm := ppm }
      let b := s.clockBounds
      { s with octets := s.octets.map fun p =>
          (p.1, p.2.boundClocks s.now (if (s.rails[railOf p.1 % 16]'(Nat.mod_lt _ (by decide))).emerg then 0 else b.1) b.2) }
    else s) s

/-- JOIN_DELIVERY (R223): performed at its slot, or held as an STF of word 1 is while the tag is full or the word
poisoned. It is always held, also when the wait table's entries are in use, and takes none of them (DESIGN CHOICE: R223 cites
R190 and R191, not the retry of R192; log entry 38). -/
def execJoinDelivery (j : JoinDel) (s : State) : Host.Outcome State Fault Refusal :=
  change (fun s =>
    let key := localKey j.core (j.off + 8)
    let e := Event.joinDelivery j
    match s.arriveAt key (s.pidOf j.core) e with
    | some t => t
    | none =>
      if s.poisoned key || s.tag key then
        let s := if s.poisoned key then s.machineCheck else s
        let r : FeReq := ⟨⟨s.module, j.core, 20, s.serial + 1⟩, s.pidOf j.core, j.launch, s.module, key, .stf, j.x11, 0, j.tag, (s.partAt j.core).key⟩
        let s := { s with serial := s.serial + 1 }
        s.setWaitTab j.core (heldIns ⟨r, some j.x10, s.wallUnits, s.serial⟩ (s.waitTab j.core))
      else
        s.wakeAt (s.pidOf j.core) j.launch j.core j.tag e fun s => (s.joinAct key j.x10 j.x11).tryHeld j.core key j.tag) s

end Sys2Proof.Machine
end

