-- ==== Sys2Proof/Machine/Messages.lean ====
section
/-! DEFINITION. Messages at their receivers and senders: acceptance, containment, refusal and resending (R312 to R316,
R327, R352, R480), the drain message (R317), notices (R408), and SEND, SENDR and SPAWN (R333 to R336). -/

namespace Sys2Proof.Machine

/-! ## Refusal tables (R315) -/

/-- The entry of a message's sender and network. -/
def findRef (m : Message) (t : List RefEntry) : Option RefEntry := t.find? fun e => e.same (refOf m)

/-- A message that the table refuses: a later one of a refused sender, or one of a new sender while it is full. A message
that hardware built is outside the table (R480). -/
def tableRefuses (t : List RefEntry) (m : Message) : Bool :=
  !m.side.hardware && match findRef m t with
    | some e => e.earlier (refOf m)
    | none => 16 ≤ t.length

/-- The earliest message of a list of one line. -/
def oldestRef : List RefEntry → Option RefEntry
  | [] => none
  | e :: t => match oldestRef t with
    | some x => some (if x.earlier e then x else e)
    | none => some e

/-- The table and the list of what is still refused after a refusal: the sender's entry names its oldest refused message;
a new one is made while there is room (R315). -/
def refuseIn (t r : List RefEntry) (m : Message) : List RefEntry × List RefEntry :=
  let x := refOf m
  let r := if r.contains x then r else r ++ [x]
  if m.side.hardware then (t, r)
  else match oldestRef (r.filter x.same) with
    | none => (t, r)
    | some o =>
      if t.any x.same then (t.map fun e => if x.same e then o else e, r)
      else if 16 ≤ t.length then (t, r)
      else (t ++ [o], r)

/-- The table and the list after a message has been accepted or withdrawn: the entry that names it is released, or names the
sender's next message that is still refused (log entry 17). -/
def releaseIn (t r : List RefEntry) (x : RefEntry) : List RefEntry × List RefEntry :=
  let r := r.filter (· != x)
  (t.filterMap fun e => if e = x then oldestRef (r.filter x.same) else some e, r)

/-- A core refuses a message. -/
def Core.refuses (q : Core) (m : Message) : Core :=
  let x := refuseIn q.refTab q.refused m
  { q with refTab := x.1, refused := x.2 }

/-- A message is refused no more at a core. -/
def Core.releases (q : Core) (x : RefEntry) : Core :=
  let y := releaseIn q.refTab q.refused x
  { q with refTab := y.1, refused := y.2 }

/-- A partition's sequencer refuses a launch request. -/
def Partition.refuses (p : Partition) (m : Message) : Partition :=
  let x := refuseIn p.seqRef p.seqRefused m
  { p with seqRef := x.1, seqRefused := x.2 }

/-- A launch request is refused no more at a partition's sequencer. -/
def Partition.releases (p : Partition) (x : RefEntry) : Partition :=
  let y := releaseIn p.seqRef p.seqRefused x
  { p with seqRef := y.1, seqRefused := y.2 }

/-- A queue entry as its refusal leaves it: one that names a resident which is not there is to find it again (R327), any
other is sent again later (R315). -/
def SqEntry.refuse (e : SqEntry) (m : Message) (noName : Bool) : SqEntry :=
  { e with
    mode := if noName && e.name.isSome then .waiting else .refused
    bounced := some (m.module, m.side.via - 1) }

/-- A refusal before, of another receiver, is withdrawn there. -/
def State.leaveOther (s : State) (src pid : Nat) (e : SqEntry) (m : Message) : State :=
  match e.bounced with
  | some x => if x = (m.module, m.side.via - 1) then s else s.withdraw src pid e.msg x
  | none => s

/-- The name of a refused message that is to be found again leaves its octet's locator cache (R327). -/
def State.dropLocator (s : State) (core : Nat) (e : SqEntry) (noName : Bool) : State :=
  match noName, e.name with
  | true, some n => s.modOctet (octetOf core) fun x => { x with locators := x.locators.filter fun l => l.name != n }
  | _, _ => s

/-- A refused message is back at the endpoint that passed it in: it is sent again 250 wall ns later, or its name is found
again (R315, R327, R448). -/
def State.endpointRefused (s : State) (m : Message) (noName : Bool) : State :=
  match s.endpointOf m with
  | none => s.withdraw outside (s.pidOf (senderOf m)) m (m.module, m.side.via - 1)
  | some (pid, p) =>
    match p.epQ.find? fun e => e.carries m with
    | none => s
    | some e =>
      let s := s.leaveOther outside pid e m
      let s := s.modPart pid fun p => { p with epQ := p.epQ.map fun x => if x.id = e.id then x.refuse m noName else x }
      let s := (s.dropLocator (senderOf m) e noName).sendEnds pid m
      if (e.refuse m noName).mode = .waiting then s.pumpEndpoints pid else s.armIn 250 (.hardwareMessageResend e.msg)

/-- A refused message comes back, from a place, to its sender on this module (R315), or to the unit or endpoint that passed
it in (R448, R480). -/
def State.refusedHere (s : State) (place : Nat) (m : Message) (noName : Bool) : State :=
  if m.side.hardware then s.armIn 250 (.hardwareMessageResend m)
  else if m.side.endpoint ≠ 0 then s.endpointRefused m noName
  else s.fly place (senderOf m) 1 (.refused (senderOf m) m noName)

/-- A refused message returned from its receiver. A message that names a resident which is not there says so (R327). -/
def State.returnMessage (s : State) (place core : Nat) (m : Message) (noName : Bool) : State :=
  let m := { m with side := { m.side with via := core + 1 } }
  let home := if m.side.hardware then m.side.unit.1 else m.smod
  if home ≠ s.module then s.toModule home 1 (.refusal (senderOf m) m noName) else s.refusedHere place m noName

/-! ## Into the inbox, a port, or the hold (R312, R313, R319, R325) -/

/-- The binding of a class at a core. -/
def Core.binding (q : Core) (cls : BitVec 8) : Option Binding := mapFind q.binds cls.toNat

/-- The entry of a partner table that a message's sender has (R345). -/
def partnerRecv (module core : Nat) : List (Option Partner) → List (Option Partner)
  | [] => []
  | some p :: t =>
    if p.module = module ∧ p.core = core then some { p with recv := Nat.min 0xFFFFFF (p.recv + 64) } :: t
    else some p :: partnerRecv module core t
  | none :: t => none :: partnerRecv module core t

/-- The 8-byte words of a port entry stored, each as a store of a whole word. -/
def State.storeSeq (s : State) (core off : Nat) : List Word → State
  | [] => s
  | w :: t => (s.storeBytes core (localKey core off) 8 w).storeSeq core (off + 8) t

/-- An entry put into a port of a core's resident (R324, R325): header with R set, payload, time of acceptance. -/
def State.putPort (s : State) (core p : Nat) (header : Word) (payload : List Word) (tag : Word) (stamp : Nat) : State :=
  match (s.core core).resident with
  | none => s
  | some r =>
    let ring := r.ports.getD p ⟨0, 0, []⟩
    let off := r.base + 1024 * p + 64 * ((ring.head + ring.count) % 16)
    let body := (payload ++ List.replicate 6 0).take 6
    let s := s.storeSeq core off ([header] ++ body ++ [BitVec.ofNat 64 (stamp / unitsPerNs)])
    s.modCore core fun q =>
      { q with resident := some { r with ports := r.ports.set p ⟨ring.head, ring.count + 1, ring.tags ++ [tag]⟩ } }

/-- A port of the core's resident can take an entry (R315). -/
def Core.portRoom (q : Core) (p : Nat) : Bool :=
  match q.resident with
  | none => false
  | some r => match r.ports[p]? with
    | none => false
    | some ring => ring.count < 16

/-- A message accepted into a port; one by name of a firing is counted for the partner it comes from (R345). -/
def State.acceptPort (s : State) (core p : Nat) (m : Message) (stamp : Nat) : State :=
  let s := s.putPort core p (messageHeader { m with r := true }) m.payload m.side.tag stamp
  if !m.side.firing || m.kind != 1 then s
  else s.modCore core fun q => { q with partners := Vector.ofFn fun i => (partnerRecv m.smod (senderOf m) q.partners.toList).getD i.val none }

/-- An entry of the inbox or the hold. -/
def State.newEntry (s : State) (m : Message) (stamp : Nat) : InEntry × State :=
  (⟨m, stamp, s.serial + 1, false⟩, { s with serial := s.serial + 1 })

/-- The drain message of the latch enters the inbox once there is room (R317). -/
def State.latchIn (s : State) (core : Nat) : State :=
  let q := s.core core
  match q.latch with
  | none => s
  | some m =>
    if q.inbox.length < 32 then
      let r := s.newEntry m s.wallUnits
      (r.2.modCore core fun q => { q with inbox := q.inbox ++ [r.1], latch := none }).drainCheck core
    else s

/-- A message in the unbound hold, with its notice (R319). -/
def State.holdMessage (s : State) (core : Nat) (e : InEntry) : State :=
  let s := s.modCore core fun q => { q with hold := q.hold ++ [{ e with msg := { e.msg with h := true } }] }
  s.coreNotice core 2 [zext e.msg.cls, messageHeader e.msg]

/-- Whether a message finds room under its class's binding (R315), held messages of its class going first (R319), and before
a port those that the inbox took under an earlier binding (R325). -/
def Core.messageRoom (q : Core) (m : Message) : Bool :=
  let first := q.hold.any fun e => e.msg.cls == m.cls
  let before := q.inbox.any fun e => e.msg.cls == m.cls
  match q.binding m.cls with
  | some (.task _ _) => q.inbox.length < 32 && q.latch.isNone && !first
  | some (.port p) => q.portRoom p && !first && !before
  | none => q.hold.length < 4

/-- A message let in under its class's binding (R312). -/
def State.letIn (s : State) (core : Nat) (m : Message) : State :=
  match (s.core core).binding m.cls with
  | some (.task _ _) =>
    let r := s.newEntry m s.wallUnits
    r.2.modCore core fun q => { q with inbox := q.inbox ++ [r.1] }
  | some (.port p) => s.acceptPort core p m s.wallUnits
  | none =>
    let r := s.newEntry m s.wallUnits
    r.2.holdMessage core r.1

/-! ## Acceptance (R312 to R315) -/

/-- The core's resident has a name. -/
def Core.hosts (q : Core) (name : Nat) : Bool := match q.resident with | some r => r.name == name | none => false

/-- The 64 bytes of a message (R306). -/
def messageWords (m : Message) : List Word := [messageRoute m, messageHeader m] ++ (m.payload ++ List.replicate 6 0).take 6

/-- A message sent to the host from the endpoint by which it last reached the partition (R449). -/
def State.toHost (s : State) (core : Nat) (m : Message) : State :=
  let s := { s with hostOut := s.hostOut ++ [HostOut.send (s.pidOf core) (s.partAt core).lastEth (messageWords m)] }
  s.accepted m

/-- An earlier message of the same hardware unit to the same core waits to be sent again, or is coming on another network, so
this one must not pass it (R480). -/
def State.behindBuilt (s : State) (m : Message) : Bool :=
  let before (n : Message) : Bool :=
    n.side.hardware && n.side.unit == m.side.unit && n.module == m.module && n.dest == m.dest && n.side.built < m.side.built
  m.side.hardware
    && (s.timers.any (fun t => match t.2 with | .hardwareMessageResend n => before n | _ => false)
      || s.flights.any fun f => match f.ev with | .messageAcceptance _ n => before n | _ => false)

/-- Two messages of a sender go to one receiver: a core, or a launch sequencer. -/
def SqEntry.alongside (a b : SqEntry) : Bool := a.target == b.target && (a.msg.kind == 3) == (b.msg.kind == 3)

/-- An earlier message of a message's line is still refused (R315, R480), by the list of those that a receiver has refused:
its own, beside its table of 16 entries (log entry 17). -/
def overtakes (refused : List RefEntry) (m : Message) : Bool := refused.any fun x => x.earlier (refOf m)

/-- An earlier message of a message's line waits in a site's replay hold for the decision of its refusal: this one waits
behind it (R99, R394). -/
def State.holdBehind (s : State) (site : Nat) (m : Message) (e : Event) : Option State :=
  if (s.site site).hold.any fun h => match eventMessage h with | some n => (refOf n).earlier (refOf m) | none => false
  then some (s.holdAt site e)
  else none

/-- The correction that the old core sends to the sender's octet once a message that it forwarded is accepted (R352). -/
def State.correctLocator (s : State) (core : Nat) (m : Message) : State :=
  if m.side.via = 0 || m.side.hardware then s
  else
    let o := octetOf (senderOf m)
    if m.smod = s.module then s.fly (m.side.via - 1) (octetPlace o) 3 (.locatorCorrection o m.dest s.module core)
    else s.toModule m.smod 3 (.correction o m.dest s.module core)

/-- A refusal made at a site, as a decision of TYPE 7 of the message's launch where that is recorded or logged (R390), and
counted (R460); e is the message's arrival. -/
def State.refusal (s : State) (core : Nat) (m : Message) (logged : Bool) (e : Event) (go : State → State) : State :=
  let pid := s.pidOf core
  if logged || s.recMode pid m.launch = 2 then
    madderAt (s.decide pid m.launch core 8 7 m.side.tag.toNat (2 ^ 46) [] m.side.tag) pid m.launch core e
      fun s _ => (go s).count (octetOf core) 6 1
  else (go s).count (octetOf core) 6 1

/-- The log of a REPLAY has a message refused once more at a site (R393). -/
def State.refusalLogged (s : State) (core : Nat) (m : Message) : Bool :=
  (s.loggedEntry (s.pidOf core) m.launch core 7 m.side.tag.toNat (2 ^ 46)).isSome

/-- A message refused by a core. -/
def State.refuseHere (s : State) (core : Nat) (m : Message) (noName logged : Bool) : State :=
  s.refusal core m logged (.messageAcceptance core m) fun s =>
    (s.modCore core fun q => q.refuses m).returnMessage core core m noName

/-- A message by name for a resident that is being exchanged is held at either core (R349). -/
def State.exchHolds (s : State) (core : Nat) (m : Message) : Bool :=
  match (s.core core).exch with
  | some other => m.kind == 1 && ((s.core core).hosts m.dest || (s.core other).hosts m.dest)
  | none => false

/-- A message reaches its core (R312 to R315, R349, R352, R449): held at the octet, diverted, taken for the host,
forwarded, held for an exchange, refused, or accepted. -/
def State.acceptMessage (s : State) (core : Nat) (m : Message) : State :=
  let e := Event.messageAcceptance core m
  match (s.heldBack core (s.msgPid m) e).orElse fun _ => if m.vn = 0 then s.heldStop core e else none with
  | some t => t
  | none =>
    let q := s.core core
    let noName := m.kind == 1 && !q.hosts m.dest
    if !s.keyOk core m then s.contain core m
    else if s.forHost core m then s.toHost core m
    else if s.exchHolds core m then s.modCore core fun q => { q with exchHeld := q.exchHeld ++ [e] }
    else if noName && q.fwd != 0 && q.fwdName == m.dest then
      s.fly core q.fwdTo m.vn (.messageAcceptance q.fwdTo { m with side := { m.side with via := core + 1 } })
    else match s.holdBehind core m e with
    | some t => t
    | none =>
      let forced := s.refusalLogged core m
      if noName || tableRefuses q.refTab m || !q.messageRoom m || s.behindBuilt m || overtakes q.refused m || forced then
        s.refuseHere core m noName forced
      else
        let s := s.modCore core fun q => q.releases (refOf m)
        (((s.letIn core m).correctLocator core m).accepted m).count (octetOf core) 5 1

/-- MESSAGE_ACCEPTANCE (R312). -/
def execMessageAcceptance (core : Nat) (m : Message) (s : State) : Host.Outcome State Fault Refusal :=
  change (fun s => s.acceptMessage core m) s

/-- HOST_CLASS_MESSAGE (R449): a message of class HCLS at its proxy core's router. -/
def execHostClassMessage (m : Message) (s : State) : Host.Outcome State Fault Refusal :=
  change (fun s => if s.forHost m.dest m && s.keyOk m.dest m then s.toHost m.dest m else s.acceptMessage m.dest m) s

/-! ## Refusals at the sender (R315, R327) -/

/-- A queue entry changed. -/
def State.modSq (s : State) (core vn id : Nat) (f : SqEntry → SqEntry) : State :=
  s.modCore core fun q => q.setSq vn ((q.sq vn).map fun e => if e.id = id then f e else e)

/-- A queue entry sent again to where it was refused. -/
def State.resendEntry (s : State) (core : Nat) (e : SqEntry) : State :=
  (s.modSq core e.msg.vn e.id fun e => e.sentTo e.target).sendMessage core (s.pidOf core) e.target.1 e.target.2 (e.outgoing e.target)

/-- REFUSED (R315, R327): the refused message is back at its sender, which sends it again 250 wall ns later, or discards its
locator entry and sends it to where the directory now has its name, or drops it with a notice. A sender that has dropped it
meanwhile withdraws it. -/
def State.refusedAt (s : State) (core : Nat) (m : Message) (noName : Bool) : State :=
  if m.side.hardware then s.armIn 250 (.hardwareMessageResend m)
  else if m.side.endpoint ≠ 0 then s.endpointRefused m noName
  else match s.heldBack core (s.pidOf core) (.refused core m noName) with
    | some t => t
    | none =>
      match ((s.core core).sq m.vn).find? fun e => e.msg.seq == m.seq with
      | none => s.withdraw core (s.pidOf core) m (m.module, m.side.via - 1)
      | some e =>
        let s := s.leaveOther core (s.pidOf core) e m
        let s := (s.modSq core m.vn e.id fun e => e.refuse m noName).dropLocator core e noName
        if (e.refuse m noName).mode = .waiting then s.pumpSends core
        else s.armIn 250 (.refusedMessageResend core m.vn m.seq)

/-- REFUSED. -/
def execRefused (core : Nat) (m : Message) (noName : Bool) (s : State) : Host.Outcome State Fault Refusal :=
  change (fun s => s.refusedAt core m noName) s

/-- A refused message of a queue must wait for an earlier one of its sender that is refused at the same receiver, or that has
gone elsewhere by the same name (R315, R353). -/
def resendWaits (l : List SqEntry) (e : SqEntry) : Bool :=
  nameWaits l e e.target || l.any fun x =>
    x.id < e.id && x.mode == .refused && x.alongside e && x.msg.vn == e.msg.vn
      && x.msg.side.endpoint == e.msg.side.endpoint

/-- REFUSED_MESSAGE_RESEND (R315): in SEQ order to one receiver; a pre-empted core resends on resume (R316). -/
def execRefusedMessageResend (core vn seq : Nat) (s : State) : Host.Outcome State Fault Refusal :=
  change (fun s =>
    if !s.partRuns core then s
    else match ((s.core core).sq vn).find? fun e => e.msg.seq == seq && e.mode == .refused with
    | none => s
    | some e =>
      if resendWaits (s.core core).queued e then s.armIn 250 (.refusedMessageResend core vn seq) else s.resendEntry core e) s

/-- WITHDRAWAL (R315): the receiver no longer has the message as a refused one. -/
def execWithdrawal (core module sender vn seq endpoint : Nat) (s : State) : Host.Outcome State Fault Refusal :=
  change (fun s =>
    let x : RefEntry := ⟨module, sender, endpoint, vn, seq⟩
    (s.modCore core fun q => q.releases x).modPart (s.pidOf core) fun p => p.releases x) s

/-- An endpoint sends a refused message again (R315, R448). -/
def State.resendEp (s : State) (m : Message) : State :=
  match s.endpointOf m with
  | none => s
  | some (pid, p) =>
    match p.epQ.find? fun e => e.carries m && e.mode == .refused with
    | none => s
    | some e =>
      if resendWaits p.epQ e then s.armIn 250 (.hardwareMessageResend m)
      else
        (s.modPart pid fun p => { p with epQ := p.epQ.map fun x => if x.id = e.id then x.sentTo x.target else x }).sendMessage
          outside pid e.target.1 e.target.2 (e.outgoing e.target)

/-- HARDWARE_MESSAGE_RESEND (R448, R480): the unit that built a refused message, or the endpoint that passed it in, sends it
again. -/
def execHardwareMessageResend (m : Message) (s : State) : Host.Outcome State Fault Refusal :=
  change (fun s =>
    if m.side.endpoint ≠ 0 then s.resendEp m
    else s.sendMessage m.side.unit.2 (s.pidOf (senderOf m)) m.module m.dest m) s

/-! ## The drain message (R317) -/

/-- DRAIN_MESSAGE_POST (R317): while ARM is set, OCC1 at or below LOW and the latch empty, ARM is cleared, and a drain
message of a user class goes to the own inbox, or to the latch while that is full. -/
def execDrainMessagePost (core : Nat) (s : State) : Host.Outcome State Fault Refusal :=
  change (fun s =>
    let q := s.core core
    if q.arm && q.latch.isNone && q.sq1.length ≤ q.low.toNat then
      let s := s.modCore core fun q => { q with arm := false }
      if 0x10 ≤ q.drainCls.toNat then
        let (n, s) := s.fresh
        let m := { builtMessage n core (s.partAt core).key q.drainLaunch s.module core s.module core q.drainTag q.drainPath [] with
          cls := q.drainCls }
        (s.modCore core fun q => { q with latch := some m }).latchIn core
      else s
    else s) s

/-! ## Locator corrections (R352, R353) -/

/-- LOCATOR_CORRECTION (R352): the octet's cache names the resident's new core. -/
def execLocatorCorrection (octet name module core : Nat) (s : State) : Host.Outcome State Fault Refusal :=
  change (fun s => s.modOctet octet fun x => { x with locators := fillLocator ⟨name, module, core⟩ x.locators }) s

/-! ## Notices (R408, R409) -/

/-- A notice leaves its octet's buffer. -/
def dropNotice (n : Notice) : List Notice → List Notice
  | [] => []
  | k :: t => if k = n then t else k :: dropNotice n t

/-- The notices of a partition that were dropped go up by one (R408). -/
def State.noticeLost (s : State) (pid : Nat) : State :=
  s.modPart pid fun p => { p with svNdrop := if p.svNdrop = 0xFFFF then p.svNdrop else p.svNdrop + 1 }

/-- The payload of a notice (R409). -/
def noticeWords (n : Notice) : List Word := BitVec.ofNat 64 (n.kind % 256 + n.core % 2 ^ 14 * 256) :: n.words

/-- The header of a notice: class 0x0D from its core, with R set (R308, R408). -/
def noticeHeader (s : State) (n : Notice) : Word :=
  BitVec.ofNat 64 (0x0D * 2 ^ 56 + coreY n.core * 2 ^ 48 + coreX n.core * 2 ^ 40 + s.module * 2 ^ 28 + 2 ^ 27)

/-- A notice of the octet before it, to the same supervisor core, is still in the octet's buffer: refused, so that this one is
not accepted before it (R99, R315). -/
def State.noticeBehind (s : State) (n : Notice) : Bool :=
  let l := (s.octet n.octet).notices
  l.contains n && (l.takeWhile (· != n)).any fun x => x.pid == n.pid

/-- A notice at the supervisor core: into its port, sent again 250 wall ns later while that is full, or dropped where
there is no such port (R408). -/
def State.noticeAt (s : State) (n : Notice) : State :=
  match s.part n.pid with
  | none => s
  | some p =>
    let core := p.svCore.toNat
    match s.heldBack core n.pid (.supervisorNotice n) with
    | some t => t
    | none =>
      let port := p.svPort.toNat
      let drop (s : State) : State := s.modOctet n.octet fun x => { x with notices := dropNotice n x.notices }
      match (s.core core).resident with
      | none => (drop s).noticeLost n.pid
      | some r =>
        if !p.svEn || r.ports.length ≤ port then (drop s).noticeLost n.pid
        else if (s.core core).portRoom port && !s.noticeBehind n then
          drop (s.putPort core port (noticeHeader s n) (noticeWords n) 0 s.wallUnits)
        else s.armIn 250 (.noticeResend n)

/-- SUPERVISOR_NOTICE (R408). -/
def execSupervisorNotice (n : Notice) (s : State) : Host.Outcome State Fault Refusal := change (fun s => s.noticeAt n) s

/-- NOTICE_RESEND (R408): to the supervisor core, once more. -/
def execNoticeResend (n : Notice) (s : State) : Host.Outcome State Fault Refusal :=
  change (fun s =>
    match s.part n.pid with
    | none => s
    | some p => s.fly (octetPlace n.octet) p.svCore.toNat 3 (.supervisorNotice n)) s

/-! ## SEND, SENDR and SPAWN (R334 to R336) -/

/-- Where a send goes: KIND, module and DEST of its route word (R307). -/
structure Goal where
  kind : Nat
  module : Nat
  dest : Nat
  deriving DecidableEq, Repr

/-- SEND's destination word from a core of a partition (R334); none traps ACCESS. -/
def sendGoal (s : State) (core : Nat) (cls : BitVec 8) (w : Word) : Option Goal :=
  let p := s.partAt core
  let form := bits w 63 56
  let m := w.getLsbD 27
  let module := if m then bits w 39 28 else s.module
  let own := module == s.module
  let kind := if cls.toNat < 0x0A then 2 else 0
  if bits w 26 16 ≠ 0 ∨ (m = false ∧ bits w 39 28 ≠ 0) then none
  else if cls = 0x0E then
    if form = 0xFC ∧ bits w 55 40 = 0 ∧ m = false then some ⟨3, s.module, 0⟩ else none
  else if form = 0xFB then
    if bits w 55 40 = 0 then some ⟨1, module, bits w 15 0⟩ else none
  else if form = 0xFC then
    if bits w 55 40 = 0 ∧ m = false then some ⟨kind, s.module, core⟩ else none
  else if form = 0xFD then
    let x := (coreX core : Int) + signed8 (bits w 47 40)
    let y := (coreY core : Int) + signed8 (bits w 55 48)
    if 0 ≤ x ∧ x < 192 ∧ 0 ≤ y ∧ y < 64 then
      let c := coreAt x.toNat y.toNat
      if own && !p.hasCore c then none else some ⟨kind, module, c⟩
    else none
  else if form = 0xFE then
    let x := bits w 47 40
    let y := bits w 55 48
    if x ≤ 191 ∧ y ≤ 63 then
      if own && !p.hasCore (coreAt x y) then none else some ⟨kind, module, coreAt x y⟩
    else none
  else none

/-- SENDR's receiver by a header word (R335). -/
def replyGoal (s : State) (core : Nat) (h : Word) : Option Goal :=
  let x := bits h 47 40
  let y := bits h 55 48
  let module := bits h 39 28
  if 191 < x ∨ 63 < y then none
  else if module = s.module ∧ (s.partAt core).hasCore (coreAt x y) = false then none
  else some ⟨0, module, coreAt x y⟩

/-- The offset of a payload of n bytes at p (R335): own-core form and inside the local memory, then 8-byte aligned. -/
def payloadAt (p : Word) (n : Nat) : M Nat := do
  match ownOff p with
  | none => trap cACCESS p
  | some o =>
    if 65536 < o + n then trap cACCESS p
    if p.toNat % 8 ≠ 0 then trap cMISALIGN p
    return o

/-- A queue with room, or SQFULL, or a wait (R317, R335). -/
def queueRoom (v : Nat) : M Unit := do
  let q := (← get).fcore
  let mode := if v = 0 then q.mode0 else if v = 1 then q.mode1 else q.mode2
  if 8 ≤ (q.sq v).length then
    if mode then trap cSQFULL (BitVec.ofNat 64 v) else block

/-- The next SEQ of a core on a network. -/
def Core.seq (q : Core) (v : Nat) : Nat := if v = 0 then q.seq0 else if v = 1 then q.seq1 else q.seq2

/-- SEQ counted, modulo 2^24 (R308). -/
def Core.nextSeq (q : Core) (v : Nat) : Core :=
  let n := (q.seq v + 1) % 2 ^ 24
  if v = 0 then { q with seq0 := n } else if v = 1 then { q with seq1 := n } else { q with seq2 := n }

/-- A firing's send to a name counted in its resident's partner table (R345). -/
def countSent (name module core : Nat) (l : List (Option Partner)) : List (Option Partner) :=
  let add (p : Partner) : Partner := { p with sent := Nat.min 0xFFFFFF (p.sent + 64), module := module, core := core }
  let new : Option Partner := some ⟨name, 64, 0, module, core⟩
  match l.findIdx? fun p => match p with | some p => p.name == name | none => false with
  | some i => l.modify i fun p => p.map add
  | none =>
    match l.findIdx? (·.isNone) with
    | some i => l.set i new
    | none =>
      let least := l.foldl (fun m p => match p with | some p => Nat.min m (p.sent + p.recv) | none => m) (2 ^ 26)
      match l.findIdx? fun p => match p with | some p => p.sent + p.recv == least | none => false with
      | some i => l.set i new
      | none => l

/-- A context runs a firing of its core's resident. -/
def Ctx.isFiring (c : Ctx) : Bool := match c.run with | .firing _ _ _ => true | _ => false

/-- A send by name of a firing, of a user class, counted with the core that the locator gives (R345). A name that neither
locator nor directory resolves counts for no core (DESIGN CHOICE, log entry 38). -/
def State.countPartner (s : State) (core k name : Nat) (cls : BitVec 8) : State :=
  if !(s.ctx core k).isFiring || cls.toNat < 0x10 then s
  else match s.resolve core name with
    | (some onto, s) => s.modCore core fun q =>
        { q with partners := Vector.ofFn fun i => (countSent name onto.1 onto.2 q.partners.toList).getD i.val none }
    | (none, s) => s

/-- A message of the focus context enters its send queue (R335), with the stores that it releases (R297). -/
def enterQueue (v : Nat) (g : Goal) (cls : BitVec 8) (spawned : Bool) (tag path : Word) (payload : List Word) : M Unit := do
  let s ← get
  let core := s.focusCore
  let c := s.fctx
  let q := s.fcore
  let m : Message :=
    { key := s.fpart.key, launch := c.lnum.toNat, vn := v, kind := g.kind, module := g.module, dest := g.dest, cls := cls
      sy := coreY core, sx := coreX core, smod := s.module, r := false, s := spawned, h := false, seq := q.seq v
      payload := payload, side := .ofCore tag path c.isFiring }
  let (id, s) := s.fresh
  let name := if g.kind = 1 then some g.dest else none
  let e : SqEntry := ⟨id, s.focusCtx, m, s.ownStores, c.posted, name, (g.module, g.dest), .waiting, none⟩
  let s := s.modFcore fun q => (q.setSq v (q.sq v ++ [e])).nextSeq v
  let s := match name with | some n => s.countPartner core s.focusCtx n cls | none => s
  set (s.pumpSends core)

/-- The waits of a send: those of R110 and R303, class S, and for loads that may still trap (log entry 11). -/
def sendWaits : M Unit := do
  noAmo
  noLoad
  fenced [6]

/-- The path that a message of a context carries (R383). -/
def Ctx.sidePath (c : Ctx) : Word := if c.lnum = 0 then 0 else c.path

/-- SEND and SENDR past their destination check (R335). -/
def sendBody (v : Nat) (g : Goal) (cls : BitVec 8) (p : Word) : M Unit := do
  let o ← payloadAt p 48
  sendWaits
  queueRoom v
  let words ← readOwn o 6
  let c ← fctx
  enterQueue v g cls false c.tag c.sidePath words
  countEvent

/-- SEND (R334, R335). -/
def execSend (a b : Reg) (k : BitVec 8) (s : State) : Host.Outcome State Fault Refusal :=
  seq4 (do
    let w ← readX a
    let p ← readX b
    let s ← get
    match sendGoal s s.focusCore k w with
    | none => trap cACCESS w
    | some g => sendBody (if 7 ≤ k.toNat ∧ k.toNat ≤ 9 then 2 else 0) g k p) s

/-- SENDR (R335). -/
def execSendr (a b : Reg) (k : BitVec 8) (s : State) : Host.Outcome State Fault Refusal :=
  seq4 (do
    let h ← readX a
    let p ← readX b
    let s ← get
    match replyGoal s s.focusCore h with
    | none => trap cACCESS h
    | some g => sendBody 1 g k p) s

/-- DEPTH of a path (R322). -/
def pathDepth (p : Word) : Nat := bits p 51 48

/-- IDX of a path. -/
def pathIdx (p : Word) : Nat := bits p 47 0

/-- A child's path: DEPTH + 1 and slot DEPTH set to the child index (R323). -/
def childPath (p : Word) (k : Nat) : Word :=
  BitVec.ofNat 64 (bits p 63 52 * 2 ^ 52 + (pathDepth p + 1) * 2 ^ 48 + pathIdx p + k * 2 ^ (40 - 8 * pathDepth p))

/-- The core a path is placed on (R323). -/
def Partition.placed (p : Partition) (path : Word) : Nat :=
  let h := path * 0x9E3779B97F4A7C15
  p.coreOf (bits h 63 32 * p.cores / 2 ^ 32)

/-- SPAWN (R336). -/
def execSpawn (d a : Reg) (k : BitVec 8) (s : State) : Host.Outcome State Fault Refusal :=
  seq4 (do
    let p ← readX a
    let c ← fctx
    let n := c.joinNext
    let slot := c.joinBase.toNat * 16 + 16 * n
    if c.lnum = 0 ∨ pathDepth c.path = 6 ∨ n = 256 then trap cACCESS c.path
    if 65536 < slot + 16 then trap cACCESS (BitVec.ofNat 64 slot)
    let o ← payloadAt p 32
    sendWaits
    queueRoom 0
    let child := childPath c.path n
    let s ← get
    let words ← readOwn o 4
    enterQueue 0 ⟨0, s.module, s.fpart.placed child⟩ k true child c.sidePath (words ++ [child, absForm s.focusCore slot])
    modF fun c => { c with joinNext := n + 1 }
    writeX d (BitVec.ofNat 64 n)
    countEvent) s

end Sys2Proof.Machine
end

