-- ==== Sys2Proof/Machine/Tasks.lean ====
section
/-! DEFINITION. Tasks and residents: starting a task or a firing (R321, R326, R379, R393), DONE (R222, R223, R385 to R388),
BIND, UNBIND, RESIDE and RULE (R338 to R340), and CODELD (R341). -/

namespace Sys2Proof.Machine

/-! ## What a message's task is (R322, R381) -/

/-- A message that starts a launch root (R329): built by hardware for network 0. -/
def isRoot (m : Message) : Bool := m.side.hardware && m.vn == 0

/-- The path of the task that a message starts (R322). -/
def taskPath (m : Message) : Word :=
  if m.launch = 0 then 0 else if m.s then m.payload.getD 4 0 else m.side.path

/-- The key of the task that a message starts (R381). -/
def taskKey (m : Message) : Word := if isRoot m then m.side.path else m.side.tag

/-! ## SERIAL (R379) -/

/-- A task's place in the logical order: IDX, DEPTH, key (R323, R379). -/
abbrev LogicalPlace := Nat × Nat × Nat

/-- The place of a path and key. -/
def orderOf (path key : Word) : LogicalPlace := (pathIdx path, pathDepth path, key.toNat)

/-- The logical order. -/
def orderLt (a b : LogicalPlace) : Bool :=
  a.1 < b.1 || (a.1 == b.1 && (a.2.1 < b.2.1 || (a.2.1 == b.2.1 && a.2.2 < b.2.2)))

/-- The first place of a list. -/
def firstPlace : List LogicalPlace → Option LogicalPlace
  | [] => none
  | p :: t => match firstPlace t with
    | none => some p
    | some q => some (if orderLt q p then q else p)

/-- The cores of the module that a partition occupies, of those listed. -/
def State.coresOf (s : State) (p : Partition) : SMap Core := s.cores.filter fun q => p.hasCore q.1

/-- A message whose class starts a task at a core. -/
def State.startsTask (s : State) (core : Nat) (m : Message) : Bool :=
  match (s.core core).binding m.cls with | some (.task _ _) => true | _ => false

/-- A message built by hardware that is on its way to its core. -/
def builtOnWay : Event → Option Message
  | .messageAcceptance _ m => if m.side.hardware then some m else none
  | .hardwareMessageResend m => some m
  | _ => none

/-- The messages of a launch that will start tasks in the partition: queued, on their way, or in an inbox. -/
def State.taskMessages (s : State) (p : Partition) (num : Nat) : List Message :=
  let cs := s.coresOf p
  let queued := cs.flatMap fun q => (q.2.sq0 ++ q.2.sq1 ++ q.2.sq2).map (·.msg)
  let inboxes := cs.flatMap fun q => q.2.inbox.map (·.msg)
  let held := s.octets.flatMap fun o => o.2.held.filterMap fun f => builtOnWay f.ev
  let built := s.flights.filterMap (fun f => builtOnWay f.ev) ++ s.timers.filterMap (fun t => builtOnWay t.2) ++ held
  (queued ++ built).filter (fun m => m.launch == num && m.kind == 0 && m.module == s.module && s.startsTask m.dest m)
    ++ inboxes.filter fun m => m.launch == num

/-- A context that runs a task of a launch. -/
def Ctx.inLaunch (c : Ctx) (num : Nat) : Bool :=
  match c.run with | .task _ _ _ _ => c.lnum.toNat == num && !c.dying | _ => false

/-- A task of the launch runs. -/
def State.serialRuns (s : State) (p : Partition) (num : Nat) : Bool :=
  (s.coresOf p).any fun q => q.2.ctxs.toList.any fun c => c.inLaunch num && c.live && !c.serialHeld

/-- The places of the launch's woken contexts. -/
def State.serialWoken (s : State) (p : Partition) (num : Nat) : List LogicalPlace :=
  (s.coresOf p).flatMap fun q => (q.2.ctxs.toList.filter fun c => c.inLaunch num && c.live && c.serialHeld).map
    fun c => orderOf c.path c.dkey

/-- The next task of a SERIAL launch: the first in logical order of every pending one, none while one runs. -/
def State.serialNext (s : State) (p : Partition) (num : Nat) : Option LogicalPlace :=
  if s.serialRuns p num then none
  else firstPlace (s.serialWoken p num ++ (s.taskMessages p num).map fun m => orderOf (taskPath m) (taskKey m))

/-! ## The choice of what starts (R321, R393) -/

/-- What a core does next for a free context. -/
inductive Choice where
  | toHold (e : InEntry)
  | toStay (e : InEntry)
  | toPort (e : InEntry) (p : Nat)
  | task (e : InEntry) (pc : Word) (prio : Nat)
  | fire (r : Rule)
  deriving DecidableEq, Repr

/-- The lowest-numbered free context. -/
def Core.freeCtx (q : Core) : Option Nat := (List.range 8).find? fun i => (q.ctx i).run == .none

/-- A CODELD has reached a core and its copy is not complete (R341). -/
def State.loading (s : State) (core : Nat) : Bool :=
  s.cores.any fun q => q.2.ctxs.toList.any fun c =>
    match c.copy with | some p => p.target == core && p.reached | none => false

/-- A site holds its decision of a tag for a partition already. -/
def Site.holds (x : Site) (pid : Nat) (tag : Word) : Bool := x.stalls.any fun y => y.1 == pid && y.2.2 == (8, tag)

/-- Whether Madder lets a core start a message's task (R379, R392, R393). -/
def State.mayStart (s : State) (core pid : Nat) (p : Partition) (m : Message) : Bool :=
  let mode := match findLaunch m.launch p.launches with | some l => l.mode | none => 0
  if mode = 4 then s.serialNext p m.launch == some (orderOf (taskPath m) (taskKey m))
  else match s.recMode pid m.launch with
    | 2 => s.recRoom pid core 8 1 (taskKey m) || !(s.core core).site.holds pid (taskKey m)
    | 3 => match (s.core core).site.entries pid with
      | w :: _ => entryMatches w 1 (taskKey m).toNat (2 ^ 46)
      | [] => false
    | _ => true

/-- A rule is ready (R326). -/
def Rule.ready (u : Rule) (r : Resident) : Bool :=
  !u.counts.isEmpty && u.counts.all fun c => c.2 ≤ (r.ports.getD c.1 ⟨0, 0, []⟩).count

/-- The resident's first ready rule, while no firing of it runs (R326), the task that made it has ended (R339), and no
swap holds its firings (R348, R349). -/
def State.readyRule (s : State) (core : Nat) : Option Rule :=
  let q := s.core core
  match q.resident with
  | none => none
  | some r =>
    let making := match r.maker with
      | some (c, k, task) => (s.ctx c k).task == task && (s.ctx c k).run != .none
      | none => false
    if r.firing || making || q.pairing.isSome || q.exch.isSome then none
    else (r.rules.find? fun u => u.2.ready r).map (·.2)

/-- The better of two eligible messages: the higher priority, then the one accepted first. -/
def betterTask (a b : InEntry × Word × Nat) : InEntry × Word × Nat :=
  if b.2.2 > a.2.2 ∨ (b.2.2 = a.2.2 ∧ (b.1.stamp < a.1.stamp ∨ (b.1.stamp = a.1.stamp ∧ b.1.order < a.1.order))) then b
  else a

/-- The best eligible message of an inbox. -/
def bestTask (l : List (InEntry × Word × Nat)) : Option (InEntry × Word × Nat) :=
  match l with
  | [] => none
  | a :: t => some (t.foldl betterTask a)

/-- An inbox message whose class is bound to no task at its start: to the hold or to its port where there is room, else where
the class is unbound it stays in the inbox until that is bound again (R320). -/
def Core.misplaced (q : Core) : List InEntry → Option Choice
  | [] => none
  | e :: t =>
    match q.binding e.msg.cls with
    | some (.task _ _) => q.misplaced t
    | some (.port p) => if q.portRoom p then some (.toPort e p) else q.misplaced t
    | none =>
      if e.stays then q.misplaced t
      else if q.hold.length < 4 then some (.toHold e)
      else some (.toStay e)

/-- The eligible messages of an inbox, with handler and priority. -/
def State.eligible (s : State) (core : Nat) : List (InEntry × Word × Nat) :=
  match s.partOf core with
  | none => []
  | some (pid, p) =>
    let q := s.core core
    q.inbox.filterMap fun e =>
      match q.binding e.msg.cls with
      | some (.task pc prio) => if s.mayStart core pid p e.msg then some (e, pc, prio) else none
      | _ => none

/-- What a core starts next, if anything (R320, R321). -/
def State.choice (s : State) (core : Nat) : Option Choice :=
  let q := s.core core
  if q.inbox.isEmpty && q.resident.isNone then none
  else if q.freeCtx.isNone || !s.coreRuns core || s.loading core then none
  else match q.misplaced q.inbox with
    | some c => some c
    | none =>
      match bestTask (s.eligible core), s.readyRule core with
      | some (e, pc, prio), some u =>
        let at' := u.since.getD s.wallUnits
        if prio > u.prio ∨ (prio = u.prio ∧ e.stamp ≤ at') then some (.task e pc prio) else some (.fire u)
      | some (e, pc, prio), none => some (.task e pc prio)
      | none, some u => some (.fire u)
      | none, none => none

/-! ## Starting (R321, R322, R326) -/

/-- x2 of a context (R321). -/
def Core.stackTop (q : Core) (k : Nat) : Word := ownForm (q.stkBase.toNat + (k + 1) * q.stkSize.toNat)

/-- Registers x10 and up set from a list. -/
def setArgs (c : Ctx) : Nat → List Word → Ctx
  | _, [] => c
  | n, v :: t => setArgs (c.putX (BitVec.ofNat 5 n) v) (n + 1) t

/-- The payload as x10 to x15 of the task (R321, R323). -/
def taskArgs (m : Message) : List Word :=
  let l := (m.payload ++ List.replicate 6 0).take 6
  if m.s then l.take 4 ++ [0, 0] else l

/-- The join slot of a SPAWN child's message (R323): module, core, offset. -/
def joinSlot (m : Message) : Option (Nat × Nat × Nat) :=
  if m.s then
    let w := m.payload.getD 5 0
    some (m.smod, coreAt (bits w 47 40) (bits w 55 48), bits w 15 0)
  else none

/-- The state in which a context starts something of a core (R321). -/
def State.freshCtx (s : State) (core k : Nat) : Ctx :=
  let p := s.partAt core
  { Ctx.reset with
    task := s.serial + 1, prv := p.svEn && p.svCore.toNat == core }.putX 2 ((s.core core).stackTop k)

/-- A message's task in its start state (R321, R322, R381). -/
def State.taskCtx (s : State) (core k : Nat) (m : Message) (pc : Word) (prio : Nat) : Ctx :=
  let c := setArgs ((s.freshCtx core k).putX 9 (messageHeader m)) 10 (taskArgs m)
  let p := s.partAt core
  let l := findLaunch m.launch p.launches
  { c with
    run := .task m.cls prio (joinSlot m) (isRoot m), pc := pc, path := taskPath m, dkey := taskKey m
    lnum := BitVec.ofNat 16 m.launch
    idem := match l with | some l => l.idem | none => false
    lmode := match l with | some l => BitVec.ofNat 3 l.mode | none => 0
    stream := match l with | some l => BitVec.ofNat 2 l.stream | none => 0 }

/-- A task starts in the lowest-numbered free context (R321). -/
def State.startTask (s : State) (core : Nat) (e : InEntry) (pc : Word) (prio : Nat) : State :=
  match (s.core core).freeCtx with
  | none => s
  | some k =>
    let c := s.taskCtx core k e.msg pc prio
    let s := { s with serial := s.serial + 1 }.setCtx core k c
    let s := s.modCore core fun q => { q with inbox := q.inbox.filter fun x => x.order != e.order }
    s.latchIn core

/-- TASK_START (R321): the chosen message starts as a task, as a decision of TYPE 1 (R390); or a message whose class is
bound to no task leaves the inbox (R320). -/
def execTaskStart (core : Nat) (s : State) : Host.Outcome State Fault Refusal :=
  change (fun s =>
    match s.choice core with
    | some (.task e pc prio) =>
      let m := e.msg
      let key := taskKey m
      let pid := s.pidOf core
      madderAt (s.decide pid m.launch core 8 1 key.toNat (2 ^ 46) [] key) pid m.launch core (.taskStart core)
        fun s _ => s.startTask core e pc prio
    | some (.toHold e) =>
      ((s.modCore core fun q => { q with inbox := q.inbox.filter fun x => x.order != e.order }).holdMessage core e).latchIn core
    | some (.toStay e) =>
      s.modCore core fun q => { q with inbox := q.inbox.map fun x => if x.order = e.order then { x with stays := true } else x }
    | some (.toPort e p) =>
      ((s.modCore core fun q => { q with inbox := q.inbox.filter fun x => x.order != e.order }).acceptPort core p e.msg e.stamp).latchIn core
    | _ => s) s

/-- The offset of a port's oldest unconsumed entry (R326). -/
def Resident.oldest (r : Resident) (p : Nat) : Nat := r.base + 1024 * p + 64 * (r.ports.getD p ⟨0, 0, []⟩).head

/-- The register pairs of a firing: address and count by ascending port (R326). -/
def firingArgs (r : Resident) : List (Nat × Nat) → List Word
  | [] => []
  | (p, n) :: t => ownForm (r.oldest p) :: BitVec.ofNat 64 n :: firingArgs r t

/-- A firing in its start state (R321, R326), its at most three pairs in x10 to x15 (R340): its key is the origin tag of the
first entry's message (R381). -/
def State.firingCtx (s : State) (core k : Nat) (r : Resident) (u : Rule) : Ctx :=
  let p := match u.counts with | (p, _) :: _ => p | [] => 0
  let header := s.word (localKey core (r.oldest p))
  let c := setArgs ((s.freshCtx core k).putX 9 header) 10 ((firingArgs r u.counts).take 6)
  { c with run := .firing r.name u.prio u.counts, pc := u.pc, dkey := (r.ports.getD p ⟨0, 0, []⟩).tags.headD 0 }

/-- FIRING_START (R326): the first ready rule of the core's resident fires in the lowest-numbered free context. -/
def execFiringStart (core : Nat) (s : State) : Host.Outcome State Fault Refusal :=
  change (fun s =>
    match s.choice core, (s.core core).resident, (s.core core).freeCtx with
    | some (.fire u), some r, some k =>
      let c := s.firingCtx core k r u
      let s := { s with serial := s.serial + 1 }.setCtx core k c
      s.modCore core fun q => { q with resident := some { r with firing := true, maker := none } }
    | _, _, _ => s) s

/-! ## The reference table (R388) -/

/-- The key of an entry of the reference table. -/
def Partition.refKey (p : Partition) (i : Nat) : Nat := p.mrefBase.toNat * 65536 + 16 * i

/-- The zero entry's index. -/
def Partition.refZero (p : Partition) : Nat := 2 ^ p.mrefRsz.toNat

/-- Where a search of the reference table ends: at the match, at a free entry, or nowhere. -/
inductive Probe where
  | hit (i : Nat)
  | free (i : Nat)
  | full
  deriving DecidableEq, Repr

/-- The search for a key from an entry on, n probes left. -/
def State.probeRef (s : State) (p : Partition) (key : Word) : Nat → Nat → Probe
  | _, 0 => .full
  | i, n + 1 =>
    let w := s.tableWord (p.refKey i)
    if w = key then .hit i else if w = 0 then .free i else s.probeRef p key ((i + 1) % p.refZero) n

/-- The search for a key (R388), in the table as this module holds it (log entry 40). -/
def State.findRefKey (s : State) (p : Partition) (key : Word) : Probe :=
  if key = 0 then (if s.tableWord (p.refKey p.refZero) = 1 then .hit p.refZero else .free p.refZero)
  else s.probeRef p key ((fold 0 key).toNat / 2 ^ (64 - p.mrefRsz.toNat)) 16

/-- A task's digest compares with its entry. -/
def State.refMatches (s : State) (p : Partition) (key d : Word) : Bool :=
  match s.findRefKey p key with
  | .hit i => s.tableWord (p.refKey i + 8) == d
  | _ => false

/-- A task's digest written as its entry; where there is no room the launch completes with UNRECORDED. -/
def State.refWrite (s : State) (pid num : Nat) (p : Partition) (key d : Word) : State :=
  let put (i : Nat) : State :=
    s.putWords (p.refKey i) [if key = 0 then 1 else key, d]
  match s.findRefKey p key with
  | .hit i => put i
  | .free i => put i
  | .full => s.modLaunch pid num fun l => { l with unrecorded := true }

/-! ## DONE (R222) -/

/-- The engine operations of a context's task that are outstanding. -/
def Core.taskOps (q : Core) (k task : Nat) : List (Eng × Nat) :=
  let of' (n : Eng) (g : Engine) : List (Eng × Nat) :=
    (g.queue.filter fun o => o.owner.ctx == k && o.owner.task == task && !o.owner.remote).map fun o => (n, o.num)
  of' .cp0 q.cp0 ++ of' .cp1 q.cp1 ++ of' .mx q.mx ++ of' .cl q.cl

/-- The completed operations of a context's task that no CWAIT acquired: their digests go to the launch (R386, R387). -/
def State.launchDone (s : State) (core k : Nat) : State :=
  let q := s.core core
  let task := (s.ctx core k).task
  let l := (q.cp0.done ++ q.cp1.done ++ q.mx.done ++ q.cl.done).filter fun o =>
    o.owner.ctx == k && o.owner.task == task && !o.owner.remote
  l.foldl (fun s o => s.launchOp core o.owner o.e) s

/-- A firing's counted entries released, oldest first (R222, R326). -/
def releasePorts (ports : List PortRing) : List (Nat × Nat) → List PortRing
  | [] => ports
  | (p, n) :: t => releasePorts (ports.modify p fun g => ⟨(g.head + n) % 16, g.count - n, g.tags.drop n⟩) t

/-- Whether an engine operation has ended, or will not run on and has nothing under way (R223, R303). -/
def Core.opOver (q : Core) (o : Eng × Nat) : Bool :=
  let g := q.engine o.1
  (g.queue.all fun x => x.num != o.2 || (g.barred o.2 && x.out == 0 && x.posted.isEmpty))
    && g.late.all fun x => x.num != o.2

/-- The join deliveries of a core whose task's effects are performed, sent to their slots (R223). -/
def State.pumpJoins (s : State) (core : Nat) : State :=
  let q := s.core core
  let ready (j : JoinOut) : Bool := j.stores.isEmpty && j.posted.isEmpty && j.ops.all q.opOver
  let go := q.joins.filter ready
  let s := s.modCore core fun q => { q with joins := q.joins.filter fun j => !ready j }
  go.foldl (fun s j => s.fly core j.del.core 0 (.joinDelivery j.del)) s

/-- DONE's effect once its waits are over and its digest stands (R222). A mark on x10 or x11 goes with the context; the
register is delivered as it stands (DESIGN CHOICE, log entry 38). -/
def endTask (d : Word) : M Unit := do
  let s ← get
  let core := s.focusCore
  let k := s.focusCtx
  let c := s.fctx
  let q := s.fcore
  let pid := s.pidOf core
  match c.run with
  | .task _ _ join _ =>
    let s := (s.addDigest pid c.lnum.toNat (fold (fold 0 c.dkey) d)).launchDone core k
    let s := match join with
      | none => s
      | some (_, onto, off) =>
        let del : JoinDel := ⟨onto, off, c.getX 10, c.getX 11, c.tag, c.lnum.toNat⟩
        let j : JoinOut := ⟨del, s.ownStores, c.posted, q.taskOps k c.task⟩
        (s.modCore core fun q => { q with joins := q.joins ++ [j] }).pumpJoins core
    set (s.freeCtx core k)
  | .firing _ _ counts =>
    let s := s.launchDone core k
    let r := q.resident.map fun r => { r with firing := false, ports := releasePorts r.ports counts }
    set ((s.modCore core fun q => { q with resident := r }).freeCtx core k)
  | .none => set (s.freeCtx core k)

/-- DONE (R222): its wait, the digest's comparison or record, then its effect. -/
def doneOp : M Unit := do
  noAmo
  noLoad
  let s ← get
  let c := s.fctx
  let d := match c.run with
    | .task _ _ (some _) _ => foldStore c.digest 0 (c.getX 10 ^^^ (c.getX 11).rotateLeft 32) 16 7 0
    | _ => c.digest
  match s.partOf s.focusCore, c.run with
  | some (pid, p), .task _ _ _ _ =>
    let compare := (c.lmode == 1 || c.lmode == 3) && p.mrefEn
    let record := (c.lmode == 2 || c.lmode == 4) && p.mrefWr
    if compare || record then
      if !rangeOk (p.refKey 0) (16 * (p.refZero + 1)) then throw (.fault .noSuchAddress)
    if compare && !s.refMatches p c.dkey d then trap cDIGEST 0
    if record then set (s.refWrite pid c.lnum.toNat p c.dkey d)
  | _, _ => pure ()
  endTask d

/-- DONE (R222). -/
def execTaskDone (s : State) : Host.Outcome State Fault Refusal := runInstr doneOp s

/-- H.DONE (R54). -/
def execHDone (s : State) : Host.Outcome State Fault Refusal :=
  runInstr (do
    needs .c16 .hDone
    doneOp) s

/-! ## BIND and UNBIND (R338) -/

/-- A class that BIND takes. -/
def bindable (cls : Nat) : Bool := cls == 0x0B || 0x10 ≤ cls

/-- The held messages of bound classes that find room leave the hold, in the order of their acceptance (R319). -/
def moveHeld (core : Nat) : List InEntry → State → State
  | [], s => s
  | e :: t, s =>
    let q := s.core core
    let earlier := q.hold.any fun x => x.msg.cls == e.msg.cls && x.order < e.order
    let out (s : State) : State := s.modCore core fun q => { q with hold := q.hold.filter fun x => x.order != e.order }
    match q.binding e.msg.cls with
    | some (.task _ _) =>
      if q.inbox.length < 32 && q.latch.isNone && !earlier then
        moveHeld core t ((out s).modCore core fun q => { q with inbox := q.inbox ++ [e] })
      else moveHeld core t s
    | some (.port p) =>
      if q.portRoom p && !earlier && !q.inbox.any (fun x => x.msg.cls == e.msg.cls && x.order < e.order) then moveHeld core t ((out s).acceptPort core p e.msg e.stamp) else moveHeld core t s
    | none => moveHeld core t s

/-- The held messages of a core moved as room permits. -/
def State.moveHeld (s : State) (core : Nat) : State := Machine.moveHeld core (s.core core).hold s

/-- The messages that stayed in an inbox for their class's sake, which is bound again, may start (R320). -/
def Core.rebound (q : Core) : Core :=
  { q with inbox := q.inbox.map fun e => if (q.binding e.msg.cls).isSome then { e with stays := false } else e }

/-- A handler offset that R338 and R340 refuse. -/
def badHandler (v : Word) : Bool := v.getLsbD 0 || 16382 < v.toNat

/-- BIND's status, lowest first. -/
def bindStatus (q : Core) (v h : Word) : Nat :=
  let cls := bits v 7 0
  let port := v.getLsbD 10
  if bits v 63 13 ≠ 0 ∨ bindable cls = false ∨ (port = true ∧ cls = 0x0B) then 1
  else if (port = false ∧ badHandler h = true) ∨ (port = true ∧ h ≠ 0) then 2
  else if port then
    match q.resident with
    | none => 3
    | some r => if r.ports.length ≤ bits v 12 11 then 3 else 0
  else 0

/-- BIND (R338). -/
def execBind (d a b : Reg) (s : State) : Host.Outcome State Fault Refusal :=
  seq4 (do
    let v ← readX a
    let h ← readX b
    noLoad
    let s ← get
    let st := bindStatus s.fcore v h
    if st = 0 then
      let e : Binding := if v.getLsbD 10 then .port (bits v 12 11) else .task h (bits v 9 8)
      set ((s.modFcore fun q => { q with binds := mapSet q.binds (bits v 7 0) e }.rebound).moveHeld s.focusCore)
    writeX d (BitVec.ofNat 64 st)) s

/-- UNBIND (R338). -/
def execUnbind (d a : Reg) (s : State) : Host.Outcome State Fault Refusal :=
  seq4 (do
    let v ← readX a
    noLoad
    if bits v 63 8 ≠ 0 ∨ bindable (bits v 7 0) = false then writeX d 1
    else
      modify fun s => s.modFcore fun q => { q with binds := mapDel q.binds (bits v 7 0) }
      writeX d 0) s

/-! ## RESIDE and RULE (R339, R340) -/

/-- RESIDE's descriptor asks to dissolve. -/
def dissolves (v : Word) : Bool := v == 0xF0000

/-- The word at a key of another module, by a load of the focus context, which waits for it; none where it is poisoned. -/
def farLoad (module key : Nat) : M (Option Word) := do
  match (← fctx).groupReply with
  | some (n, v) =>
    modF fun c => { c with groupReply := none }
    return if n = 50 then some v else none
  | none =>
    throw (.blockWith fun s =>
      let (id, s) := s.fresh
      let r : LoadReq := ⟨⟨s.module, s.focusCore, s.focusCtx, id⟩, s.pidOf s.focusCore, module, key, 8, s.fpart.key⟩
      (s.modF fun c => { c with mode := .waiting, req := some (.group id) }).ask s.focusCore module (homePlace key) (.remoteLoad r))

/-- An instruction's use of a word of the hardware's tables whose line a move has taken to another module (R79): it is read
there first, and kept while f runs. A poisoned one is a free word (log entry 40). -/
def withTable (key : Nat) (f : M Unit) : M Unit := do
  match (← get).missing [key] with
  | none => f
  | some _ =>
    let to' := (← get).homeNow (wordKey key)
    match ← farLoad to'.1 to'.2 with
    | some v => modify fun s => { s with far := mapSet s.far (wordKey key) v }
    | none => modify fun s => let (v, s) := s.drawWord; { s with far := mapSet s.far (wordKey key) v }
    f
    modify fun s => { s with far := mapDel s.far (wordKey key) }

/-- RESIDE's status, lowest first. -/
def resideStatus (s : State) (name v : Word) : Nat :=
  let q := s.fcore
  let p := s.fpart
  let c := bits v 19 16
  if bits name 63 16 ≠ 0 ∨ p.resEn = false then 1
  else if dissolves v then
    match q.resident with
    | none => 2
    | some r => if r.name ≠ name.toNat ∨ r.firing = true ∨ r.ports.any (fun g => g.count != 0) = true then 2 else 0
  else if q.resident.isSome then 2
  else if bits v 63 22 ≠ 0 ∨ c < 2 ∨ 8 < c ∨ bits v 15 0 % 2 ^ (8 + c) ≠ 0 ∨ 2 ^ (8 + c) < (bits v 21 20 + 1) * 1024 then 3
  else if (s.tableWord (p.dirKey name.toNat)).getLsbD 63 then 4
  else 0

/-- RESIDE reads the directory entry of its name. -/
def resideAsks (s : State) (name v : Word) : Bool :=
  bits name 63 16 == 0 && s.fpart.resEn && !dissolves v && paOk (s.fpart.dirKey name.toNat)

/-- A resident as RESIDE makes it (R339, R356). -/
def newResident (name v : Word) (maker : Nat × Nat × Nat) : Resident where
  name := name.toNat
  base := bits v 15 0
  cls := bits v 19 16
  ports := List.replicate (bits v 21 20 + 1) ⟨0, 0, []⟩
  rules := []
  firing := false
  ok := false
  hcnt := 0
  maker := some maker

/-- RESIDE (R339): a full fence; the resident made, with its directory entry, or dissolved. -/
def execReside (d a b : Reg) (s : State) : Host.Outcome State Fault Refusal :=
  seq4 (do
    let name ← readX a
    let v ← readX b
    fullFence
    fenced [0, 1]
    let s ← get
    if resideAsks s name v then withTable (s.fpart.dirKey name.toNat) (finish d name v) else finish d name v) s
where
  /-- The status, and on success the resident made or dissolved. -/
  finish (d : Reg) (name v : Word) : M Unit := do
    let s ← get
    let st := resideStatus s name v
    if st = 0 then
      let core := s.focusCore
      if !paOk (s.fpart.dirKey name.toNat) then throw (.fault .noSuchAddress)
      if dissolves v then set (s.dropResident core)
      else
        let r := newResident name v (core, s.focusCtx, s.fctx.task)
        set ((s.writeDir (s.pidOf core) name.toNat (dirEntry s.module core)).modFcore fun q =>
          { q with resident := some r, partners := Vector.replicate 8 none })
    writeX d (BitVec.ofNat 64 st)

/-- The nonzero counts of a rule word, by port (R340). -/
def ruleCounts (v : Word) : List (Nat × Nat) :=
  ((List.range 4).map fun p => (p, bits v (5 * p + 4) (5 * p))).filter fun c => c.2 != 0

/-- RULE's status, lowest first. -/
def ruleStatus (q : Core) (v h : Word) : Nat :=
  match q.resident with
  | none => 1
  | some r =>
    let l := ruleCounts v
    if bits v 63 24 ≠ 0 ∨ l.any (fun c => 16 < c.2 || r.ports.length ≤ c.1) = true ∨ 3 < l.length then 2
    else if !l.isEmpty && badHandler h then 3
    else 0

/-- RULE (R340). -/
def execRule (d a b : Reg) (s : State) : Host.Outcome State Fault Refusal :=
  seq4 (do
    let v ← readX a
    let h ← readX b
    noLoad
    let s ← get
    let st := ruleStatus s.fcore v h
    if st = 0 then
      let l := ruleCounts v
      let n := bits v 21 20
      set (s.modFcore fun q => { q with resident := q.resident.map fun r =>
        { r with rules := if l.isEmpty then mapDel r.rules n else mapSet r.rules n ⟨l, bits v 23 22, h, none⟩ } })
    writeX d (BitVec.ofNat 64 st)) s

/-! ## CODELD (R341) -/

/-- An 8-byte word of an image, by a translated address with E (R77): POISON of a poisoned word, a request to another
module's home. -/
def codeWord (va : Word) : M Word := do
  let d ← translate va .codeSource
  let s ← get
  let d := s.whereNow d
  if d.module = s.module then
    if s.poisoned d.key then trap cPOISON va
    return s.word d.key
  else match ← farLoad d.module d.key with
    | some v => return v
    | none => trap cPOISON va

/-- LEN of an image's header. -/
def imageLen (h : List Word) : Nat := bits (h.getD 0 0) 14 0

/-- DEST of an image's header. -/
def imageDest (h : List Word) : Nat := bits (h.getD 0 0) 30 16

/-- FEAT of an image's header. -/
def imageFeat (h : List Word) : BitVec 11 := (h.getD 1 0).truncate 11

/-- CODELD's status by a header (R341). -/
def imageStatus (p : Partition) (h : List Word) : Nat :=
  let w := h.getD 0 0
  let len := imageLen h
  let dest := imageDest h
  if w.getLsbD 15 || bits w 63 31 != 0 || bits (h.getD 1 0) 63 11 != 0 || len % 2 == 1 || len == 0 || 16384 < len
      || dest % 2 == 1 || 16384 < dest + len then 1
  else if imageFeat h &&& ~~~p.featmask ≠ 0 then 2
  else 0

/-- A part of an image written into a code store, its halfwords good again. -/
def State.putCode (s : State) (core off n : Nat) (v : Word) : State :=
  (s.write (codeKey core off) n v.toNat).modCore core fun q =>
    if q.badCode.isEmpty then q else { q with badCode := q.badCode.filter fun o => o < off || off + n ≤ o }

/-- The bytes of a word, the lowest first. -/
def wordBytes (w : Word) : List Byte := (List.range 8).map fun i => BitVec.ofNat 8 (w.toNat / 256 ^ i)

/-- The bytes of a digest, the lowest first. -/
def hashBytes (h : BitVec 256) : List Byte := (List.range 32).map fun i => BitVec.ofNat 8 (h.toNat / 256 ^ i)

/-- The measurement M of a confidential partition after an image is loaded into a core, of the header and the code that
CODELD copied (R453). -/
def State.measure (s : State) (pid core : Nat) (h : List Word) (code : List Byte) : State :=
  s.modPart pid fun p =>
    if p.conf then
      let inner := Config.sha3 (h.flatMap wordBytes ++ code)
      { p with measM := Config.sha3 (hashBytes p.measM ++ hashBytes inner ++ [BitVec.ofNat 8 core, BitVec.ofNat 8 (core / 256)]) }
    else p

/-- CODELD ends with a status. -/
def codeDone (d : Reg) (v : Word) : M Unit := do
  modF fun c => { c with copy := none }
  writeX d v
  advance 4

/-- One part of a CODELD under way: a header word, or 8 bytes of the code. A trap in the middle of the copy, of PERM as of
POISON (R341), leaves what has been copied (DESIGN CHOICE for PERM, log entry 21). -/
def codeStep (d : Reg) (p : CodeCopy) : M Unit := do
  if p.header.length < 2 then
    let w ← codeWord (p.va + BitVec.ofNat 64 (8 * p.header.length))
    let h := p.header ++ [w]
    let s ← get
    let st := if h.length = 2 then imageStatus s.fpart h else 0
    if st ≠ 0 then codeDone d (BitVec.ofNat 64 st)
    else modF fun c => { c with copy := some { p with header := h, reached := p.reached || h.length == 2 } }
  else
    let s ← get
    if (s.octet (octetOf p.target)).power ≠ .active then
      throw (.blockWith fun s => s.startWake (octetOf p.target))
    let len := imageLen p.header
    let w ← codeWord (p.va + BitVec.ofNat 64 (16 + 8 * p.pos))
    let n := Nat.min 8 (len - 8 * p.pos)
    let code := p.code ++ (wordBytes w).take n
    modify fun s => (s.stirOctet (octetOf p.target)).putCode p.target (imageDest p.header + 8 * p.pos) n w
    if len ≤ 8 * p.pos + 8 then
      modify fun s => (s.modCore p.target fun q => { q with feat := q.feat ||| imageFeat p.header }).measure
        (s.pidOf s.focusCore) p.target p.header code
      codeDone d 0
    else modF fun c => { c with copy := some { p with pos := p.pos + 1, code := code } }

/-- CODELD (R341), one part at each issue. -/
def execCodeld (d a b : Reg) (s : State) : Host.Outcome State Fault Refusal :=
  runInstr (do
    supervisor (.codeld d a b)
    match (← fctx).copy with
    | some p => codeStep d p
    | none =>
      let back := (← fctx).streams
      let va ← readX a
      let t ← readX b
      if bits va 63 55 ≠ 0 then trap cACCESS va
      if va.toNat % 8 ≠ 0 then trap cMISALIGN va
      let s ← get
      match coreForm s.fpart s.focusCore t with
      | none => trap cACCESS t
      | some (onto, _) =>
        noAmo
        noLoad
        fenced [0]
        holdUntil (s.fcore.sb.all fun e => e.ctx != s.focusCtx)
        modF fun c => { c with copy := some ⟨va, onto, back, [], 0, [], false⟩ }) s

end Sys2Proof.Machine
end

