-- ==== Sys2Proof/Machine/Launch.lean ====
section
/-! DEFINITION. The launch sequencer (R328 to R331, R396), and the log's reader and its limits (R392, R393, R395). -/

namespace Sys2Proof.Machine

/-! ## Requests (R328, R331) -/

/-- Word 0 of a launch request. -/
def requestWord (m : Message) : Word := m.payload.getD 0 0

/-- MODE of a request (R329). -/
def requestMode (m : Message) : Nat := bits (requestWord m) 6 4

/-- STREAM of a request. -/
def requestStream (m : Message) : Nat := bits (requestWord m) 1 0

/-- A request that is rejected (R331). -/
def requestBad (p : Partition) (m : Message) : Bool :=
  let w := requestWord m
  let root := bits w 29 16
  let hash := w.getLsbD 30
  let mode := requestMode m
  bits w 3 2 != 0 || bits w 63 31 != 0 || bits w 15 8 < 0x10 || (!hash && !p.hasCore root) || (hash && root != 0)
    || 5 ≤ mode || ((mode == 2 || mode == 3) && !p.mlogEn)

/-- The requests of a stream. -/
def Partition.stream (p : Partition) (i : Nat) : List (Message × Bool) := p.streams[i % 4]'(Nat.mod_lt _ (by decide))

/-- The requests of a stream replaced. -/
def Partition.setStream (p : Partition) (i : Nat) (l : List (Message × Bool)) : Partition :=
  { p with streams := p.streams.set (i % 4) l (Nat.mod_lt _ (by decide)) }

/-- The launch under way on a stream. -/
def Partition.activeOn (p : Partition) (i : Nat) : Option Nat := p.active[i % 4]'(Nat.mod_lt _ (by decide))

/-- The launch under way on a stream replaced. -/
def Partition.setActive (p : Partition) (i : Nat) (n : Option Nat) : Partition :=
  { p with active := p.active.set (i % 4) n (Nat.mod_lt _ (by decide)) }

/-- A launch record or rejection sent to the requester (R331, R480): a core, or the host through the endpoint it asked
by (R449), where word 0 of the send is not stated (log entry 8). -/
def State.report (s : State) (pid : Nat) (p : Partition) (m : Message) (tag : Word) (words : List Word) : State :=
  let sender := p.coreOf 0
  let (n, s) := s.fresh
  let r := builtMessage n (seqPlace pid) p.key m.launch m.smod (senderOf m) s.module sender tag 0 words
  if m.side.endpoint = 0 then s.sendMessage (seqPlace pid) pid m.smod (senderOf m) r
  else
    let (w, s) := s.drawWord
    { s with hostOut := s.hostOut ++ [HostOut.send pid (m.side.endpoint - 1) (w :: messageHeader r :: r.payload)] }

/-- The partition of a key, 64 for none. -/
def State.keyPid (s : State) (key : BitVec 16) : Nat :=
  match s.parts.find? fun q => q.2.key == key with | some q => q.1 | none => 64

/-- LAUNCH_REQUEST (R328, R331), at the router of the partition's core of index 0, whose site and octet its refusal is a
decision and a count of (DESIGN CHOICE, log entry 20): refused while its sender has an earlier one refused (R315) or its
stream is full; rejected; or it joins its stream. -/
def State.launchRequest (s : State) (m : Message) : State :=
  let own := m.smod == s.module
  let pid := if own then s.pidOf (senderOf m) else s.keyPid m.key
  let saved := s.parts.find? fun q =>
    q.2.stage == .saved && q.2.key == m.key && (!own || q.2.hasCore (senderOf m))
  match saved, s.part pid with
  | some q, _ =>
    let home := q.2.coreOf 0
    s.modOctet (octetOf home) fun x => { x with held := x.held ++ [s.flightTo home (.launchRequest m)] }
  | none, none => s.machineCheck.accepted m
  | none, some p =>
    let home := p.coreOf 0
    if s.preempted home (s.msgPid m) then
      s.modOctet (octetOf home) fun x => { x with held := x.held ++ [s.flightTo home (.launchRequest m)] }
    else if p.key ≠ m.key then s.contain home m
    else
      let i := requestStream m
      let bad := requestBad p m
      let forced := s.refusalLogged home m
      match s.holdBehind home m (.launchRequest m) with
      | some t => t
      | none =>
      if tableRefuses p.seqRef m || overtakes p.seqRefused m || (!bad && 16 ≤ (p.stream i).length) || forced then
        s.refusal home m forced (.launchRequest m) fun s =>
          (s.modPart pid fun p => p.refuses m).returnMessage (seqPlace pid) home m false
      else
        let s := ((s.modPart pid fun p => p.releases (refOf m)).accepted m).count (octetOf home) 5 1
        if bad then s.report pid p m (fold m.side.tag 2) [BitVec.ofNat 64 (2 ^ 63 + 4)]
        else s.modPart pid fun p => p.setStream i (p.stream i ++ [(m, false)])

/-- LAUNCH_REQUEST. -/
def execLaunchRequest (m : Message) (s : State) : Host.Outcome State Fault Refusal :=
  change (fun s => s.launchRequest m) s

/-! ## Starts (R328, R329) -/

/-- The mode a stream's request runs in: a re-execution runs in SERIAL (R396). -/
def runMode (r : Message × Bool) : Nat := if r.2 then 4 else requestMode r.1

/-- The request that a stream can start now: its last launch has ended, and no other launch records or replays where
this one would (R380). -/
def Partition.startable (p : Partition) (i : Nat) : Option (Message × Bool) :=
  match p.activeOn i, p.stream i with
  | none, r :: _ =>
    if (runMode r = 2 ∨ runMode r = 3) ∧ p.recorder.isSome = true then none else some r
  | _, _ => none

/-- The next launch number from n on that agrees with no live one modulo 4,096 (R328). -/
def freeNumber (live : List Nat) (n : Nat) : Nat → Nat
  | 0 => n
  | k + 1 => if live.any fun l => l % 4096 == n % 4096 then freeNumber live (if 65535 ≤ n then 1 else n + 1) k else n

/-- The root message of a launch (R329, R480), the message numbered n that hardware builds, by the sequencer at a place. -/
def rootMessage (n unit : Nat) (p : Partition) (own num : Nat) (m : Message) : Message :=
  let w := requestWord m
  let path : Word := BitVec.ofNat 64 (num % 4096 * 2 ^ 52)
  { m with
    key := p.key, launch := num, vn := 0, kind := 0, module := own
    dest := if w.getLsbD 30 then p.placed path else bits w 29 16
    cls := BitVec.ofNat 8 (bits w 15 8), r := false, s := false, h := false
    payload := BitVec.ofNat 64 num :: ((m.payload.drop 1) ++ List.replicate 5 0).take 5
    side := ⟨path, path, false, 0, n, (own, unit), false, 0⟩ }

/-- A site with nothing of a partition's log or replay: its entries and held decisions go. -/
def Site.clear (x : Site) (pid : Nat) : Site :=
  { x.setEntries pid [] with stalls := x.stalls.filter fun y => y.1 != pid }

/-- The sites' replay entries and held decisions of a partition dropped; what they hold looks again. -/
def State.clearReplay (s : State) (pid : Nat) : State :=
  let s : State := { s with
    cores := s.cores.map fun q => (q.1, { q.2 with site := q.2.site.clear pid })
    ports := s.ports.map fun q => (q.1, { q.2 with site := q.2.site.clear pid }) }
  let sites : List Nat := s.cores.map (fun q => q.1) ++ s.ports.map fun q => 12288 + q.1
  sites.foldl (fun s n => s.releaseSite n) s

/-- A stream's next launch starts (R329): it takes a number, RECORD empties the log, REPLAY starts its reader (R389,
R393), and its root's message is sent. -/
def State.startLaunch (s : State) (pid i : Nat) (p : Partition) (r : Message × Bool) : State :=
  let num := freeNumber (p.launches.map (·.num)) p.nextNum 4096
  let mode := runMode r
  let (n, s) := s.fresh
  let root := rootMessage n (seqPlace pid) p s.module num r.1
  let l : Launch :=
    { num := num, mode := mode, idem := (requestWord r.1).getLsbD 7, stream := i, request := r.1, path := root.side.path
      digest := 0, unrecorded := false, reexec := r.2 }
  let s := s.modPart pid fun p =>
    { (p.setStream i (p.stream i).tail).setActive i (some num) with
      launches := p.launches ++ [l], nextNum := if num = 65535 then 1 else num + 1
      recorder := if mode = 2 ∨ mode = 3 then some num else p.recorder
      logNext := if mode = 2 then 0 else p.logNext
      logAband := if mode = 2 then false else p.logAband
      readPos := 0 }
  let s := if mode = 3 then (s.clearReplay pid).kickReader pid else s
  s.sendMessage (seqPlace pid) pid s.module root.dest root

/-- LAUNCH_START (R328, R329): the stream's next launch; one of a lower stream that is also due takes its number first. -/
def execLaunchStart (pid stream : Nat) (s : State) : Host.Outcome State Fault Refusal :=
  change (fun s =>
    match s.part pid with
    | none => s
    | some p =>
      match (List.range stream).find? fun j => (p.startable j).isSome with
      | some j => (s.flyOnce (seqPlace pid) (seqPlace pid) 3 (.launchStart pid j)).fly (seqPlace pid) (seqPlace pid) 3
          (.launchStart pid stream)
      | none => match p.startable stream with
        | some r => s.startLaunch pid stream p r
        | none => s) s

/-! ## Ends (R330, R331, R396) -/

/-- A message of a launch of a partition. -/
def ofLaunch (m : Message) (p : Partition) (num : Nat) : Bool := m.launch == num && m.key == p.key

/-- An event that carries a message of a launch. -/
def eventOfLaunch (p : Partition) (num : Nat) (e : Event) : Bool :=
  match eventMessage e with | some m => ofLaunch m p num | none => false

/-- A message of the launch remains at a core: queued, accepted, or held. -/
def Core.hasMessage (q : Core) (p : Partition) (num : Nat) : Bool :=
  (q.sq0 ++ q.sq1 ++ q.sq2).any (fun e => ofLaunch e.msg p num) || (q.inbox ++ q.hold).any (fun e => ofLaunch e.msg p num)
    || (q.exchHeld ++ q.stopped ++ q.site.hold).any (eventOfLaunch p num) || (match q.latch with | some m => ofLaunch m p num | none => false)

/-- Every task of a launch is done and no message of it remains in a send queue, in flight, in an inbox or in an unbound
hold (R330). -/
def State.launchOver (s : State) (p : Partition) (num : Nat) : Bool :=
  s.cores.all (fun q => !(q.2.ctxs.toList.any fun c => c.inLaunch num && p.hasCore q.1) && !q.2.hasMessage p num)
    && s.flights.all (fun f => !eventOfLaunch p num f.ev) && s.timers.all (fun t => !eventOfLaunch p num t.2)
    && s.octets.all (fun o => !o.2.held.any (fun f => eventOfLaunch p num f.ev) && !o.2.engInbox.any fun m => ofLaunch m p num)
    && s.fabric.all fun q => !q.unacked.any fun k => match k.packet.cargo with | .msg _ m => ofLaunch m p num | _ => false

/-- A launch leaves its stream and the partition's list; a record or replay of it is over. -/
def State.dropLaunch (s : State) (pid : Nat) (l : Launch) : State :=
  let s := s.modPart pid fun p =>
    { p.setActive l.stream none with
      launches := p.launches.filter fun x => x.num != l.num
      recorder := if p.recorder = some l.num then none else p.recorder }
  if l.mode = 2 ∨ l.mode = 3 then s.clearReplay pid else s

/-- The record of a launch that has ended (R331, R382): words for which its end gives nothing are zero (DESIGN CHOICE, log
entry 20). -/
def State.launchRecord (s : State) (pid : Nat) (l : Launch) (status : Nat) (cause tval path : Word) : State :=
  match s.part pid with
  | none => s
  | some p =>
    let w := 2 ^ 63 + status + (if l.unrecorded then 256 else 0) + (if l.reexec then 512 else 0)
    s.report pid p l.request (fold l.path 0x7FFFFFFFFFFFFFFF)
      [BitVec.ofNat 64 w, BitVec.ofNat 64 l.num, cause, tval, path, l.digest]

/-- LAUNCH_COMPLETE (R330, R331): a launch of which nothing remains ends with status COMPLETE. -/
def execLaunchComplete (pid num : Nat) (s : State) : Host.Outcome State Fault Refusal :=
  change (fun s =>
    match s.part pid with
    | none => s
    | some p => match findLaunch num p.launches with
      | none => s
      | some l => if s.launchOver p num then (s.dropLaunch pid l).launchRecord pid l 0 0 0 0 else s) s

/-- A context of an ended launch is killed (R330): its full/empty operation is cancelled, what its engines completed goes
to the launch digest, and it is freed, once the AMO it waits for has ended (R112). -/
def State.killCtx (s : State) (core k : Nat) : State :=
  let s := (s.cancelReq core k).launchDone core k
  if (s.ctx core k).pend.any (·.isAmo) then
    (s.dropReply core k).modCtx core k fun c => { c with mode := .waiting, req := none, wait := none, dying := true }
  else s.freeCtx core k

/-- Every task of a launch on a core killed. -/
def State.killTasks (s : State) (core num : Nat) : State :=
  (List.range 8).foldl (fun s k => if (s.ctx core k).inLaunch num then s.killCtx core k else s) s

/-- The queued messages of a core that are of the launch dropped, the refused ones withdrawn (R315, R330). -/
def State.dropQueued (s : State) (core : Nat) (p : Partition) (num : Nat) : State :=
  let s := (s.core core).queued.foldl (fun s e =>
    if ofLaunch e.msg p num then s.leaveRefuser core (s.pidOf core) e none else s) s
  let keep (e : SqEntry) : Bool := !ofLaunch e.msg p num
  let s := s.modCore core fun q =>
    { q with
      sq0 := q.sq0.filter keep, sq1 := q.sq1.filter keep, sq2 := q.sq2.filter keep
      inbox := q.inbox.filter fun e => !ofLaunch e.msg p num
      hold := q.hold.filter fun e => !ofLaunch e.msg p num
      exchHeld := q.exchHeld.filter fun e => !eventOfLaunch p num e
      stopped := q.stopped.filter fun e => !eventOfLaunch p num e
      site := { q.site with hold := q.site.hold.filter fun e => !eventOfLaunch p num e }
      latch := match q.latch with | some m => if ofLaunch m p num then none else some m | none => none }
  ((s.pumpSends core).latchIn core).drainCheck core

/-- A message of a launch that is on its way back to its sender, which will withdraw it (R315). -/
def comesBack : Event → Bool
  | .refused _ _ _ => true
  | _ => false

/-- Every message of a launch dropped wherever it waits (R330). A launch request that a stream of the sequencer has taken
stays (DESIGN CHOICE, log entry 20). -/
def State.dropMessages (s : State) (p : Partition) (num : Nat) : State :=
  let octet (o : Octet) : Octet :=
    { o with
      held := o.held.filter fun f => !eventOfLaunch p num f.ev
      engInbox := o.engInbox.filter fun m => !ofLaunch m p num }
  let built (e : Event) : Option Message :=
    match eventMessage e with
    | some m => if m.side.hardware && m.side.unit.1 == s.module && ofLaunch m p num && !comesBack e then some m else none
    | none => none
  let gone := s.flights.filterMap (fun f => built f.ev) ++ s.timers.filterMap (fun t => built t.2)
    ++ s.octets.flatMap fun o => o.2.held.filterMap fun f => built f.ev
  let pid := s.keyPid p.key
  let s : State := { s with
    flights := s.flights.filter fun f => comesBack f.ev || !eventOfLaunch p num f.ev
    timers := s.timers.filter fun t => !eventOfLaunch p num t.2
    octets := s.octets.map fun o => (o.1, octet o.2) }
  let s := gone.foldl (fun s m => s.withdraw m.side.unit.2 pid m (m.module, m.dest)) s
  s.cores.foldl (fun s q => s.dropQueued q.1 p num) s

/-- The held full/empty entries of a launch removed (R194, R330). -/
def State.dropHeld (s : State) (pid num : Nat) : State :=
  let keep (h : HeldFe) : Bool := !(h.req.pid == pid && h.req.launch == num && h.req.who.module == s.module)
  { s with
    cores := s.cores.map fun q => (q.1, { q.2 with waitTab := q.2.waitTab.filter keep })
    ports := s.ports.map fun q => (q.1, { q.2 with waitTab := q.2.waitTab.filter keep }) }

/-- The engine operations of a launch on a core dropped (R136, R283). -/
def State.dropEngines (s : State) (core num : Nat) : State :=
  let of' (o : EngOp) : Bool := o.owner.launch == num
  let s := (s.endUnit core .cp0 of').endUnit core .cp1 of'
  ((((s.dropOps core .cp0 of').dropOps core .cp1 of').dropOps core .mx of').dropOps core .cl of').dropFill core

/-- A launch ends by fault (R330, R331, R395, R396): its tasks, messages, held entries and engine operations go; a DIGEST
of a launch flagged IDEM runs it again in SERIAL, every other end is reported. -/
def State.endByFault (s : State) (pid num cause : Nat) (tval path : Word) : State :=
  match s.part pid with
  | none => s
  | some p => match findLaunch num p.launches with
    | none => s
    | some _ =>
      if p.stage = .saved then s else
      let cs := (s.coresOf p).map (·.1)
      let s := cs.foldl (fun s c => s.killTasks c num) s
      let s := (s.dropMessages p num).dropHeld pid num
      let s := cs.foldl (fun s c => s.dropEngines c num) s
      match s.part pid with
      | none => s
      | some p => match findLaunch num p.launches with
        | none => s
        | some l =>
          let s := s.dropLaunch pid l
          if cause = 0x23 ∧ l.idem = true ∧ l.reexec = false then
            s.modPart pid fun p => p.setStream l.stream ((l.request, true) :: p.stream l.stream)
          else
            let status := if cause = 0x22 then 2 else if cause = 0x23 then 3 else 1
            s.launchRecord pid l status (BitVec.ofNat 64 cause) tval path

/-- LAUNCH_END_BY_FAULT (R330). -/
def execLaunchEndByFault (pid num cause : Nat) (tval path : Word) (s : State) : Host.Outcome State Fault Refusal :=
  change (fun s => s.endByFault pid num cause tval path) s

/-! ## The log (R392, R393, R395) -/

/-- The log's next entry goes to its site's queue of 32, a TYPE 4 or 11 with its value; what the site holds looks again
(R393). -/
def State.readEntry (s : State) (pid : Nat) (p : Partition) : State :=
  if s.logEnds p then s
  else
  let w := s.tableWord (p.logKey p.readPos)
  let two := entryType w == 4 || entryType w == 11
  let l := if two then [w, s.tableWord (p.logKey (p.readPos + 1))] else [w]
  let old := (s.site (siteOf w)).entries pid
  if 32 < old.length + l.length then s
  else
    let s := s.modSite (siteOf w) fun x => x.setEntries pid (old ++ l)
    let s := s.modPart pid fun p => { p with readPos := p.readPos + l.length }
    ((s.releaseSite (siteOf w)).tryPlace (siteOf w)).kickReader pid

/-- LOG_READER_ENTRY (R393): the next entry is read, on another module where a move has taken it (R79), unless the log has
ended (R390) or the partition is saved (R398). -/
def execLogReaderEntry (pid : Nat) (s : State) : Host.Outcome State Fault Refusal :=
  change (fun s =>
    match s.part pid with
    | none => s.farDone (.logReaderEntry pid)
    | some p =>
      let live := match p.recorder with | some n => s.recMode pid n == 3 | none => false
      if !live || p.stage == .saved || p.logNext.toNat ≤ p.readPos then s.farDone (.logReaderEntry pid)
      else
        let keys := [0, 1].filterMap fun i => if p.readPos + i < p.logNext.toNat then some (p.logKey (p.readPos + i)) else none
        s.withFar (.logReaderEntry pid) keys fun s => s.readEntry pid p) s

/-- The decisions of a partition at a site whose hold has lasted for LIMIT: their contexts (8 for none) and tags. -/
def State.stallsOver (s : State) (pid site : Nat) : List (Nat × Word) :=
  ((s.site site).stalls.filter fun x => x.1 == pid && x.2.1 ≤ s.wallUnits).map (·.2.2)

/-- LOG_STALL_EXPIRY (R392): where the region still has no room, the recording is abandoned with a TYPE 12 entry, and
every held decision proceeds. -/
def execLogStallExpiry (pid site : Nat) (s : State) : Host.Outcome State Fault Refusal :=
  change (fun s =>
    match s.part pid with
    | none => s
    | some p => match p.recorder with
      | none => s
      | some num =>
        if s.recMode pid num = 2 && !(s.stallsOver pid site).isEmpty then
          if p.logRoom 2 then (s.modSite site fun x => { x with stalls := x.stalls.filter fun y => y.1 != pid }).releaseSite site
          else s.abandonLog pid num site
        else s) s

/-- The path of the task whose start a core holds by its tag; 0 where a site holds something else (R395). -/
def State.heldPath (s : State) (site : Nat) (tag : Word) : Word :=
  if site < 12288 then
    match (s.core site).inbox.find? fun e => taskKey e.msg == tag with
    | some e => taskPath e.msg
    | none => 0
  else 0

/-- REPLAY_HOLD_EXPIRY (R395): the launch diverges, at the context whose decision has been held for too long or at the
port. -/
def execReplayHoldExpiry (pid site : Nat) (s : State) : Host.Outcome State Fault Refusal :=
  change (fun s =>
    match s.part pid with
    | none => s
    | some p => match p.recorder with
      | none => s
      | some num =>
        (s.stallsOver pid site).foldl (fun s x =>
          let s := s.modSite site fun y => y.unstall pid x.1 x.2
          if x.1 < 8 then s.takeTrap site x.1 cDIVERGE x.2 else s.divergeAt pid num site cDIVERGE (s.heldPath site x.2)) s) s

end Sys2Proof.Machine
end

