-- ==== Sys2Proof/Machine/Smalt.lean ====
section
/-! DEFINITION. Smalt (R342 to R356): instants and pairings, the decision, the exchange of two residents, and SWAPOK. -/

namespace Sys2Proof.Machine

/-! ## SWAPOK (R356) -/

/-- SWAPOK (R356). -/
def execSwapok (a : Reg) (s : State) : Host.Outcome State Fault Refusal :=
  seq4 (do
    needs .smalt (.swapok a)
    let c ← readX a
    if bits c 63 1 ≠ 0 then trap cACCESS c
    noLoad
    modify fun s => s.modFcore fun q => { q with resident := q.resident.map fun r => { r with ok := c.getLsbD 0 } }) s

/-! ## Instants (R342, R346) -/

/-- Whether swaps are enabled in a partition (R342). -/
def Partition.swaps (p : Partition) : Bool := p.swEn && p.enabled .smalt

/-- The period of a partition's instants in wall ns. -/
def Partition.periodNs (p : Partition) : Nat := p.swPeriod.toNat * 1000

/-- The next instant of a partition armed anew: the first wall time from now on that is a whole multiple of its period,
the present one not counted (R346). -/
def State.armSwap (s : State) (pid : Nat) : State :=
  let s := s.disarm (.swapInstant pid)
  match s.part pid with
  | some p =>
    if p.swaps ∧ p.periodNs ≠ 0 ∧ p.stage = .running then
      s.arm ((s.wallNs / p.periodNs + 1) * p.periodNs * unitsPerNs) (.swapInstant pid)
    else s
  | none => s

/-- The octet that an octet pairs with at instant k, from the side of the lower coordinates (R346). -/
def pairedOctet (k o : Nat) : Option Nat :=
  let x := o % 48
  let y := o / 48
  if k % 4 = 0 then (if x % 2 = 0 ∧ x < 47 then some (o + 1) else none)
  else if k % 4 = 1 then (if y % 2 = 0 ∧ y < 31 then some (o + 48) else none)
  else if k % 4 = 2 then (if x % 2 = 1 ∧ x < 47 then some (o + 1) else none)
  else if y % 2 = 1 ∧ y < 31 then some (o + 48) else none

/-- The distance of two octets (R347). -/
def octetDistance (a b : Nat) : Int :=
  let d (m n : Nat) : Int := if m ≤ n then n - m else m - n
  d (a % 48) (b % 48) + d (a / 48) (b / 48)

/-- d of R347. -/
def coreDistance (a b : Nat) : Int := octetDistance (octetOf a) (octetOf b)

/-- A core's half of the gain: hA of core a towards core b, whose resident is named (R347). -/
def halfGain (module a b : Nat) (name : Option Nat) (l : List (Option Partner)) : Int :=
  l.foldl (fun n p => match p with
    | none => n
    | some p =>
      if p.module = module ∧ some p.name ≠ name then
        n + ((p.sent + p.recv : Nat) : Int) * (coreDistance a p.core - coreDistance b p.core)
      else n) 0

/-- Whether a swap instant changes anything at a core: it hosts a resident, or forwards. -/
def Core.swapsMatter (q : Core) : Bool := q.resident.isSome || q.fwd != 0

/-- A unit's part of an instant: its half, its resident's consent, and what the instant finds in swapcfg (R342, R348). -/
def pairingOf (module a b : Nat) (q other : Core) (p : Partition) : Pairing where
  partner := b
  half := halfGain module a b (other.resident.map (·.name)) q.partners.toList
  consent := match q.resident with | some r => r.ok | none => false
  heard := false
  thresh := p.swThresh.toNat
  holdoff := p.swHoldoff.toNat
  swaps := false
  waits := []

/-- What every unit does at an instant, whatever the decision (R348): a partner table halved, its empty entries freed. -/
def halvePartner : Option Partner → Option Partner
  | none => none
  | some p =>
    let p := { p with sent := p.sent / 2, recv := p.recv / 2 }
    if p.sent = 0 ∧ p.recv = 0 then none else some p

/-- What every unit does at an instant, whatever the decision (R348). -/
def Core.afterInstant (q : Core) : Core :=
  { q with
    partners := q.partners.map halvePartner
    resident := q.resident.map fun r => { r with hcnt := r.hcnt - 1 }
    fwd := q.fwd - 1 }

/-- A pair of cores begins an instant: both stop new firings and send their halves (R348). Where a unit of the pair is not
done with an earlier instant, the pair does not swap at this one, and both only halve and count down (DESIGN CHOICE: no rule
says how instants overlap; log entry 38). -/
def State.beginPair (s : State) (p : Partition) (a b : Nat) : State :=
  let qa := s.core a
  let qb := s.core b
  if !(qa.swapsMatter || qb.swapsMatter) then s
  else if qa.pairing.isSome || qb.pairing.isSome then (s.modCore a Core.afterInstant).modCore b Core.afterInstant
  else
    let s := s.modCore a fun q => { q with pairing := some (pairingOf s.module a b qa qb p) }
    let s := s.modCore b fun q => { q with pairing := some (pairingOf s.module b a qb qa p) }
    (s.fly a b 3 (.swapControl a b)).fly b a 3 (.swapControl b a)

/-- The pairs of octets of a partition that take part in instant k: both in it and active (R346). -/
def State.octetPairs (s : State) (p : Partition) (k : Nat) : List (Nat × Nat) :=
  p.octets.filterMap fun o => match pairedOctet k o with
    | some o' =>
      if p.hasOctet o' && (s.octet o).power == .active && (s.octet o').power == .active then some (o, o') else none
    | none => none

/-- SWAP_INSTANT (R346, R348): the pairs of the instant, and the next instant. -/
def execSwapInstant (pid : Nat) (s : State) : Host.Outcome State Fault Refusal :=
  change (fun s =>
    match s.part pid with
    | none => s
    | some p =>
      if p.swaps ∧ p.periodNs ≠ 0 ∧ p.stage = .running then
        let k := s.wallNs / p.periodNs
        let s := (s.octetPairs p k).foldl (fun s o =>
          (List.range 8).foldl (fun s i => s.beginPair p (octetCore o.1 i) (octetCore o.2 i)) s) s
        s.armSwap pid
      else s) s

/-! ## The decision (R348) -/

/-- A class that is port-bound at one core and task-bound at the other (R348). -/
def bindingsClash (a b : Core) : Bool :=
  let clash (x y : Core) : Bool := x.binds.any fun e => match e.2, y.binding (BitVec.ofNat 8 e.1) with
    | .port _, some (.task _ _) => true
    | _, _ => false
  clash a b || clash b a

/-- The pair swaps (R348). -/
def swapHolds (pa pb : Pairing) (a b : Core) : Bool :=
  match a.resident, b.resident with
  | some ra, some rb =>
    decide ((pa.thresh : Int) < pa.half + pb.half) && pa.consent && pb.consent && !ra.firing && !rb.firing
      && ra.hcnt == 0 && rb.hcnt == 0 && ra.base == rb.base && ra.cls == rb.cls && !bindingsClash a b
  | _, _ => false

/-- A range of a core's local memory: core, offset, bytes. -/
abbrev LocalRange := Nat × Nat × Nat

/-- The local memory that the units of a record in core form take up. -/
def recReach (p : Partition) (core : Nat) (r crd : List Word) : List LocalRange :=
  (List.range (boxUnits r)).filterMap fun u =>
    let at' := coords r crd u
    match recPlace p core r (if inBounds r at' then at' else clamped r at') with
    | .here c o _ => some (c, o, unitBytes (recEsize r))
    | _ => none

/-- The local ranges that an engine operation of a core reads or writes, on the own module: of its own partition's cores
(R151, R161). -/
def State.opReach (s : State) (core : Nat) (x : EngOp) : List LocalRange :=
  let p := s.partAt core
  let memberAt (g rank : Nat) : Option Nat := match s.member (p.groupKey g) rank with
    | some m => if m.1 = s.module then some m.2 else none
    | none => none
  match x.cmd with
  | .cpyin dst r c => (core, dst, boxBytes r) :: recReach p core r c
  | .cpyout src r c => (core, src, boxBytes r) :: recReach p core r c
  | .cpyll d e n =>
    let at' (w : Word) : List LocalRange := match coreForm p core w with | some (k, o) => [(k, o, n)] | none => []
    at' d ++ at' e
  | .halo desc mask =>
    ((List.range 4).filter (fun i => mask / 2 ^ i % 2 == 1)).flatMap fun i =>
      match neighbour core (dirOf i) with
      | some t =>
        if p.hasCore t then (haloCells desc (dirOf i)).flatMap fun x => [(core, x.1, haloSize desc), (t, x.2, haloSize desc)]
        else []
      | none => []
  | .xchg g map rank _ _ =>
    (core, mapSrc map, mapCount map rank * mapSize map) :: (List.range (mapCount map rank)).filterMap fun i =>
      let e := mapElement map rank i
      (memberAt g e.2.1).map fun t => (t, e.2.2, mapSize map)
  | .mcast _ targets src dst words _ =>
    (core, src, 8 * words) :: (targets.filter fun t => t.1 == s.module).map fun t => (t.2, dst, 8 * words)
  | .reduce g rank n _ w32 src dst cnt =>
    let b := (if w32 then 4 else 8) * cnt
    (core, src, b) :: if rank = 0 then (List.range n).filterMap fun r => (memberAt g r).map fun t => (t, dst, b) else []
  | .mma _ a b k =>
    (mmaRanges core a b k (if x.started then x.fmt else s.sampled core x)).filterMap fun r =>
      if r.1 < 0x2000000000000 then some (core, (r.1 - 0x1000000000000) % 65536, r.2) else none
  | .accz _ => []
  | .accld _ a => [(core, a, 4096)]
  | .accst _ a _ => [(core, a, 4096)]
  | .accmv _ => []
  | .wbld _ a n => match coreForm p core a with | some (k, o) => [(k, o, n)] | none => []

/-- The local range of a key. -/
def keyRange (key n : Nat) : List LocalRange :=
  if isDevice key then [] else [(homePlace key, key % 65536, n)]

/-- The local ranges that a store-buffer entry writes. -/
def storeReach : StoreOp → List LocalRange
  | .bytes k w _ => keyRange k w
  | .red k w _ _ => keyRange k w
  | .lanes l | .block l => l.flatMap fun x => keyRange x.1 x.2.1

/-- Whether some range meets the region of either core of a pair. -/
def meetsRegion (a b : Nat) (base n : Nat) (l : List LocalRange) : Bool :=
  l.any fun r => (r.1 == a || r.1 == b) && r.2.1 < base + n && base < r.2.1 + r.2.2

/-- The accesses of a core outstanding now that target a word of either region (R349): store-buffer entries, full/empty
operations that are not held at their home, and engine operations. -/
def State.swapWaits (s : State) (a b base n core : Nat) : List (Nat × Nat × Nat × Nat) :=
  let q := s.core core
  let stores := (q.sb.filter fun e => e.req.module == s.module && meetsRegion a b base n (storeReach e.req.op)).map
    fun e => (0, core, e.ctx, e.id)
  let fes := (List.range 8).filterMap fun k => match (q.ctx k).req with
    | some (.fe r _ _ _ _ _) =>
      let held := (s.heldPlace r).isSome
      if r.module == s.module && meetsRegion a b base n (keyRange r.key 8) && !held then some (1, core, k, r.who.id)
      else none
    | _ => none
  let ops (i : Nat) (g : Engine) : List (Nat × Nat × Nat × Nat) :=
    (g.queue.filter fun o => meetsRegion a b base n (s.opReach core o)).map fun o => (i, core, 0, o.num)
  stores ++ fes ++ ops 2 q.cp0 ++ ops 3 q.cp1 ++ ops 4 q.mx ++ ops 5 q.cl

/-- An access that the exchange waits for is still outstanding. An operation of a halted engine is so until it is recovered
or dropped (DESIGN CHOICE, log entry 38). -/
def State.swapPending (s : State) (w : Nat × Nat × Nat × Nat) : Bool :=
  let q := s.core w.2.1
  let op (g : Engine) : Bool := (g.queue.any fun o => o.num == w.2.2.2) || g.late.any fun o => o.num == w.2.2.2
  if w.1 = 0 then q.sb.any fun e => e.id == w.2.2.2
  else if w.1 = 1 then
    match (q.ctx w.2.2.1).req with
    | some (.fe r _ _ _ _ _) =>
      r.who.id == w.2.2.2 && (s.heldPlace r).isNone
    | _ => false
  else if w.1 = 2 then op q.cp0
  else if w.1 = 3 then op q.cp1
  else if w.1 = 4 then op q.mx
  else op q.cl

/-- Both halves are in hand: the pair is decided (R348, R352). -/
def State.decidePair (s : State) (a b : Nat) (pa pb : Pairing) : State :=
  let qa := s.core a
  let qb := s.core b
  let yes := swapHolds pa pb qa qb
  let s := (s.modCore a Core.afterInstant).modCore b Core.afterInstant
  if yes then
    let range := match qa.resident with | some r => (r.base, 2 ^ (8 + r.cls)) | none => (0, 0)
    let waits := s.cores.flatMap fun q => s.swapWaits a b range.1 range.2 q.1
    let s := s.modCore a fun q => { q with pairing := some { pa with swaps := true, waits := waits } }
    let s := s.modCore b fun q => { q with pairing := some { pb with swaps := true } }
    s.flyOnce a a 3 (.swapExchange a b)
  else (s.modCore a fun q => { q with pairing := none }).modCore b fun q => { q with pairing := none }

/-- SWAP_CONTROL (R347, R348): core a's half and conditions reach core b; with both in hand the pair is decided. -/
def execSwapControl (coreA coreB : Nat) (s : State) : Host.Outcome State Fault Refusal :=
  change (fun s =>
    match (s.core coreA).pairing, (s.core coreB).pairing with
    | some pa, some pb =>
      if pa.partner = coreB ∧ pb.partner = coreA ∧ pb.heard = false then
        let s := s.modCore coreB fun q => { q with pairing := some { pb with heard := true } }
        if pa.heard then
          if coreA ≤ coreB then s.decidePair coreA coreB pa pb else s.decidePair coreB coreA pb pa
        else s
      else s
    | _, _ => s) s

/-! ## The exchange (R349 to R351) -/

/-- Both residents of a decided pair are still those that consented (R356). -/
def State.pairStands (s : State) (a b : Nat) : Bool :=
  let agrees (q : Core) : Bool := q.resident.isSome && match q.pairing with | some x => x.consent | none => false
  agrees (s.core a) && agrees (s.core b)

/-- A pair given up: one of its residents has gone. -/
def State.dropPair (s : State) (a b : Nat) : State :=
  (s.modCore a fun q => { q with pairing := none, exch := none }).modCore b fun q =>
    { q with pairing := none, exch := none }

/-- What the routers held for a core's resident comes on (R351), and the commands of its octet's engine that waited. -/
def State.releaseSwap (s : State) (core : Nat) : State :=
  ((s.modCore core fun q => { q with exchHeld := [] }).resend core (s.core core).exchHeld).engineInbox (octetOf core)

/-- SWAP_EXCHANGE (R349): the exchange of a decided pair begins once the earlier accesses are performed. -/
def execSwapExchange (coreA coreB : Nat) (s : State) : Host.Outcome State Fault Refusal :=
  change (fun s =>
    match (s.core coreA).pairing with
    | none => s
    | some pa =>
      if !pa.swaps || pa.partner != coreB || (s.core coreA).exch.isSome then s
      else if pa.waits.any s.swapPending then s
      else if !s.pairStands coreA coreB then s.dropPair coreA coreB
      else
        let s := s.modCore coreA fun q => { q with exch := some coreB }
        let s := s.modCore coreB fun q => { q with exch := some coreA }
        s.fly coreA coreA 3 (.swapExchangeEnd coreA coreB)) s

/-- A key of one region of a pair as the place in the other; any other key as it is. -/
def swapKey (ka kb n key : Nat) : Nat :=
  if ka ≤ key ∧ key < ka + n then key - ka + kb
  else if kb ≤ key ∧ key < kb + n then key - kb + ka
  else key

/-- The cells of two regions exchanged. -/
def swapCells (m : List Host.Cell) (ka kb n : Nat) : List Host.Cell :=
  let moved := (memRange m ka n ++ memRange m kb n).map fun c => (swapKey ka kb n c.1, c.2)
  memPut (memClear (memClear m ka n) kb n) moved

/-- A table keyed by memory words, two regions of it exchanged. -/
def swapMap (t : SMap Nat) (ka kb n : Nat) : SMap Nat :=
  let inside (k : Nat) : Bool := swapKey ka kb n k != k
  (t.filter fun e => inside e.1).foldl (fun t e => mapSet t (swapKey ka kb n e.1) e.2) (t.filter fun e => !inside e.1)

/-- A list of memory words, two regions of it exchanged. -/
def swapList (l : List Nat) (ka kb n : Nat) : List Nat := l.foldl (fun t k => insertKey t (swapKey ka kb n k)) []

/-- A held entry as the exchange leaves it. -/
def HeldFe.swapped (ka kb n : Nat) (h : HeldFe) : HeldFe := { h with req := { h.req with key := swapKey ka kb n h.req.key } }

/-- An event as the exchange leaves it: a held entry's deadline follows the entry. -/
def swapEvent (ka kb n : Nat) (e : Event) : Event :=
  match e with
  | .heldEntryTimeout r => .heldEntryTimeout { r with key := swapKey ka kb n r.key }
  | _ => e

/-- The held entries of two cores for region words exchanged, each in its place in the order of R191 (R350). -/
def State.swapHeld (s : State) (a b n ka kb : Nat) : State :=
  let moves (h : HeldFe) : Bool := swapKey ka kb n h.req.key != h.req.key
  let ta := (s.core a).waitTab
  let tb := (s.core b).waitTab
  let put (l from' : List HeldFe) : List HeldFe :=
    (from'.filter moves).foldl (fun l h => heldIns (h.swapped ka kb n) l) (l.filter fun h => !moves h)
  let s := s.modCore a fun q => { q with waitTab := put ta tb }
  let s := s.modCore b fun q => { q with waitTab := put tb ta }
  { s with timers := s.timers.map fun t => (t.1, swapEvent ka kb n t.2) }

/-- The port-bound entries of a binding table. -/
def portBinds (t : SMap Binding) : SMap Binding :=
  t.filter fun e => match e.2 with | .port _ => true | .task _ _ => false

/-- A core's binding table with the port-bound classes of another's (R350). -/
def withPortBinds (own other : SMap Binding) : SMap Binding :=
  (portBinds other).foldl (fun t e => mapSet t e.1 e.2)
    (own.filter fun e => match e.2 with | .port _ => false | .task _ _ => true)

/-- A core takes over the resident of another in an exchange (R350, R351): its state, its port bindings and partner table;
messages for the one that left are forwarded to where it went. -/
def Core.takeResident (q : Core) (r : Resident) (binds : SMap Binding) (partners : Vector (Option Partner) 8)
    (left onto holdoff : Nat) : Core :=
  { q with
    resident := some { r with hcnt := holdoff }, binds := withPortBinds q.binds binds, partners := partners
    fwd := 4, fwdName := left, fwdTo := onto, pairing := none, exch := none }.rebound

/-- Both octets' locator caches name the residents' new cores (R351). -/
def State.swapLocators (s : State) (a b na nb : Nat) : State :=
  let put (x : Octet) : Octet :=
    { x with locators := fillLocator ⟨nb, s.module, a⟩ (fillLocator ⟨na, s.module, b⟩ x.locators) }
  (s.modOctet (octetOf a) put).modOctet (octetOf b) put

/-- Two residents exchanged as one step (R350, R351). -/
def State.swapResidents (s : State) (a b : Nat) (ra rb : Resident) (holdoff : Nat) : State :=
  let n := 2 ^ (8 + ra.cls)
  let ka := localKey a ra.base
  let kb := localKey b rb.base
  let qa := s.core a
  let qb := s.core b
  let s : State := { s with
    mem := swapCells s.mem ka kb n, tags := swapMap s.tags ka kb n, poison := swapList s.poison ka kb n }
  let s := s.swapHeld a b n ka kb
  let s := s.modCore a fun q => q.takeResident rb qb.binds qb.partners ra.name b holdoff
  let s := s.modCore b fun q => q.takeResident ra qa.binds qa.partners rb.name a holdoff
  let pid := s.pidOf a
  let s := (s.writeDir pid ra.name (dirEntry s.module b)).writeDir pid rb.name (dirEntry s.module a)
  ((s.swapLocators a b ra.name rb.name).releaseSwap a).releaseSwap b

/-- SWAP_EXCHANGE_END (R351). -/
def execSwapExchangeEnd (coreA coreB : Nat) (s : State) : Host.Outcome State Fault Refusal :=
  change (fun s =>
    let qa := s.core coreA
    let qb := s.core coreB
    if qa.exch ≠ some coreB then s
    else if !s.pairStands coreA coreB then ((s.dropPair coreA coreB).releaseSwap coreA).releaseSwap coreB
    else match qa.resident, qb.resident, qa.pairing with
      | some ra, some rb, some p => s.swapResidents coreA coreB ra rb p.holdoff
      | _, _, _ => ((s.dropPair coreA coreB).releaseSwap coreA).releaseSwap coreB) s

/-- The exchanges of decided pairs tried again, once what they wait for may be over (R349). -/
def State.kickSwap (s : State) (core : Nat) : State :=
  match (s.core core).pairing with
  | some p =>
    if p.swaps && (s.core core).exch.isNone && core ≤ p.partner && !p.waits.any s.swapPending then
      s.flyOnce core core 3 (.swapExchange core p.partner)
    else s
  | none => s

end Sys2Proof.Machine
end

