-- ==== Sys2Proof/Machine/Power.lean ====
section
/-! DEFINITION. The loose supply and octet power states (R422, R425 to R434): regulator levels, rails, retention, gating,
waking and retention loss. -/

namespace Sys2Proof.Machine

/-! ## The clock (R425) -/

/-- SUPPLY_CHANGE (R2, R3, R425): the supply sets one clock of an octet (0 to 7 those of its cores, 8 the octet clock)
within its range; an emergency on the octet's rail suspends the floor. -/
def execSupplyChange (clock : ClockRef) (khz : Nat) (s : State) : Host.Outcome State Fault Refusal :=
  change (fun s =>
    let octet := clock.octet
    let b := s.clockBounds
    let emerg := (s.rails[railOf octet % 16]'(Nat.mod_lt _ (by decide))).emerg
    if 1536 ≤ octet ∨ 9 ≤ clock.clock ∨ khz = 0 ∨ b.2 < khz ∨ (khz < b.1 ∧ emerg = false) then s
    else s.modOctet octet fun x => x.retime clock.clock s.now khz) s

/-! ## Regulator levels (R426, R427) -/

/-- The level that a partition's pwrlvl maps a priority to. -/
def Partition.levelOf (p : Partition) (prio : Nat) : Nat :=
  (if prio = 0 then p.pwP0 else if prio = 1 then p.pwP1 else if prio = 2 then p.pwP2 else p.pwP3).toNat

/-- The level a core requests (R427). -/
def State.coreLevel (s : State) (p : Partition) (core : Nat) : Nat :=
  match ((s.core core).ctxs.toList.filter fun c => c.run != .none).map (·.run.prio) with
  | [] => p.pwIdle.toNat
  | l => p.levelOf (l.foldl Nat.max 0)

/-- A rail. -/
def State.rail (s : State) (r : Nat) : Rail := s.rails[r % 16]'(Nat.mod_lt _ (by decide))

/-- A rail changed. -/
def State.modRail (s : State) (r : Nat) (f : Rail → Rail) : State :=
  { s with rails := s.rails.set (r % 16) (f (s.rail r)) (Nat.mod_lt _ (by decide)) }

/-- The level of an octet: the highest request of its cores, capped by its rail (R427, R430). -/
def State.octetLevel (s : State) (o : Nat) : Nat :=
  let p := s.partAt (octetCore o 0)
  Nat.min ((List.range 8).foldl (fun n i => Nat.max n (s.coreLevel p (octetCore o i))) 0) (s.rail (railOf o)).cap

/-- REGULATOR_REQUEST_CHANGE (R427): the change of a request reaches the regulator. -/
def execRegulatorRequestChange (octet : Nat) (s : State) : Host.Outcome State Fault Refusal :=
  change (fun s => s.modOctet octet fun x => { x with level := s.octetLevel octet }) s

/-! ## Rails (R428 to R430) -/

/-- The first octet of a partition that a rail feeds. -/
def Partition.octetOn (p : Partition) (rail : Nat) : Option Nat := p.octets.find? fun o => railOf o == rail

/-- PHASE_LOSS (R429): limits lowered, the supervisors and the host told; below 4 phases every partition stops. -/
def execPhaseLoss (rail : Nat) (s : State) : Host.Outcome State Fault Refusal :=
  change (fun s =>
    if 16 ≤ rail ∨ (s.rail rail).ph = 0 then s
    else
      let ph := (s.rail rail).ph - 1
      let s := s.modRail rail fun r => { r with ph := ph, limit := 100 * ph, cap := ph - 1, derate := true }
      let words := [BitVec.ofNat 64 rail, BitVec.ofNat 64 (100 * ph), BitVec.ofNat 64 ph]
      let s := s.parts.foldl (fun s q => match q.2.octetOn rail with
        | some o => s.notice q.1 o 7 (octetCore o 0) words
        | none => s) s
      let s := s.umberEvent (1 :: words)
      if ph < 4 then { s.machineCheck with parts := s.parts.map fun q => (q.1, { q.2 with stage := .stopped }) } else s) s

/-- SUPPLY_EMERGENCY (R430): the rail's current exceeds LIMIT. -/
def execSupplyEmergency (rail : Nat) (s : State) : Host.Outcome State Fault Refusal :=
  change (fun s => if rail < 16 then s.modRail rail fun r => { r with emerg := true, overAt := s.wallUnits } else s) s

/-- EMERGENCY_CLEAR (R3, R430): the current has stayed at or below LIMIT for 10 wall µs, and the clocks of the rail's octets
are back in their range. -/
def execEmergencyClear (rail : Nat) (s : State) : Host.Outcome State Fault Refusal :=
  change (fun s =>
    if 16 ≤ rail ∨ (s.rail rail).emerg = false ∨ s.wallUnits < (s.rail rail).overAt + 10000 * unitsPerNs then s
    else
      let b := s.clockBounds
      { s.modRail rail fun r => { r with emerg := false } with
        octets := s.octets.map fun p => (p.1, if railOf p.1 = rail then p.2.boundClocks s.now b.1 b.2 else p.2) }) s

/-! ## Going to sleep (R373, R431, R434) -/

/-- The first wall time that a context waits for: an alarm, a deadline, a WAITW target or a wait's deadline (R373). -/
def Ctx.nextWall (c : Ctx) : Option Nat :=
  let alarm (a : Alarm) : Option Nat := match a with | .wall t => some t.toNat | _ => none
  let wait := match c.wait with
    | some (.wall t d) => sooner (some t.toNat) (if d = 0 then none else some d.toNat)
    | some w => if w.limit = 0 then none else some w.limit.toNat
    | none => none
  sooner (sooner (alarm c.alarm0) (alarm c.alarm1)) (sooner (if c.deadline = 0 then none else some c.deadline.toNat) wait)

/-- The first wall time that a context of an octet waits for. -/
def State.octetWall (s : State) (o : Nat) : Option Nat :=
  (List.range 8).foldl (fun m i => (s.core (octetCore o i)).ctxs.toList.foldl (fun m c => sooner m c.nextWall) m) none

/-- An octet's clocks stop. -/
def Octet.sleep (x : Octet) (now : Nat) (p : Power) : Octet :=
  { x.settleClocks now with power := p, winWhole := false }

/-- A context of an octet whose instruction may go on: its wait's event or time has come, or it is blocked otherwise and
something has changed since it last looked. -/
def State.octetStirs (s : State) (o : Nat) : Bool :=
  (List.range 8).any fun i => (List.range 8).any fun k =>
    let core := octetCore o i
    let c := s.ctx core k
    c.canIssue && match c.wait with
      | some w => s.waitSeen core k w 0 || (w.limit != 0 && s.reached w.limit)
      | none => true

/-- An octet that was to sleep is not idle: a new idle interval starts (R434). -/
def State.staysAwake (s : State) (o : Nat) : State := s.modOctet o fun x => { x with idleSince := some s.wallUnits }

/-- RETENTION_ENTRY (R431): an idle octet stops its clocks; a wall time that one of its contexts waits for will wake it
(R373). -/
def execRetentionEntry (octet : Nat) (s : State) : Host.Outcome State Fault Refusal :=
  change (fun s =>
    if s.octetStirs octet then s.staysAwake octet
    else if (s.octet octet).power = .active ∧ s.octetIdle octet = true then
      let t := s.octetWall octet
      let s := s.modOctet octet fun x => x.sleep s.now .retention
      match t with
      | some t => s.arm ((t - 3000) * unitsPerNs) (.retentionTimedWake octet)
      | none => s
    else s) s

/-- GATING_ENTRY (R431): an idle octet whose contexts hold nothing is powered off, and keeps what it holds. -/
def execGatingEntry (octet : Nat) (s : State) : Host.Outcome State Fault Refusal :=
  change (fun s =>
    if s.octetStirs octet then s.staysAwake octet
    else if (s.octet octet).power ≠ .gated ∧ s.octetIdle octet = true ∧ s.octetTasks octet = false then
      (s.disarm (.retentionTimedWake octet)).modOctet octet fun x => x.sleep s.now .gated
    else s) s

/-! ## Waking (R433) -/

/-- The flights of an octet's wake dropped. -/
def State.dropWakes (s : State) (o : Nat) : State :=
  { s with flights := s.flights.filter fun f => match f.ev with | .octetWake q _ => q != o | _ => true }

/-- An octet is active again, and what its router held comes on before anything that arrives later, in order (R433). -/
def State.wakeOctet (s : State) (o : Nat) : State :=
  let x := s.octet o
  let s := (s.dropWakes o).disarm (.retentionTimedWake o)
  let s := s.setOctet o
    { x.settleClocks s.now with power := .active, idleSince := none, held := [], winWhole := false }
  { s with flights := x.held.map (fun f => { f with held := true }) ++ s.flights }

/-- RETENTION_TIMED_WAKE (R373): 3,000 wall ns before a context's wall time its octet begins to wake, and it is active by that
time. -/
def execRetentionTimedWake (octet : Nat) (s : State) : Host.Outcome State Fault Refusal :=
  change (fun s =>
    if (s.octet octet).power ≠ .retention then s
    else if s.wakes octet then s.wakeOctet octet
    else match s.octetWall octet with
      | some t =>
        if s.wallUnits < t * unitsPerNs then (s.startWake octet).arm (t * unitsPerNs) (.retentionTimedWake octet)
        else s.wakeOctet octet
      | none => s.wakeOctet octet) s

/-! ## Retention loss (R422) -/

/-- A failure that the parity check finds. -/
def lossFound (l : RetLoss) : Bool :=
  l.lost || !l.accLost.isEmpty || l.bufLost || !l.bindLost.isEmpty || !l.codeLost.isEmpty || !l.words.isEmpty

/-- The lower of two paths in the logical order (R323). -/
def lowerPath (a b : Word) : Word := if orderLt (orderOf b 0) (orderOf a 0) then b else a

/-- The lost contexts of an octet: core, context. -/
def State.lostCtxs (s : State) (o : Nat) : List (Nat × Nat) :=
  (List.range 8).flatMap fun i =>
    ((List.range 8).filter fun k => (s.ctx (octetCore o i) k).run != .none).map fun k => (octetCore o i, k)

/-- The launches of a list of contexts, each with the lowest path among them. -/
def State.launchesOf (s : State) : List (Nat × Nat) → List (Nat × Word) → List (Nat × Word)
  | [], l => l
  | (c, k) :: t, l =>
    let x := s.ctx c k
    let n := x.lnum.toNat
    if n = 0 then s.launchesOf t l
    else match mapFind l n with
      | some p => s.launchesOf t (mapSet l n (lowerPath p x.path))
      | none => s.launchesOf t (mapSet l n x.path)

/-- A context lost with its octet (R405, R422): freed without the effects of DONE; a standing-launch task is reported. -/
def State.loseCtx (s : State) (core k : Nat) : State :=
  let x := s.ctx core k
  let s := (s.cancelReq core k).freeCtx core k
  match x.run with
  | .task _ _ _ _ => if x.lnum = 0 then s.coreNotice core 9 [zext cRETLOST, 0, x.dkey] else s
  | _ => s

/-- A resident terminated by a retention loss (R354, R405, R422). -/
def State.loseResident (s : State) (core : Nat) : State :=
  match (s.core core).resident with
  | none => s
  | some r =>
    let p := s.partAt core
    let s : State := { s with cores := s.cores.map fun q =>
      (q.1, if p.hasCore q.1 && q.2.fwd != 0 && q.2.fwdName == r.name then { q.2 with fwd := 0 } else q.2) }
    (s.dropResident core).coreNotice core 8 [BitVec.ofNat 64 r.name, zext cRETLOST, 0]

/-- An engine of the octet halts with KIND 6, at its running operation or before the next (R122, R135, R422). -/
def State.loseEngine (s : State) (core : Nat) (n : Eng) : State :=
  match (s.engine core n).queue with
  | o :: _ => s.haltOp core n 6 (unitIndex o.cmd o.next) o
  | [] => s.haltEngine core n 6 0 ((s.engine core n).i + 1)

/-- The cores that an engine operation of a core reads from or sends to: a REDUCE of a rank above 0 sends to its parent in the
tree alone (R178). -/
def State.opTargets (s : State) (core : Nat) (x : EngOp) : List Nat :=
  match x.cmd with
  | .reduce g rank _ _ _ _ _ _ =>
    if rank = 0 then (s.opReach core x).map fun r => r.1
    else match s.member ((s.partAt core).groupKey g) (rank - lowestBit rank 16) with
      | some m => if m.1 = s.module then [m.2] else []
      | none => []
  | _ => (s.opReach core x).map fun r => r.1
where
  /-- The lowest set bit of a number. -/
  lowestBit (r : Nat) : Nat → Nat
    | 0 => 1
    | f + 1 => if r % 2 = 1 then 1 else 2 * lowestBit (r / 2) f

/-- An engine elsewhere that targets the octet halts with KIND 6 (R122, R135). -/
def State.loseTarget (s : State) (o core : Nat) (n : Eng) : State :=
  match (s.engine core n).queue.find? fun x => (s.opTargets core x).any fun r => octetOf r == o with
  | some x => s.haltOp core n 6 (unitIndex x.cmd x.next) x
  | none => s

/-- Retention loss (R283, R422). -/
def State.retentionLoss (s : State) (o : Nat) (l : RetLoss) : State :=
  let pid := s.pidOf (octetCore o 0)
  let cores := (List.range 8).map (octetCore o)
  let lost := s.lostCtxs o
  let ended := s.launchesOf lost []
  let s := lost.foldl (fun s c => s.loseCtx c.1 c.2) s
  let s := cores.foldl (fun s c =>
    (s.loseResident c).modCore c fun q => { q with inbox := [], hold := [], refTab := [], refused := [] }) s
  let s := l.accLost.foldl (fun s a => { s with mem := memClear s.mem (accKey (octetCore o a.1) a.2 0) 4096 }) s
  let s : State := if l.bufLost then { s with mem := memClear s.mem (bufKey o 0) 262144 } else s
  let s := if l.bufLost || !l.accLost.isEmpty then cores.foldl (fun s c => s.loseEngine c .mx) s else s
  let s := cores.foldl (fun s c => ((s.loseEngine c .cp0).loseEngine c .cp1).loseEngine c .cl) s
  let s := s.cores.foldl (fun s q =>
    if octetOf q.1 = o then s
    else (((s.loseTarget o q.1 .cp0).loseTarget o q.1 .cp1).loseTarget o q.1 .cl).loseTarget o q.1 .mx) s
  let s := l.bindLost.foldl (fun s i => s.modCore (octetCore o i) fun q => { q with binds := [], feat := 0 }) s
  let s := l.codeLost.foldl (fun s i =>
    ({ s with mem := memClear s.mem (codeKey (octetCore o i) 0) 16384 } : State).modCore (octetCore o i) fun q =>
      { q with feat := 0, badCode := [] }) s
  let s := l.words.foldl (fun s k => if !isDevice k && octetOf (homePlace k) == o then s.setPoison k else s) s
  let s := ended.foldl (fun s e =>
    s.fly (octetPlace o) (seqPlace pid) 3 (.launchEndByFault pid e.1 cRETLOST.toNat (BitVec.ofNat 64 o) e.2)) s
  s.coreNotice (octetCore o 0) 6 [BitVec.ofNat 64 o, BitVec.ofNat 64 lost.length, BitVec.ofNat 64 ended.length]

/-- OCTET_WAKE (R422, R433): a sleeping octet is active; one that leaves retention may have suffered a loss. -/
def execOctetWake (octet : Nat) (loss : RetLoss) (s : State) : Host.Outcome State Fault Refusal :=
  change (fun s =>
    let p := (s.octet octet).power
    if p = .active then s
    else
      let s := s.wakeOctet octet
      if p = .retention ∧ lossFound loss = true then s.retentionLoss octet loss else s) s

end Sys2Proof.Machine
end

