-- ==== Sys2Proof/Machine/Control.lean ====
section
/-! DEFINITION. The control registers and CRR, CRW, CRS and CRC (R30, R217, R218), with the register writes that have an
effect of their own; TLBINV and PGMOVE (R79 to R89); DPOINT and RDDIG (R399, R400). -/

namespace Sys2Proof.Machine

/-! ## Reading (R217) -/

/-- status (R402). -/
def Ctx.status (c : Ctx) : Word :=
  at' c.lmode.toNat 8 ||| at' c.pap.toNat 4 ||| at' c.ap.toNat 3 ||| at' c.tmo.toNat 2 ||| at' c.ih.toNat 1 ||| at' c.prv.toNat 0

/-- The context-scope registers (R402, R403, R249, R275, R357, R322, R384). -/
def Ctx.ctl (c : Ctx) (n : Nat) : Option Word :=
  match n with
  | 0x000 => some c.status
  | 0x001 => some (zext c.cause)
  | 0x002 => some c.tval
  | 0x003 => some c.tpc
  | 0x004 => some (at' c.tvec.toNat 1)
  | 0x010 => some (at' c.frm.toNat 8 ||| zext c.fflags)
  | 0x020 => some (zext c.mfmt)
  | 0x021 => some c.mascale
  | 0x022 => some (zext c.mbscale)
  | 0x033 => some c.deadline
  | 0x050 => some c.path
  | 0x051 => some (at' c.idem.toNat 23 ||| at' c.lmode.toNat 20 ||| at' c.stream.toNat 16 ||| zext c.lnum)
  | 0x052 => some (at' c.joinNext 32 ||| at' c.joinBase.toNat 4)
  | 0x080 => some c.digest
  | 0x081 => some c.dkey
  | 0x082 => some (at' c.dordJ.toNat 32 ||| zext c.dordE)
  | _ => none

/-- swapctl (R343). -/
def Core.swapctl (q : Core) (p : Partition) : Word :=
  let r : Nat × Bool := match q.resident with | some r => (r.hcnt, r.ok) | none => (0, false)
  at' p.swThresh.toNat 32 ||| at' p.swHoldoff.toNat 28 ||| at' r.1 24 ||| at' p.swPeriod.toNat 8 ||| at' q.fwd 2
    ||| at' r.2.toNat 1 ||| at' p.swaps.toNat 0

/-- ptab e (R344). -/
def Core.ptab (q : Core) (e : Nat) : Word :=
  match q.partners[e % 8]'(Nat.mod_lt _ (by decide)) with
  | some p => at' p.name 48 ||| at' p.sent 24 ||| at' p.recv 0
  | none => 0

/-- Half a ptcore word (R344). -/
def Core.ptcore (q : Core) (e : Nat) : Nat :=
  match q.partners[e % 8]'(Nat.mod_lt _ (by decide)) with
  | some p => 2 ^ 31 + p.module % 2 ^ 12 * 2 ^ 16 + p.core % 2 ^ 14
  | none => 0

/-- partinfo (R310). -/
def Partition.info (p : Partition) (pid : Nat) : Word :=
  at' p.key.toNat 48 ||| at' pid 32 ||| at' p.hm1 24 ||| at' p.wm1 16 ||| at' p.oy0 8 ||| at' p.ox0 0

/-- The core- and octet-scope registers (R271, R310, R317, R321, R343, R344). The times are read by timeValue. -/
def State.coreCtl (s : State) (core : Nat) (p : Partition) (n : Nat) : Option Word :=
  let q := s.core core
  match n with
  | 0x023 => some (zext q.mxwt)
  | 0x024 => some q.mx.status
  | 0x030 => some (BitVec.ofNat 64 (s.cycle core))
  | 0x031 => some (BitVec.ofNat 64 s.wallNs)
  | 0x032 => some (zext (s.ratio core))
  | 0x040 => some (at' s.module 32 ||| at' (coreY core) 24 ||| at' (coreX core) 16 ||| at' core 0)
  | 0x041 => some (at' (octetOf core / 48) 8 ||| at' (octetOf core % 48) 0)
  | 0x042 => some (p.info (s.pidOf core % 64))
  | 0x043 => some 0x7FF
  | 0x060 => some (at' q.amolim.toNat 32 ||| at' q.sq2.length 24 ||| at' q.sq1.length 20 ||| at' q.sq0.length 16
      ||| at' q.mode2.toNat 2 ||| at' q.mode1.toNat 1 ||| at' q.mode0.toNat 0)
  | 0x061 => some (at' q.arm.toNat 16 ||| at' q.low.toNat 8 ||| zext q.drainCls)
  | 0x062 => some (at' q.stkSize.toNat 16 ||| zext q.stkBase)
  | 0x070 => some (q.swapctl p)
  | n =>
    if 0x071 ≤ n ∧ n ≤ 0x078 then some (q.ptab (n - 0x071))
    else if 0x079 ≤ n ∧ n ≤ 0x07C then
      some (BitVec.ofNat 64 (q.ptcore (2 * (n - 0x079)) + q.ptcore (2 * (n - 0x079) + 1) * 2 ^ 32))
    else none

/-- A rail register (R428). -/
def Rail.word (r : Rail) : Word :=
  at' r.emerg.toNat 31 ||| at' r.derate.toNat 30 ||| at' r.cap 24 ||| at' r.ph 16 ||| at' r.limit 0

/-- A fabric port register (R441). -/
def FabPort.word (f : FabPort) : Word :=
  at' f.retry.toNat 48 ||| at' f.stomp.toNat 32 ||| at' f.lanes.toNat 20 ||| at' f.mode.toNat 16
    ||| (if f.mode = 0 then 0 else zext f.peer)

/-- A partition's BASE field. -/
def baseField (b : BitVec 32) : Word := at' b.toNat 16

/-- svloc (R407). -/
def Partition.svloc (p : Partition) : Word :=
  at' p.svNdrop.toNat 48 ||| at' p.svEn.toNat 31 ||| at' p.svPort.toNat 16 ||| at' p.svCore.toNat 0

/-- hostep (R447). -/
def Partition.hostep (p : Partition) : Word :=
  at' p.hcls.toNat 40 ||| at' p.hostEn.toNat 31 ||| at' p.conf.toNat 30 ||| at' p.hostCore.toNat 0

/-- The supervisor registers of a partition (R31, R69, R159, R327, R342, R389, R407, R410, R414, R415, R419, R426, R432,
R435, R447, R450). -/
def Partition.ctl (p : Partition) (n : Nat) : Option Word :=
  match n with
  | 0xC10 => some (zext p.featmask)
  | 0xC20 => some (baseField p.ptBase ||| at' p.ptEn.toNat 0)
  | 0xC30 => some (baseField p.grpBase ||| zext p.grpLimit)
  | 0xC40 => some (baseField p.resBase ||| at' p.resEn.toNat 0)
  | 0xC50 => some (at' p.swThresh.toNat 32 ||| at' p.swHoldoff.toNat 28 ||| at' p.swPeriod.toNat 8 ||| at' p.swEn.toNat 0)
  | 0xC60 => some (baseField p.mlogBase ||| at' p.mlogLsz.toNat 8 ||| at' p.mlogEn.toNat 0)
  | 0xC61 => some (at' p.logHigh.toNat 63 ||| at' p.logFull.toNat 62 ||| at' p.logAband.toNat 61 ||| zext p.logNext)
  | 0xC62 => some (zext p.mstall)
  | 0xC63 => some (baseField p.mrefBase ||| at' p.mrefRsz.toNat 8 ||| at' p.mrefWr.toNat 1 ||| at' p.mrefEn.toNat 0)
  | 0xC70 => some (baseField p.svqBase ||| at' p.svqSz.toNat 8 ||| at' p.svqEn.toNat 0)
  | 0xC71 => some (at' p.svqHead.toNat 32 ||| zext p.svqTail)
  | 0xC72 => some (at' p.fltOvf.toNat 32 ||| zext p.fltGen)
  | 0xC73 => some 0
  | 0xC74 => some p.svloc
  | 0xC75 => some (baseField p.psave)
  | 0xC80 => some (at' p.pwIdle.toNat 16 ||| at' p.pwP3.toNat 12 ||| at' p.pwP2.toNat 8 ||| at' p.pwP1.toNat 4 ||| at' p.pwP0.toNat 0)
  | 0xC81 => some (at' p.gate.toNat 32 ||| zext p.ret)
  | 0xC92 => some p.penergy
  | 0xCC0 => some p.hostep
  | 0xCC1 => some (baseField p.rmaBase ||| zext p.rmaN)
  | _ => none

/-- A control register as the focus context reads it; none for a number that is not allocated (R30). -/
def State.ctl (s : State) (n : Nat) : Option Word :=
  let p := s.fpart
  match s.fctx.ctl n with
  | some v => some v
  | none => match s.coreCtl s.focusCore p n with
    | some v => some v
    | none =>
      if 0xC82 ≤ n ∧ n ≤ 0xC91 then some (s.rail (n - 0xC82)).word
      else if 0xCA0 ≤ n ∧ n ≤ 0xCA7 then some ((s.fabPorts[(n - 0xCA0) % 8]'(Nat.mod_lt _ (by decide))).word)
      else p.ctl n

/-- The W1C and WO bits of a register. -/
def wcMask (n : Nat) : Word :=
  if n = 0x024 then 0x8000000000000000
  else if n = 0xC61 then 0xC000000000000000
  else if n = 0xC72 then 0x8000000000000000
  else if n = 0xC73 then 0xFFFF
  else 0

/-! ## Writes with an effect of their own -/

/-- A context parked in another generation than g issues again. -/
def Ctx.unpark (g : BitVec 32) (c : Ctx) : Ctx :=
  match c.mode with
  | .parked _ _ _ gen => if gen = g then c else { c with mode := .ready }
  | _ => c

/-- GEN advanced: OVF and the page filter cleared, and the parked contexts of older generations issue again (R414). -/
def State.advanceGen (s : State) (pid : Nat) : State :=
  match s.part pid with
  | none => s
  | some p =>
    let g := p.fltGen + 1
    let s := s.modPart pid fun p => { p with fltGen := g, fltOvf := 0, filter := [] }
    if p.stage = .saved then s
    else { s with cores := s.cores.map fun q => (q.1, if p.hasCore q.1 then { q.2 with ctxs := q.2.ctxs.map (Ctx.unpark g) } else q.2) }

/-- FLTGEN_ADVANCE (R414). -/
def execFltgenAdvance (pid : Nat) (s : State) : Host.Outcome State Fault Refusal := change (fun s => s.advanceGen pid) s

/-- The lowest path among a launch's parked tasks, or its root's (R415). -/
def State.parkedPath (s : State) (p : Partition) (l : Launch) : Word :=
  let parked := (s.coresOf p).flatMap fun q => (q.2.ctxs.toList.filter fun c =>
    c.inLaunch l.num && (match c.mode with | .parked _ _ _ _ => true | _ => false)).map (·.path)
  match parked with
  | [] => BitVec.ofNat 64 (l.num % 4096 * 2 ^ 52)
  | a :: t => t.foldl lowerPath a

/-- A launch ended by a write of fltkill (R415); a number of no live launch does nothing. -/
def State.killLaunch (s : State) (pid : Nat) (lnum : BitVec 16) : State :=
  match s.part pid with
  | none => s
  | some p => match findLaunch lnum.toNat p.launches with
    | none => s
    | some l =>
      if lnum = 0 then s
      else s.fly (seqPlace pid) (seqPlace pid) 3 (.launchEndByFault pid l.num cXLATE.toNat 0 (s.parkedPath p l))

/-- FLTKILL (R415). -/
def execFltkill (pid : Nat) (lnum : BitVec 16) (s : State) : Host.Outcome State Fault Refusal :=
  change (fun s => s.killLaunch pid lnum) s

/-- svloc written (R407): ignored for a core outside the partition; NDROP cleared where EN is 1. -/
def State.putSvloc (s : State) (pid : Nat) (v : Word) : State :=
  s.modPart pid fun p =>
    if p.hasCore (bits v 13 0) then
      { p with
        svEn := v.getLsbD 31, svPort := v.extractLsb' 16 2, svCore := v.extractLsb' 0 14
        svNdrop := if v.getLsbD 31 then 0 else p.svNdrop }
    else p

/-- SVLOC_WRITE (R407). -/
def execSvlocWrite (pid : Nat) (v : Word) (s : State) : Host.Outcome State Fault Refusal := change (fun s => s.putSvloc pid v) s

/-- stkcfg written (R321): ignored as a whole for a misplaced stack. -/
def State.putStkcfg (s : State) (core : Nat) (v : Word) : State :=
  let base := bits v 15 0
  let size := bits v 31 16
  if base % 16 ≠ 0 ∨ size % 16 ≠ 0 ∨ 65520 < base + 8 * size then s
  else s.modCore core fun q => { q with stkBase := BitVec.ofNat 16 base, stkSize := BitVec.ofNat 16 size }

/-- STKCFG_WRITE (R321). -/
def execStkcfgWrite (core : Nat) (v : Word) (s : State) : Host.Outcome State Fault Refusal := change (fun s => s.putStkcfg core v) s

/-- hostep written (R447): ignored for a core outside the partition. -/
def State.putHostep (s : State) (pid : Nat) (v : Word) : State :=
  s.modPart pid fun p =>
    if p.hasCore (bits v 13 0) then
      { p with hcls := v.extractLsb' 40 8, hostEn := v.getLsbD 31, hostCore := v.extractLsb' 0 14 }
    else p

/-- HOSTEP_WRITE (R447). -/
def execHostepWrite (pid : Nat) (v : Word) (s : State) : Host.Outcome State Fault Refusal := change (fun s => s.putHostep pid v) s

/-- swapcfg written (R342): its instants follow the new period (R346). -/
def State.putSwapcfg (s : State) (pid : Nat) (v : Word) : State :=
  (s.modPart pid fun p =>
    { p with
      swThresh := v.extractLsb' 32 32
      swHoldoff := if bits v 31 28 < 4 then 4 else v.extractLsb' 28 4
      swPeriod := if bits v 23 8 = 0 then 50 else v.extractLsb' 8 16
      swEn := v.getLsbD 0 }).armSwap pid

/-! ## Writing (R9, R10, R217) -/

/-- A context-scope register written. -/
def Ctx.putCtl (c : Ctx) (n : Nat) (v : Word) : Ctx :=
  match n with
  | 0x000 => { c with pap := v.getLsbD 4, tmo := v.getLsbD 2 }
  | 0x001 => { c with cause := v.truncate 8 }
  | 0x002 => { c with tval := v }
  | 0x003 => { c with tpc := v }
  | 0x004 => { c with tvec := v.extractLsb' 1 13 }
  | 0x010 => { c with frm := if bits v 10 8 < 5 then v.extractLsb' 8 3 else 0, fflags := v.truncate 5 }
  | 0x020 => { c with mfmt := v.truncate 8 }
  | 0x021 => { c with mascale := v }
  | 0x022 => { c with mbscale := v.truncate 18 }
  | 0x052 => { c with joinNext := Nat.min (bits v 40 32) 256, joinBase := v.extractLsb' 4 12 }
  | _ => c

/-- A register of a partition written that has no further effect. -/
def Partition.putCtl (p : Partition) (n : Nat) (v : Word) : Partition :=
  let base : BitVec 32 := v.extractLsb' 16 32
  match n with
  | 0xC10 => { p with featmask := v.truncate 11 }
  | 0xC20 => { p with ptBase := base, ptEn := v.getLsbD 0 }
  | 0xC30 => { p with grpBase := base, grpLimit := v.truncate 13 }
  | 0xC40 => { p with resBase := base, resEn := v.getLsbD 0 }
  | 0xC60 => { p with mlogBase := base, mlogLsz := v.extractLsb' 8 4, mlogEn := v.getLsbD 0 }
  | 0xC61 =>
    { p with
      logHigh := p.logHigh && !v.getLsbD 63, logFull := p.logFull && !v.getLsbD 62, logNext := v.truncate 40 }
  | 0xC62 => { p with mstall := if v.truncate 32 = 0#32 then 1 else v.truncate 32 }
  | 0xC63 =>
    { p with
      mrefBase := base, mrefRsz := BitVec.ofNat 5 (Nat.min (Nat.max (bits v 12 8) 4) 24)
      mrefWr := v.getLsbD 1, mrefEn := v.getLsbD 0 }
  | 0xC70 => { p with svqBase := base, svqSz := BitVec.ofNat 4 (Nat.min (bits v 11 8) 10), svqEn := v.getLsbD 0 }
  | 0xC71 => { p with svqHead := v.extractLsb' 32 32 }
  | 0xC75 => { p with psave := base }
  | 0xC80 =>
    { p with
      pwIdle := v.extractLsb' 16 3, pwP3 := v.extractLsb' 12 3, pwP2 := v.extractLsb' 8 3, pwP1 := v.extractLsb' 4 3
      pwP0 := v.extractLsb' 0 3 }
  | 0xC81 => { p with gate := v.extractLsb' 32 16, ret := v.truncate 16 }
  | 0xCC1 => { p with rmaBase := base, rmaN := v.truncate 12 }
  | _ => p

/-- replyspill written, by an instruction that sets ARM or not (R317, R381): the drain message will carry the launch and
tag of the context that last set it. -/
def putReplyspill (v : Word) (sets : Bool) : M Unit := do
  let c ← fctx
  modify fun s => s.modFcore fun q =>
    { q with arm := v.getLsbD 16, low := BitVec.ofNat 4 (Nat.min (bits v 11 8) 7), drainCls := v.truncate 8 }
  if sets then
    modify fun s => s.modFcore fun q =>
      { q with drainLaunch := c.lnum.toNat, drainTag := c.tag, drainPath := c.sidePath }
    countEvent
  modify fun s => s.drainCheck s.focusCore

/-- What every site holds looks again, after room may have come into the log (R392). -/
def State.releaseSites (s : State) : State :=
  let sites : List Nat := s.cores.map (fun q => q.1) ++ s.ports.map fun q => 12288 + q.1
  sites.foldl (fun s n => s.releaseSite n) s

/-- A register whose write changes nothing but what a context keeps for a load before it (R15, R93). -/
def ctlOfCtx (n : Nat) : Bool := n < 0x060 && n != 0x023 && n != 0x024

/-- A register written with v, whose W1C and WO bits are as written; sets says that replyspill.ARM is being set. -/
def putCtl (n : Nat) (v : Word) (sets : Bool) : M Unit := do
  let s ← get
  let core := s.focusCore
  let pid := s.pidOf core
  match n with
  | 0x023 => modify fun s => s.modFcore fun q => { q with mxwt := if v.truncate 4 = 0#4 then 1 else v.truncate 4 }
  | 0x024 => if v.getLsbD 63 then modify fun s => s.recoverMx core
  | 0x060 =>
    modify fun s => s.modFcore fun q =>
      { q with
        amolim := if v.extractLsb' 32 16 = 0#16 then 1 else v.extractLsb' 32 16
        mode2 := v.getLsbD 2, mode1 := v.getLsbD 1, mode0 := v.getLsbD 0 }
  | 0x061 => putReplyspill v sets
  | 0x062 => modify fun s => s.putStkcfg core v
  | 0xC50 => modify fun s => s.putSwapcfg pid v
  | 0xC72 =>
    if v.getLsbD 63 then
      holdUntil (s.fctx.posted.isEmpty && s.fcore.sb.all fun e => e.ctx != s.focusCtx)
      modify fun s => s.advanceGen pid
  | 0xC73 => modify fun s => s.killLaunch pid (v.truncate 16)
  | 0xC74 => modify fun s => s.putSvloc pid v
  | 0xCC0 => modify fun s => s.putHostep pid v
  | 0xC10 => modify fun s => (s.modPart pid fun p => p.putCtl n v).armSwap pid
  | 0xC60 | 0xC61 => modify fun s => (s.modPart pid fun p => p.putCtl n v).releaseSites
  | n =>
    modF fun c => c.putCtl n v
    modify fun s => s.modPart pid fun p => p.putCtl n v

/-! ## CRR, CRW, CRS and CRC (R217) -/

/-- The checks of a control register's number (R30, R58), and its value. -/
def ctlOld (i : Instr) (n : Nat) : M Word := do
  match (← get).ctl n with
  | none => trap cILLOP (encode i).toWord
  | some v =>
    if 0xC00 ≤ n then supervisor i
    return v

/-- A control register read: cycle, wall and ratio as a value of time (R218). -/
def ctlRead (n : Nat) (old : Word) : M Word :=
  if n = 0x030 then timeValue 0 else if n = 0x031 then timeValue 1 else if n = 0x032 then timeValue 2 else pure old

/-- CRR (R217). -/
def execCrr (d : Reg) (n : BitVec 12) (s : State) : Host.Outcome State Fault Refusal :=
  seq4 (do
    let old ← ctlOld (.crr d n) n.toNat
    writeX d (← ctlRead n.toNat old)) s

/-- CRW (R217). -/
def execCrw (n : BitVec 12) (a : Reg) (s : State) : Host.Outcome State Fault Refusal :=
  seq4 (do
    let _ ← ctlOld (.crw n a) n.toNat
    let m ← readX a
    if !ctlOfCtx n.toNat then noLoad
    putCtl n.toNat m (m.getLsbD 16)) s

/-- CRS (R217). -/
def execCrs (d : Reg) (n : BitVec 12) (a : Reg) (s : State) : Host.Outcome State Fault Refusal :=
  seq4 (do
    let old ← ctlOld (.crs d n a) n.toNat
    let got ← ctlRead n.toNat old
    let m ← readX a
    if a ≠ 0 then
      if !ctlOfCtx n.toNat then noLoad
      let wc := wcMask n.toNat
      putCtl n.toNat (((old ||| m) &&& ~~~wc) ||| (m &&& wc)) (m.getLsbD 16)
    writeX d got) s

/-- CRC (R217). -/
def execCrc (d : Reg) (n : BitVec 12) (a : Reg) (s : State) : Host.Outcome State Fault Refusal :=
  seq4 (do
    let old ← ctlOld (.crc d n a) n.toNat
    let got ← ctlRead n.toNat old
    let m ← readX a
    if a ≠ 0 then
      if !ctlOfCtx n.toNat then noLoad
      putCtl n.toNat ((old &&& ~~~m) &&& ~~~(wcMask n.toNat)) false
    writeX d got) s

/-! ## DPOINT and RDDIG (R399, R400) -/

/-- DPOINT (R399): a decision of TYPE 11 with its value. -/
def execDpoint (d a : Reg) (s : State) : Host.Outcome State Fault Refusal :=
  seq4 (do
    needs .madder (.dpoint d a)
    let v ← readX a
    let c ← fctx
    if c.lmode = 2 ∨ c.lmode = 3 then noLoad
    let r ← decideHere s 11 (c.tag.toNat % 2 ^ 46) (2 ^ 46) [v]
    countEvent
    writeX d (r.getD v)) s

/-- RDDIG (R400). -/
def execRddig (d a : Reg) (s : State) : Host.Outcome State Fault Refusal :=
  seq4 (do
    needs .madder (.rddig d a)
    let v ← readX a
    let c ← fctx
    match v.toNat with
    | 0 => writeX d c.digest
    | 1 => writeX d c.dkey
    | 2 => writeX d (zext c.dordE)
    | 3 => writeX d (zext c.dordJ)
    | _ => trap cACCESS v) s

/-! ## TLBINV (R85 to R87) -/

/-- An entry of a translation cache. -/
abbrev TlbEntry := Nat × Word × Word × Bool

/-- Whether TLBINV of a kind removes an entry: kind 0 those that map a VA, kind 1 all of the partition (R86). -/
def invalidates (pid kind : Nat) (va : Word) (e : TlbEntry) : Bool :=
  e.1 == pid && (kind == 1 || e.2.1 == vpn va e.2.2.2)

/-- The entries that TLBINV removes, wherever they are cached. -/
def State.staleEntries (s : State) (pid kind : Nat) (va : Word) : List TlbEntry :=
  (s.cores.flatMap (fun q => q.2.dtlb) ++ s.tlbs.flatMap (·.2)).filter (invalidates pid kind va)

/-- The entries removed; kind 1 also drops the partition's pointers (R86). -/
def State.dropEntries (s : State) (pid kind : Nat) (va : Word) : State :=
  let keep (e : TlbEntry) : Bool := !invalidates pid kind va e
  { s with
    cores := s.cores.map fun q => (q.1, { q.2 with dtlb := q.2.dtlb.filter keep })
    tlbs := s.tlbs.map fun t => (t.1, t.2.filter keep)
    walkCache := if kind = 1 then s.walkCache.map fun t => (t.1, t.2.filter fun e => e.1 != pid) else s.walkCache }

/-- A place in memory that an entry maps. -/
def TlbEntry.covers (e : TlbEntry) (module key : Nat) : Bool :=
  let size := if e.2.2.2 then 0x20000000 else 0x10000
  pteModule e.2.2.1 == module && pteFrame e.2.2.1 ≤ key && key < pteFrame e.2.2.1 + size

/-- A VA that an entry maps. -/
def TlbEntry.maps (e : TlbEntry) (va : Word) : Bool := bits va 63 56 == 0 && e.2.1 == vpn va e.2.2.2

/-- The device keys that a store-buffer entry writes. -/
def storeKeys : StoreOp → List Nat
  | .bytes k _ _ => [k]
  | .red k _ _ _ => [k]
  | .lanes l | .block l => l.map (·.1)

/-- The outstanding accesses of a core that were translated through the entries (R86): store-buffer entries, loads, AMOs
and full/empty operations, posted stores and pieces of engine accesses where an entry names another module. -/
def State.translated (s : State) (l : List TlbEntry) (core : Nat) (q : Core) : List (Nat × Nat × Nat × Nat) :=
  let away := l.any fun e => pteModule e.2.2.1 != s.module
  let hit (va : Word) : Bool := l.any fun e => TlbEntry.maps e va
  let stores := (q.sb.filter fun e => (storeKeys e.req.op).any fun k => l.any fun t => TlbEntry.covers t e.req.module k).map
    fun e => (0, core, 0, e.id)
  let ofCtx (k : Nat) : List (Nat × Nat × Nat × Nat) :=
    let c := q.ctx k
    let req := match c.req, c.copy with
      | some (.fe r _ va _ _ _), _ => if hit va then [(1, core, k, r.who.id)] else []
      | some (.group i), some p => if hit (p.va + BitVec.ofNat 64 (8 * p.pos)) then [(1, core, k, i)] else []
      | _, _ => []
    req ++ (c.pend.filter fun p => hit p.va).map (fun p => (1, core, k, p.id))
      ++ (if away then c.posted.map fun i => (2, core, k, i) else [])
  let pieces (n : Nat) (g : Engine) : List (Nat × Nat × Nat × Nat) :=
    if away then (g.queue.filter (·.started)).flatMap fun o => o.posted.map fun i => (3, core, n, i) else []
  stores ++ (List.range 8).flatMap ofCtx ++ pieces 0 q.cp0 ++ pieces 1 q.cp1 ++ pieces 2 q.mx

/-- The number of an access that a core of the module has sent. -/
def accessId (own : Nat) : Event → Option Nat
  | .remoteStore r => match r.reply with | .ctx w => if w.module = own then some w.id else none | .record _ _ _ => none
  | .amoRequest r => match r.reply with | .ctx w => if w.module = own then some w.id else none | .record _ _ _ => none
  | .remoteLoad r => if r.who.module = own then some r.who.id else none
  | .fullEmptyRequest r => if r.who.module = own then some r.who.id else none
  | _ => none

/-- A source port has forwarded an access (R79, R86). -/
def State.forwarded (s : State) (id : Nat) : Bool :=
  s.ports.any fun q => q.2.fwd.any fun x => x.1 != 0 && accessId s.module x.2 == some id

/-- An access that TLBINV waits for is neither performed nor forwarded; one that is held at its home, or where a move has
brought it, has been performed as far as its translation goes (R86). -/
def State.invalPending (s : State) (w : Nat × Nat × Nat × Nat) : Bool :=
  let q := s.core w.2.1
  let c := q.ctx w.2.2.1
  let id := w.2.2.2
  if s.forwarded id then false
  else if w.1 = 0 then (q.sb.any fun e => e.id == id) || q.ctxs.toList.any fun c => c.posted.contains id
  else if w.1 = 1 then
    (c.pend.any fun p => p.id == id) || (match c.req with
      | some (.fe r _ _ _ _ _) => r.who.id == id && (s.heldPlace r).isNone
      | some (.group i) => i == id
      | _ => false)
  else if w.1 = 2 then c.posted.contains id
  else
    let g := if w.2.2.1 = 0 then q.cp0 else if w.2.2.1 = 1 then q.cp1 else q.mx
    g.queue.any fun o => o.posted.contains id

/-- The move of a page of a partition that its source port has switched: the port and its slot (R86). -/
def State.endsMove (s : State) (pid : Nat) (va : Word) : Option (Nat × Nat) :=
  let hit (m : Nat × Move) : Bool :=
    m.2.switched && m.2.pteModule == s.module && m.2.pid == pid && vpn m.2.va false == vpn va false
  match s.ports.find? fun q => q.2.moves.any hit with
  | none => none
  | some q => match q.2.moves.find? hit with
    | some m => some (q.1, m.1)
    | none => none

/-- A page is not being copied, as far as its PTE shows (R83, R89). -/
def State.notCopying (s : State) (p : Partition) (va : Word) : Bool :=
  match s.walk p va with | .leaf e _ _ => !pteM e | .bad _ _ => true

/-- The end of a page's move told to the port of another module that serves it. -/
def State.endFar (s : State) (pid : Nat) (va : Word) : State :=
  let hit (m : FarMove) : Bool := m.pid == pid && vpn m.va false == vpn va false
  let done := match s.part pid with | some p => s.notCopying p va | none => true
  match s.farMoves.find? hit with
  | none => s
  | some m =>
    let s := if done then { s with farMoves := s.farMoves.filter fun m => !hit m } else s
    s.toModule m.module 0 (.moveEnd pid va m.src)

/-- TLBINV's last step: END ends the page's move (R83, R86). -/
def endMove (pid : Nat) (ends : Bool) (va : Word) : M Unit := do
  if ends then
    match (← get).endsMove pid va with
    | some (port, slot) => modify fun s => s.modPort port fun q => { q with moves := q.moves.filter fun m => m.1 != slot }
    | none => modify fun s => s.endFar pid va

/-- TLBINV (R86). -/
def execTlbinv (a b : Reg) (s : State) : Host.Outcome State Fault Refusal :=
  seq4 (do
    supervisor (.tlbinv a b)
    let va ← readX a
    let op ← readX b
    let kind := bits op 1 0
    if bits op 63 3 ≠ 0 ∨ 2 ≤ kind then trap cACCESS op
    if op.getLsbD 2 = true ∧ kind ≠ 0 then trap cACCESS op
    if kind = 0 ∧ bits va 63 55 ≠ 0 then trap cACCESS va
    if kind = 1 ∧ va ≠ 0 then trap cACCESS va
    noLoad
    let s ← get
    let pid := s.pidOf s.focusCore
    match s.fctx.inval with
    | none =>
      holdUntil (s.fctx.posted.isEmpty && s.fcore.sb.all fun e => e.ctx != s.focusCtx)
      let stale := s.staleEntries pid kind va
      let waits := (s.coresOf s.fpart).flatMap fun q => s.translated stale q.1 q.2
      let t := s.dropEntries pid kind va
      if waits.isEmpty then
        set t
        endMove pid (op.getLsbD 2) va
      else throw (.blockIn ({ s with cores := t.cores, tlbs := t.tlbs, walkCache := t.walkCache }.modF fun c =>
        { c with streams := (orig s).streams, inval := some waits }))
    | some l =>
      holdUntil (!l.any s.invalPending)
      modF fun c => { c with inval := none }
      endMove pid (op.getLsbD 2) va) s
where
  /-- The context as it stood before the operands were read. -/
  orig (_ : State) : Ctx := s.fctx

/-! ## PGMOVE and the copying of a page (R79 to R84, R88, R89) -/

/-- The lowest slot of a port's four that serves no move. -/
def freeMove (l : List (Nat × Move)) : Option Nat := (List.range 4).find? fun i => l.all fun m => m.1 != i

/-- A PTE with M set. -/
def withM (e : Word) : Word := e ||| 0x40

/-- A PTE with a new frame and module, and M clear (R83). -/
def movedPte (e : Word) (module frame : Nat) : Word :=
  (e &&& 0xFFF00000000000BF) ||| at' module 8 ||| at' (frame / 65536) 20

/-- Whether a move's destination word is one that PGMOVE refuses with status 4 (R88). -/
def badMove (pte dst : Word) : Bool :=
  let frame := bits dst 47 16 * 65536
  bits dst 63 60 != 0 || bits dst 15 0 != 0 || !rangeOk frame 65536
    || (bits dst 59 48 == pteModule pte && frame == pteFrame pte)

/-- A move that the source port of a frame serves in a slot, for the module of the PTE: the copying begins (R83). -/
def State.serveMove (s : State) (r : MoveReq) (slot : Nat) : State :=
  let port := portOf r.src
  let m : Move := ⟨r.src, r.dstModule, r.dst, r.who.module, r.pteKey, r.pteValue, 0, false, false, r.pid, r.va⟩
  let s := s.modPort port fun q => { q with moves := q.moves ++ [(slot, m)] }
  s.fly (portPlace port) (portPlace port) 3 (.pageLineCopy port slot)

/-- A move of a page is asked of its source port, on whatever module that lies: status 5, or 0 with the copying begun, once
M := 1 stands in the PTE (R83, R88, R89). -/
def State.acceptMove (s : State) (r : MoveReq) : Nat × State :=
  match freeMove (s.port (portOf r.src)).moves with
  | none => (5, s)
  | some slot =>
    let s := if r.who.module = s.module then s.putWord r.pteKey r.pteValue else s
    (0, s.serveMove r slot)

/-- A request to move a page comes from another module, which learns its status (R88). -/
def State.moveAsked (s : State) (r : MoveReq) : State :=
  let a := s.acceptMove r
  a.2.toModule r.who.module 1 (.moveStatus r a.1)

/-- The status of a move that a port of another module serves: with 0, M := 1 is written at the PTE's home before rd has it
(R89). -/
def State.moveAnswered (s : State) (module : Nat) (r : MoveReq) (status : Nat) : State :=
  let s :=
    if status = 0 then
      let hit (m : FarMove) : Bool := m.pid == r.pid && vpn m.va false == vpn r.va false
      { s.putWord r.pteKey r.pteValue with
        farMoves := s.farMoves.filter (fun m => !hit m) ++ [⟨r.pid, r.va, module, r.src⟩] }
    else s
  let c := s.ctx r.who.core r.who.ctx
  if c.req = some (.group r.who.id) then
    s.setCtx r.who.core r.who.ctx { c with mode := .ready, req := none, groupReply := some (60, BitVec.ofNat 64 status) }
  else s

/-- PGMOVE past its checks of the addresses: its status (R88), or the request to the module on which the page lies. -/
def State.pgmove (s : State) (va dst : Word) : Nat ⊕ MoveReq :=
  match s.walk s.fpart va with
  | .bad _ _ => .inl 1
  | .leaf pte big key =>
    if big then .inl 2
    else if pteM pte then .inl 3
    else if badMove pte dst then .inl 4
    else
      .inr ⟨⟨s.module, s.focusCore, s.focusCtx, s.serial + 1⟩, s.pidOf s.focusCore, va, pteFrame pte, bits dst 59 48,
        bits dst 47 16 * 65536, key, withM pte⟩

/-- The module on which the page of a VA of the focus partition lies. -/
def State.pageModule (s : State) (va : Word) : Nat :=
  match s.walk s.fpart va with | .leaf pte _ _ => pteModule pte | .bad _ _ => s.module

/-- PGMOVE (R88); its walk reads the tables as this module holds them (log entry 40). -/
def execPgmove (d a b : Reg) (s : State) : Host.Outcome State Fault Refusal :=
  seq4 (do
    needs .pgm (.pgmove d a b)
    supervisor (.pgmove d a b)
    let va ← readX a
    let dst ← readX b
    if bits va 63 55 ≠ 0 then trap cACCESS va
    noLoad
    let s ← get
    match s.fctx.groupReply with
    | some (60, v) =>
      modF fun c => { c with groupReply := none }
      writeX d v
    | _ =>
      match s.pgmove va dst with
      | .inl n => writeX d (BitVec.ofNat 64 n)
      | .inr r =>
        if s.pageModule va = s.module then
          let a := s.acceptMove r
          set a.2
          writeX d (BitVec.ofNat 64 a.1)
        else
          throw (.blockWith fun s =>
            let (id, s) := s.fresh
            let r := { r with who := { r.who with id := id } }
            (s.modF fun c => { c with mode := .waiting, req := some (.group id) }).toModule (s.pageModule va) 0 (.moveReq r))) s

/-- A line's words stored at another place of the module, with their tags and poison. -/
def State.putLine (s : State) (src dst : Nat) : Nat → State
  | 0 => s
  | n + 1 =>
    let a := src + 8 * n
    let b := dst + 8 * n
    let s := s.write b 8 (s.word a).toNat
    let s : State := { s with
      tags := match mapFind s.tags a with | some t => mapSet s.tags b t | none => mapDel s.tags b
      poison := if s.poisoned a then insertKey s.poison b else s.poison.filter (· != b) }
    s.putLine src dst n

/-- The words of a line with their tags and their poison. -/
def State.lineWords (s : State) (key : Nat) : List (Word × Bool × Bool) :=
  (List.range 8).map fun i => (s.word (key + 8 * i), s.tag (key + 8 * i), s.poisoned (key + 8 * i))

/-- A line that another module has sent is written as one operation, its words with their tags and poison (R79, R80). -/
def State.landLine (s : State) (key : Nat) : List (Word × Bool × Bool) → State
  | [] => s
  | (w, full, bad) :: t =>
    let s := (s.write key 8 w.toNat).setTag key full
    let s : State := { s with poison := if bad then insertKey s.poison (wordKey key) else s.poison.filter (· != wordKey key) }
    s.landLine (key + 8) t

/-- The held full/empty entries of a line go with it, each in its place in the order of R191 (R79): on this module also
where the destination's 64 entries are in use, and to another module as requests that the source port has forwarded
(DESIGN CHOICE: R203 does not say what becomes of an entry for which there is no room; log entry 38). -/
def State.moveHeldLine (s : State) (port : Nat) (m : Move) (src dst : Nat) : State :=
  let inLine (h : HeldFe) : Bool := h.req.key / 64 == src / 64
  let l := (s.port port).waitTab
  let moved := l.filter inLine
  if moved.isEmpty then s
  else
    let s := s.modPort port fun q => { q with waitTab := l.filter fun h => !inLine h }
    let onto (r : FeReq) : FeReq := { r with module := m.dstModule, key := r.key - src + dst }
    if m.dstModule = s.module then
      let s := s.modPort (portOf dst) fun q => { q with
        waitTab := moved.foldl (fun l h => heldIns { h with req := onto h.req } l) q.waitTab }
      { s with timers := s.timers.map fun t => match t.2 with
          | .heldEntryTimeout r => if moved.any (fun h => h.req == r) then (t.1, .heldEntryTimeout (onto r)) else t
          | _ => t }
    else
      moved.foldl (fun s h =>
        (s.disarm (.heldEntryTimeout h.req)).sendAway port m.dstModule (h.req.key - src + dst) (.fullEmptyRequest h.req)) s

/-- A move of a port changed. -/
def State.modMove (s : State) (port slot : Nat) (f : Move → Move) : State :=
  s.modPort port fun q => { q with moves := q.moves.map fun x => if x.1 = slot then (x.1, f x.2) else x }

/-- The compare-and-swap of a PTE at its home (R83): one that software changed stays, with a machine check. Where its line is
on its way or lies on another module, it goes there as an AMO of the port (R79). -/
def State.swapPte (s : State) (key : Nat) (old new : Word) : State :=
  let r := s.homeNow key
  if s.steady key then if s.word r.2 = old then s.write r.2 8 new.toNat else s.machineCheck
  else
    let place := portPlace (portOf r.2)
    let (id, s) := s.fresh
    let q : AmoReq := ⟨.ctx ⟨s.module, place, 32, id⟩, place, 64, 0, r.1, r.2, .cas, false, new, old, false, 0, 0⟩
    let s := s.modPort (portOf r.2) fun p => { p with fwd := p.fwd ++ [(id, .amoRequest q)] }
    if r.1 ≠ s.module then s.toModule r.1 0 (.amo q) else s.stopAt (portOf r.2) (.amoRequest q)

/-- The switch of a move whose last line is copied (R83). -/
def State.switchMove (s : State) (m : Move) : State :=
  let new := movedPte m.pteValue m.dstModule m.dst
  if m.pteModule = s.module then s.swapPte m.pteKey m.pteValue new
  else s.toModule m.pteModule 1 (.pteSwitch m.pid m.pteKey m.pteValue new)

/-- A line's copy is performed: its held entries follow, it is counted, and after the last the switch (R79, R83). -/
def State.lineCopied (s : State) (port slot : Nat) (m : Move) : State :=
  let s := s.moveHeldLine port m (m.src + 64 * m.copied) (m.dst + 64 * m.copied)
  let last := m.copied + 1 == 1024
  let s := s.modMove port slot fun m => { m with copied := m.copied + 1, sending := false, switched := last }
  if last then s.switchMove m else s.fly (portPlace port) (portPlace port) 3 (.pageLineCopy port slot)

/-- Another module has written the line that a port is sending: what has waited for the line comes on (R79). -/
def State.lineArrived (s : State) (port slot : Nat) : State :=
  match mapFind (s.port port).moves slot with
  | none => s
  | some m => if m.sending then (s.lineCopied port slot m).restart s.ports else s

/-- The end of a move that a port serves for another module (R83, R86). -/
def State.moveEnded (s : State) (module pid : Nat) (va : Word) (src : Nat) : State :=
  s.modPort (portOf src) fun q => { q with moves := q.moves.filter fun m =>
    !(m.2.switched && m.2.pteModule == module && m.2.pid == pid && m.2.src == src && vpn m.2.va false == vpn va false) }

/-- PAGE_LINE_COPY (R79, R80, R83): the next line of a move is read at the source and written at the destination as one
operation; a line for another module is held until it is written there. -/
def execPageLineCopy (port slot : Nat) (s : State) : Host.Outcome State Fault Refusal :=
  change (fun s =>
    match mapFind (s.port port).moves slot with
    | none => s
    | some m =>
      let src := m.src + 64 * m.copied
      let dst := m.dst + 64 * m.copied
      if 1024 ≤ m.copied ∨ m.sending = true then s
      else if m.dstModule = s.module then (s.putLine src dst 8).lineCopied port slot m
      else
        (s.modMove port slot fun m => { m with sending := true }).toModule m.dstModule 0
          (.line m.pid port slot dst (s.lineWords src))) s

end Sys2Proof.Machine
end

