-- ==== Sys2Proof/Machine/Manage.lean ====
section
/-! DEFINITION. Umber (R457 to R463): commands and answers, counters and snapshots, the creation and destruction of
partitions, pre-emption and resume (R418 to R421), and BREAK with its halt (R219, R463). -/

namespace Sys2Proof.Machine

/-! ## Commands and answers (R457) -/

/-- A word of a command. -/
def commandWord (k : Command) (i : Nat) : Word := k.words.getD i 0

/-- The answer to a command: OP, status, flags and tag in word 0, results in words 1 to 7. -/
def State.respond (s : State) (k : Command) (status flags : Nat) (results : List Word) : State :=
  let w := commandWord k 0
  let first : Word := at' (bits w 7 0) 0 ||| at' status 8 ||| at' flags 16 ||| at' (bits w 63 32) 32
  { s with hostOut := s.hostOut ++ [.answer (first :: (results ++ List.replicate 7 0).take 7)] }

/-- A command of an OP: status 1 where word 0 is not its own or has a reserved bit set. Before Umber has been started
nobody answers (R464). -/
def command (op : Nat) (k : Command) (f : State → State) (s : State) : Host.Outcome State Fault Refusal :=
  change (fun s =>
    if s.boot ≠ .running then s
    else if bits (commandWord k 0) 7 0 ≠ op ∨ bits (commandWord k 0) 31 8 ≠ 0 then s.respond k 1 0 []
    else f s) s

/-- UNKNOWN_OP (R457): status 1, and nothing changes. -/
def execUnknownOp (k : Command) (s : State) : Host.Outcome State Fault Refusal :=
  change (fun s => if s.boot ≠ .running then s else s.respond k 1 0 []) s

/-- The completion of a partition command, reported (R458; log entry 13). -/
def State.partEvent (s : State) (op pid : Nat) : State := s.umberEvent [6, BitVec.ofNat 64 op, BitVec.ofNat 64 pid]

/-! ## Counters (R459 to R461) -/

/-- RESYNC (R459). -/
def execResync (k : Command) (s : State) : Host.Outcome State Fault Refusal :=
  command 0x01 k (fun s => s.respond k 0 0 s.summary) s

/-- The octet a command names in word 1. -/
def commandOctet (k : Command) : Nat := (commandWord k 1).toNat

/-- The source that CTRSEL gives a counter: a byte of words 2 and 3, four in each (log entry 13). -/
def commandSource (k : Command) (i : Nat) : BitVec 8 := (commandWord k (2 + i / 4)).extractLsb' (8 * (i % 4)) 8

/-- CTRSEL (R460). -/
def execCtrsel (k : Command) (s : State) : Host.Outcome State Fault Refusal :=
  command 0x02 k (fun s =>
    let o := commandOctet k
    if 1536 ≤ o then s.respond k 4 0 []
    else if (List.range 8).any fun i => 11 < (commandSource k i).toNat then s.respond k 1 0 []
    else
      (s.modOctet o fun x => { x with
        sources := Vector.ofFn fun i => commandSource k i.val, counters := Vector.replicate 8 0, overflow := 0 }).respond
          k 0 0 []) s

/-- An octet of a confidential partition (R461). -/
def State.octetConf (s : State) (o : Nat) : Bool := s.parts.any fun q => q.2.conf && q.2.hasOctet o

/-- Eight counters of 48 bits and their overflow bits, packed from word 1 up (log entry 13). -/
def counterWords (c : Vector (BitVec 48) 8) (overflow : BitVec 8) : List Word :=
  wordsOf ((c.toList.zipIdx).foldl (fun n v => n + v.1.toNat * 2 ^ (48 * v.2)) (overflow.toNat * 2 ^ 384)) 7

/-- The counters of an octet answered, as zeros with flag bit 0 where they are confidential. -/
def State.answerCounters (s : State) (k : Command) (o : Nat) (c : Vector (BitVec 48) 8) (overflow : BitVec 8) : State :=
  if s.octetConf o then s.respond k 0 1 [] else s.respond k 0 0 (counterWords c overflow)

/-- CTRREAD (R460, R461). -/
def execCtrread (k : Command) (s : State) : Host.Outcome State Fault Refusal :=
  command 0x03 k (fun s =>
    let o := commandOctet k
    if 1536 ≤ o then s.respond k 4 0 [] else s.answerCounters k o (s.octet o).counters (s.octet o).overflow) s

/-! ## Snapshots (R462) -/

/-- SNAPARM (R462): status 2 for a trigger less than 1 wall µs away, or while another is pending. -/
def execSnaparm (k : Command) (s : State) : Host.Outcome State Fault Refusal :=
  command 0x04 k (fun s =>
    let t := commandWord k 1
    if s.snapAt.isSome ∨ t.toNat * unitsPerNs < s.wallUnits + 1000 * unitsPerNs then s.respond k 2 0 []
    else ({ s with snapAt := some t.toNat } : State).armAt t .snapshotLatch |>.respond k 0 0 []) s

/-- SNAPSHOT_LATCH (R462): every block latches its registers when wall reaches the trigger: as they stood before the uncore
cycle in which it did. -/
def execSnapshotLatch (s : State) : Host.Outcome State Fault Refusal :=
  change (fun s =>
    match s.snapAt with
    | none => s
    | some t =>
      if s.wallUnits < t * unitsPerNs then s
      else
        { s with
          snapAt := none
          snapshot := some (s.snapTaken.getD s.registers)
          snapTaken := none }) s

/-- SNAPREAD (R462): word 1 names a latched register: [17:16] 0 the counters of octet [15:0], 1 the rail register [15:0],
2 the fabric port register [15:0], 3 the summary (log entry 13). Status 4 before any trigger has fired. -/
def execSnapread (k : Command) (s : State) : Host.Outcome State Fault Refusal :=
  command 0x05 k (fun s =>
    let w := commandWord k 1
    let n := bits w 15 0
    match s.snapshot with
    | none => s.respond k 4 0 []
    | some x =>
      if bits w 63 18 ≠ 0 then s.respond k 4 0 []
      else match bits w 17 16 with
      | 0 =>
        if 1536 ≤ n then s.respond k 4 0 []
        else
          let c := mapGet (Vector.replicate 8 0, 0) x.octets n
          s.answerCounters k n c.1 c.2
      | 1 => match x.rails[n]? with
        | some r => s.respond k 0 0 [r.word]
        | none => s.respond k 4 0 []
      | 2 => match x.ports[n]? with
        | some p => s.respond k 0 0 [p.word]
        | none => s.respond k 4 0 []
      | _ => s.respond k 0 0 x.summary) s

/-! ## What belongs to a partition -/

/-- The core whose hardware holds a byte of the one byte space; none for device memory. -/
def keyOwner (key : Nat) : Option Nat :=
  if key < 0x1000000000000 then none
  else if key < 0x2000000000000 then some ((key - 0x1000000000000) / 65536)
  else if key < 0x4000000000000 then some ((key - 0x2000000000000) / 16384)
  else if key < 0x8000000000000 then some (octetCore ((key - 0x4000000000000) / 262144) 0)
  else some ((key - 0x8000000000000) / 8192)

/-- A byte of a partition's local memories, code stores, weight buffers and accumulators. -/
def Partition.ownsKey (p : Partition) (key : Nat) : Bool :=
  match keyOwner key with | some c => p.hasCore c | none => false

/-- Two rectangles share an octet. -/
def Partition.overlaps (p q : Partition) : Bool :=
  p.ox0 ≤ q.ox0 + q.wm1 && q.ox0 ≤ p.ox0 + p.wm1 && p.oy0 ≤ q.oy0 + q.hm1 && q.oy0 ≤ p.oy0 + p.hm1

/-- No partition that occupies cores overlaps a rectangle. -/
def State.rectFree (s : State) (p : Partition) : Bool := s.parts.all fun q => q.2.stage == .saved || !q.2.overlaps p

/-- The work that a core's own units have under way or armed: it is looked for again when the core resumes. -/
def ownWork (s : State) : Event → Option Nat
  | .taskStart c | .firingStart c | .drainMessagePost c => some c
  | .refusedMessageResend c _ _ => some c
  | .channelOperationStart c _ | .channelOperationComplete c _ _ => some c
  | .engineFault c _ _ _ => some c
  | .streamRefill c _ _ => some c
  | .collectiveOperationStart c | .collectiveOperationComplete c => some c
  | .engineAcknowledgement c _ => some c
  | .swapControl c _ | .swapExchange c _ | .swapExchangeEnd c _ => some c
  | .alarmFire c _ _ | .deadlineTrap c _ | .waitDeadlineExpiry c _ | .waitTargetReached c _ => some c
  | .matrixCommandStart o _ | .matrixCommandComplete o _ _ => some (octetCore o 0)
  | .regulatorRequestChange o | .retentionTimedWake o => some (octetCore o 0)
  | .amoLimitExpiry w => if w.module = s.module then some w.core else none
  | .fullEmptyResend r => if r.who.module = s.module then some r.who.core else none
  | .heldEntryTimeout r => if isDevice r.key then none else some (homePlace r.key)
  | .depositResend d => some d.srcCore
  | .partialResend p => some p.srcCore
  | _ => none

/-- A unit of a partition, by its place: the unit of one of its octets, or its launch sequencer. -/
def Partition.hasUnit (p : Partition) (pid place : Nat) : Bool :=
  place == seqPlace pid || p.octets.any fun o => place == octetPlace o

/-- Work of a partition's units, its swap instants, log reader and Madder holds. -/
def State.worksFor (s : State) (pid : Nat) (p : Partition) (e : Event) : Bool :=
  match e with
  | .swapInstant i | .logReaderEntry i => i == pid
  | .logStallExpiry i _ | .replayHoldExpiry i _ => i == pid
  | e => match ownWork s e with | some c => p.hasCore c | none => false

/-- An octet as it is handed over: its clocks, counters, notices, records and what its router holds stay (R418). -/
def Octet.vacate (x : Octet) : Octet :=
  { x with
    idleSince := none, arbIdx := Octet.reset.arbIdx, arbLeft := 0, array := none, fill := none, staging := []
    engInbox := [], locators := [] }

/-- The octets of a partition listed, so that the clocks, windows and counters of each are kept on their own, and occupied
by it. -/
def State.occupy (s : State) (pid : Nat) (p : Partition) : State :=
  p.octets.foldl (fun s o => s.modOctet o fun x => { x with occupant := some pid }) s

/-- A partition's cores and octets emptied: nothing of it stays in their memories, units, timers and channels. -/
def State.vacate (s : State) (pid : Nat) (p : Partition) : State :=
  let gone (e : Event) : Bool := s.worksFor pid p e
  { s with
    mem := s.mem.filter fun c => !p.ownsKey c.1
    tags := s.tags.filter fun t => !p.ownsKey t.1
    poison := s.poison.filter fun k => !p.ownsKey k
    cores := s.cores.filter fun q => !p.hasCore q.1
    octets := s.octets.map fun o => (o.1, if p.hasOctet o.1 then o.2.vacate else o.2)
    flights := s.flights.filter fun f => !gone f.ev
    timers := s.timers.filter fun t => !gone t.2 }

/-- An access of a partition that a replay hold keeps. -/
def accessOf (pid : Nat) (e : Event) : Bool :=
  match e with
  | .remoteStore r => r.pid == pid
  | .remoteLoad r => r.pid == pid
  | .fullEmptyRequest r => r.pid == pid
  | .amoRequest r => r.pid == pid
  | _ => false

/-- A site whose held decisions of a partition wait no longer: they are kept elsewhere. -/
def Site.unheld (x : Site) (pid : Nat) : Site := { x with stalls := x.stalls.filter fun y => y.1 != pid }

/-- A memory port's site without what it holds for a partition. -/
def Site.cleared (x : Site) (pid : Nat) : Site := { x.unheld pid with hold := x.hold.filter fun e => !accessOf pid e }

/-- The decisions of a partition that a site holds, each with the time that it has left (R398). -/
def Site.left (x : Site) (pid wall : Nat) : List (Nat × Nat × Nat × Word) :=
  (x.stalls.filter fun y => y.1 == pid).map fun y => (y.1, y.2.1 - wall, y.2.2)

/-- A partition's held decisions at a site, kept with the time that each had left, held again (R398). -/
def State.holdAgain (s : State) (pid n : Nat) (l : List (Nat × Nat × Nat × Word)) : State :=
  let replay := match s.part pid with
    | some p => (match p.recorder with | some num => s.recMode pid num == 3 | none => false)
    | none => false
  l.foldl (fun s y =>
    let due := s.wallUnits + y.2.1
    (s.modSite n fun x => { x with stalls := x.stalls ++ [(pid, due, y.2.2)] }).arm due
      (if replay then .replayHoldExpiry pid n else .logStallExpiry pid n)) s

/-- Every octet of a partition that is not active made active (R433). -/
def State.wakeAllOctets (s : State) (p : Partition) : State :=
  p.octets.foldl (fun s o => if (s.octet o).power = .active then s else s.wakeOctet o) s

/-! ## Creation and destruction (R457) -/

/-- The partition that PCREATE asks for: word 1 as partinfo, word 2 as svloc, word 3 [0] confidential (log entry 13). -/
def createPart (k : Command) : Partition :=
  let w := commandWord k 1
  let v := commandWord k 2
  { Partition.reset with
    ox0 := bits w 5 0, oy0 := bits w 12 8, wm1 := bits w 21 16, hm1 := bits w 28 24, key := w.extractLsb' 48 16
    conf := (commandWord k 3).getLsbD 0, svCore := v.extractLsb' 0 14, svEn := v.getLsbD 31 }

/-- The number that PCREATE gives a partition. -/
def createPid (k : Command) : Nat := bits (commandWord k 1) 37 32

/-- The configuration record of a partition (R453). -/
def Partition.record (p : Partition) (pid : Nat) : List Byte :=
  [p.info pid, zext p.featmask, p.svloc, p.hostep].flatMap wordBytes

/-- PCREATE (R457): refused for a number in use, a rectangle off the die or occupied, or a supervisor core outside it. -/
def execPcreate (k : Command) (s : State) : Host.Outcome State Fault Refusal :=
  command 0x10 k (fun s =>
    let p := createPart k
    let pid := createPid k
    if (s.part pid).isSome ∨ 47 < p.ox0 + p.wm1 ∨ 31 < p.oy0 + p.hm1 ∨ s.rectFree p = false
        ∨ p.hasCore p.svCore.toNat = false then s.respond k 4 0 []
    else
      let p := if p.conf then { p with measG := Config.sha3 (p.record pid) } else p
      let s := s.respond k 0 0 []
      let s := (s.wakeAllOctets p).vacate pid p |>.occupy pid p
      ({ s with parts := mapSet s.parts pid p } : State).partEvent 0x10 pid) s

/-- An event that carries a message of a partition's key. -/
def eventOfKey (key : BitVec 16) (e : Event) : Bool :=
  match eventMessage e with | some m => m.key == key | none => false

/-- The host's accesses to a destroyed partition end with an error. -/
def State.endRmas (s : State) (pid : Nat) : State :=
  let mine := s.rmas.filter fun r => r.pid == pid
  mine.foldl (fun s r => s.hostSays (.rmaDone pid (some r.off) [])) { s with rmas := s.rmas.filter fun r => r.pid != pid }

/-- What a destroyed partition leaves nowhere: its messages, deliveries and host's accesses on the way, its held requests,
replay entries, walks and cached translations. -/
def State.forgetPart (s : State) (pid : Nat) (p : Partition) : State :=
  let s := s.clearReplay pid
  let ids := (s.rmas.filter fun r => r.pid == pid).map (·.id)
  let gone (e : Event) : Bool :=
    eventOfKey p.key e || (match eventRma e with | some id => ids.contains id | none => false)
      || match e with | .joinDelivery j => p.hasCore j.core | _ => false
  let s := s.endRmas pid
  let mine (h : HeldFe) : Bool := h.req.pid == pid && h.req.who.module == s.module
  { s with
    flights := s.flights.filter fun f => !gone f.ev
    timers := s.timers.filter fun t => !gone t.2
    octets := s.octets.map fun o => (o.1, { o.2 with
      held := o.2.held.filter fun f => !gone f.ev, occupant := if o.2.occupant == some pid then none else o.2.occupant })
    ports := s.ports.map fun q => (q.1, { q.2 with waitTab := q.2.waitTab.filter fun h => !mine h })
    tlbs := s.tlbs.map fun t => (t.1, t.2.filter fun e => e.1 != pid)
    walkCache := s.walkCache.map fun t => (t.1, t.2.filter fun e => e.1 != pid)
    farMoves := s.farMoves.filter fun m => m.pid != pid
    walkers := s.walkers.map fun q => (q.1, q.2.filter fun w => w.pid != pid)
    parts := mapDel s.parts pid }

/-- PDESTROY (R457). -/
def execPdestroy (k : Command) (s : State) : Host.Outcome State Fault Refusal :=
  command 0x11 k (fun s =>
    let pid := (commandWord k 1).toNat
    match s.part pid with
    | none => s.respond k 4 0 []
    | some p =>
      let s := s.respond k 0 0 []
      let s := if p.stage = .saved then s else s.vacate pid p
      (s.forgetPart pid p).partEvent 0x11 pid) s

/-! ## Pre-emption (R418 to R420) -/

/-- A pre-emption begins: of a running partition with a save area. -/
def State.beginPreempt (s : State) (pid host : Nat) : Option State :=
  match s.part pid with
  | none => none
  | some p =>
    if p.stage ≠ .running ∨ p.psave = 0 then none
    else some (s.modPart pid fun p => { p with stage := .preempting host })

/-- PREEMPT (R418, R419): refused with BASE = 0. -/
def execPreempt (k : Command) (s : State) : Host.Outcome State Fault Refusal :=
  command 0x12 k (fun s =>
    match s.beginPreempt (commandWord k 1).toNat 1 with
    | none => s.respond k 4 0 []
    | some t => t.respond k 0 0 []) s

/-- The full/empty operations of a core that are outstanding are cancelled at their homes (R194, R418). -/
def State.cancelFes (s : State) (core : Nat) : State :=
  (List.range 8).foldl (fun s k =>
    match (s.ctx core k).req with
    | some (.fe r reg va exempt false back) =>
      (s.cancelReq core k).modCtx core k fun c => { c with req := some (.fe r reg va exempt true back) }
    | _ => s) s

/-- A context that stands at an instruction boundary with nothing outstanding (R112, R194, R208). -/
def Ctx.drained (c : Ctx) : Bool :=
  c.req.isNone && c.pend.isEmpty && c.posted.isEmpty && !c.mode.isWalking && !c.dying && c.vread.isEmpty

/-- A message that a Madder hold of a core keeps from its receiver. -/
def State.heldBySite (s : State) (core : Nat) (m : Message) : Bool :=
  s.cores.any fun q => q.2.site.hold.any fun e => match eventMessage e with
    | some n => n.smod == s.module && senderOf n == core && n.vn == m.vn && n.seq == m.seq
    | none => false

/-- A core's send queues hold refused messages alone, with what waits behind them (R316). -/
def State.queuesDrained (s : State) (core : Nat) (q : Core) : Bool :=
  let l := q.sq0 ++ q.sq1 ++ q.sq2
  l.all fun e => match e.mode with
    | .refused => true
    | .sent => s.heldBySite core e.msg
    | .waiting => l.any fun x => x.mode == .refused

/-- A core's deposits and partials that have been refused and wait to be sent again. -/
def State.resendsOf (s : State) (core : Nat) : Nat :=
  (s.timers.filter fun t => match t.2 with
    | .depositResend d => d.srcCore == core
    | .partialResend p => p.srcCore == core
    | _ => false).length

/-- A core's swap unit has no instant or exchange in progress (R354). A decided pair whose exchange still waits for earlier
accesses is saved as it is, since the engines perform no more of them meanwhile. -/
def State.pairRests (s : State) (q : Core) : Bool :=
  q.exch.isNone && q.exchHeld.isEmpty && match q.pairing with
    | none => true
    | some x => x.swaps && (if x.waits.isEmpty then
        match (s.core x.partner).pairing with | some y => y.waits.any s.swapPending | none => false
      else x.waits.any s.swapPending)

/-- A core whose stores, messages, engines and swaps have drained (R138, R180, R199, R283, R316, R354). -/
def State.coreDrained (s : State) (core : Nat) (q : Core) : Bool :=
  q.ctxs.toList.all Ctx.drained && q.sb.isEmpty && q.arrivals.isEmpty && s.pairRests q
    && s.queuesDrained core q
    && q.joins.isEmpty && (q.cp0.queue.take 1 ++ q.cp1.queue.take 1 ++ q.mx.queue.take 1).all (fun o => !o.midUnit)
    && [q.cp0, q.cp1, q.mx, q.cl].all (fun g => g.late.all fun o => o.posted.isEmpty)
    && (q.cp0.queue ++ q.cp1.queue ++ q.mx.queue ++ q.cl.queue).all (fun o => o.posted.isEmpty)
    && (q.cl.queue.map (·.out) ++ q.cl.late.map (·.out)).sum == s.resendsOf core

/-- Something on its way that a partition's pre-emption waits for. -/
def State.delays (s : State) (pid : Nat) (p : Partition) (e : Event) : Bool :=
  match e with
  | .joinDelivery j => p.hasCore j.core
  | .withdrawal c _ _ _ _ _ => p.hasCore c
  | .launchStart i _ | .launchComplete i _ | .launchEndByFault i _ _ _ _ => i == pid
  | .deposit d => p.hasCore d.dstCore || p.hasCore d.srcCore
  | .multicastDelivery d => p.hasCore d.dstCore || p.hasCore d.srcCore
  | .haloPush d => p.hasCore d.dstCore || p.hasCore d.srcCore
  | .reducePartial d => p.hasCore d.dstCore || p.hasCore d.srcCore
  | .reduceResult d => p.hasCore d.dstCore || p.hasCore d.srcCore
  | .engineFault c _ _ _ => p.hasCore c
  | .supervisorNotice n => n.pid == pid
  | .locatorCorrection o _ _ _ => p.hasOctet o
  | e => match eventMessage e with
    | some m => m.side.hardware && m.side.unit.1 == s.module && p.hasUnit pid m.side.unit.2
    | none => false

/-- Steps 1 to 3 of a pre-emption are over (R418). -/
def State.partDrained (s : State) (pid : Nat) (p : Partition) : Bool :=
  (s.coresOf p).all (fun q => s.coreDrained q.1 q.2)
    && p.octets.all (fun o => let x := s.octet o; x.array.isNone && x.power == .active)
    && s.flights.all fun f => !s.delays pid p f.ev

/-- A stream's buffered elements discarded (R148). -/
def Stream.rewind (t : Stream) : Stream := { t with ahead := [] }

/-- A CODELD under way as it is saved: it reads its image again from the header; its target is not to start anything before
the whole image is there (R341). -/
def CodeCopy.restart (c : CodeCopy) : CodeCopy := { c with header := [], pos := 0, code := [] }

/-- A context as it is saved (R148, R208, R361, R419): what of it counts run cycles holds the cycles that remain; a TLBINV
or CODELD under way starts again. -/
def Ctx.save (c : Ctx) (cycle : Nat) : Ctx :=
  let left (a : Alarm) : Alarm := match a with | .cycle t => .cycle (t - cycle) | a => a
  { c.wake with
    alarm0 := left c.alarm0, alarm1 := left c.alarm1, copy := c.copy.map CodeCopy.restart, waitTarget := c.waitTarget.map (· - cycle), inval := none
    streams := c.streams.map (Option.map Stream.rewind), waitBack := c.waitBack.map (Option.map Stream.rewind) }

/-- A core as it is saved; a held decision keeps the time it had left (R398). -/
def Core.save (q : Core) (pid cycle wall : Nat) : Core :=
  { q with
    ctxs := q.ctxs.map fun c => c.save cycle
    site := { q.site with stalls := q.site.left pid wall }
    dtlb := [], lastIssue := none }

/-- The energy of a partition sampled at a switch (R418, R435): what it has grown by is open (log entry 8). -/
def State.sampleEnergy (s : State) (pid : Nat) : State :=
  let (w, s) := s.drawWord
  s.modPart pid fun p => { p with penergy := p.penergy + w }

/-- The partitions that occupied the octets of p last, each charged with the energy of its time there (R435). -/
def State.chargeOctets (s : State) (p : Partition) : State :=
  ((p.octets.filterMap fun o => (s.octet o).occupant).eraseDups).foldl State.sampleEnergy s

/-- The words of an area that page moves have taken elsewhere, written there as well (R79). -/
def State.carryArea (s : State) (base n : Nat) : State :=
  (s.ports.flatMap fun q => q.2.moves.map fun m => m.2).foldl (fun s m =>
    if base ≤ m.src && m.src < base + n then
      (List.range (8 * (m.copied + 1))).foldl (fun s i => s.putWord (m.src + 8 * i) (s.word (m.src + 8 * i))) s
    else s) s

/-- The save area written (R418, R419): 1,344 KiB for each octet, whose layout programs do not see, so that its bytes are
free (log entry 29); nothing where BASE names no memory. -/
def State.writeArea (s : State) (p : Partition) : State :=
  let base := p.psave.toNat * 65536
  let n := 1344 * 1024 * p.octets.length
  if 0x10000000000 ≤ base && paOk (base + n - 1) then
    let (v, s) := s.drawPick
    ({ s with poison := s.poison.filter fun k => k < base || base + n ≤ k }.write base n v).carryArea base n
  else s

/-- Steps 4 and 5 of a pre-emption (R418, R419). -/
def State.savePart (s : State) (pid : Nat) (p : Partition) : State :=
  let resends := s.timers.filterMap fun t => match t.2 with
    | .depositResend d => if p.hasCore d.srcCore then some t.2 else none
    | .partialResend r => if p.hasCore r.srcCore then some t.2 else none
    | _ => none
  let saved : Saved :=
    { cores := (s.coresOf p).map fun q => (q.1, q.2.save pid (s.cycle q.1) s.wallUnits)
      octets := s.octets.filter fun o => p.hasOctet o.1
      cells := s.mem.filter fun c => p.ownsKey c.1
      tags := s.tags.filter fun t => p.ownsKey t.1
      poison := s.poison.filter fun k => p.ownsKey k
      resends := resends
      stalls := (s.ports.map fun q => (q.1, q.2.site.left pid s.wallUnits)).filter fun x => !x.2.isEmpty
      holds := (s.ports.map fun q => (q.1, q.2.site.hold.filter fun e => accessOf pid e)).filter fun x => !x.2.isEmpty }
  let s := ((s.writeArea p).chargeOctets p).vacate pid p
  let s : State := { s with ports := s.ports.map fun q => (q.1, { q.2 with site := q.2.site.cleared pid }) }
  s.modPart pid fun p => { p with stage := .saved, saved := some saved }

/-- A pre-emption under way goes on: sleeping octets wake, full/empty operations are cancelled, and once all has drained
the partition is saved. -/
def State.followPreempt (s : State) (pid : Nat) : State :=
  match s.part pid with
  | none => s
  | some p =>
    match p.stage with
    | .preempting host =>
      let s := p.octets.foldl (fun s o => if (s.octet o).power = .active then s else s.startWake o) s
      let s := (s.coresOf p).foldl (fun s q => s.cancelFes q.1) s
      if s.partDrained pid p then
        let s := s.savePart pid p
        if host = 1 then s.partEvent 0x12 pid else s
      else s
    | _ => s

/-! ## Resume (R420, R421) -/

/-- A restored context's clocks and timers run on: remaining run cycles from now, absolute times as they are (R361,
R363). A parked one tries again if GEN has advanced (R416). -/
def State.resumeCtx (s : State) (gen : BitVec 32) (core k : Nat) : State :=
  let now := s.cycle core
  let on (a : Alarm) : Alarm := match a with | .cycle t => .cycle (now + t) | a => a
  let s := s.modCtx core k fun c =>
    { c.unpark gen with alarm0 := on c.alarm0, alarm1 := on c.alarm1, waitTarget := c.waitTarget.map (now + ·) }
  let c := s.ctx core k
  let wall (s : State) (slot : Nat) (a : Alarm) : State :=
    match a with | .wall t => s.armAt t (.alarmFire core k slot) | _ => s
  let s := wall (wall s 0 c.alarm0) 1 c.alarm1
  let s := if c.deadline = 0 then s else s.armAt c.deadline (.deadlineTrap core k)
  let s := s.armWait core k
  (List.range 6).foldl (fun s i =>
    match c.streams[i % 6]'(Nat.mod_lt _ (by decide)) with
    | some t => if t.wants then s.kickStream core k i else s
    | none => s) s

/-- A restored core goes on: its contexts, held entries, held decisions, refused messages and engines (R316, R398). -/
def State.resumeCore (s : State) (pid : Nat) (gen : BitVec 32) (core : Nat) : State :=
  let q := s.core core
  let s := (List.range 8).foldl (fun s k => s.resumeCtx gen core k) s
  let s := q.waitTab.foldl (fun s h =>
    if h.req.deadline = 0 ∨ h.word0.isSome = true then s else s.armAt h.req.deadline (.heldEntryTimeout h.req)) s
  let s := (s.modSite core fun x => x.unheld pid).holdAgain pid core q.site.stalls
  let s := (q.sq0 ++ q.sq1 ++ q.sq2).foldl (fun s e =>
    if e.mode = .refused then s.armIn 0 (.refusedMessageResend core e.msg.vn e.msg.seq) else s) s
  ((s.pumpSends core).drainCheck core).kickEngines core

/-- A saved octet restored over the one that stands there; what its router held comes on. -/
def State.resumeOctet (s : State) (o : Nat) (x : Octet) : State :=
  let y := s.octet o
  let s := s.setOctet o
    { y with
      array := x.array, fill := x.fill, arbIdx := x.arbIdx, arbLeft := x.arbLeft, staging := x.staging
      engInbox := x.engInbox, idleSince := none, held := [] }
  { s with flights := y.held ++ s.flights }

/-- A saved partition restored (R421). -/
def State.restorePart (s : State) (pid : Nat) (p : Partition) (z : Saved) : State :=
  let s := ((s.chargeOctets p).wakeAllOctets p).occupy pid p
  let s : State :=
    { s with
      mem := memPut s.mem z.cells
      tags := z.tags.foldl (fun t e => mapSet t e.1 e.2) s.tags
      poison := z.poison.foldl insertKey s.poison
      cores := z.cores.foldl (fun t q => mapSet t q.1 q.2) s.cores }
  let s := s.modPart pid fun p => { p with stage := .running, saved := none }
  let s := z.octets.foldl (fun s o => s.resumeOctet o.1 o.2) s
  let s := z.cores.foldl (fun s q => s.resumeCore pid p.fltGen q.1) s
  let s := z.stalls.foldl (fun s x => s.holdAgain pid (12288 + x.1) x.2) s
  let s := z.holds.foldl (fun s x => (s.modSite (12288 + x.1) fun y => { y with hold := y.hold ++ x.2 }).releaseSite (12288 + x.1)) s
  let s := z.resends.foldl (fun s e => s.armIn 0 e) s
  let s := z.octets.foldl (fun s o => s.engineInbox o.1) s
  (s.armSwap pid).kickReader pid

/-- A loaded image declares a feature that is not enabled now (R31, R421). -/
def featuresMissing (p : Partition) (z : Saved) : Bool := z.cores.any fun q => q.2.feat &&& ~~~p.featmask != 0

/-- RESUME (R421): refused with FEATURES, status 5 (log entry 13). -/
def execResume (k : Command) (s : State) : Host.Outcome State Fault Refusal :=
  command 0x13 k (fun s =>
    let pid := (commandWord k 1).toNat
    match s.part pid with
    | none => s.respond k 4 0 []
    | some p => match p.saved with
      | none => s.respond k 4 0 []
      | some z =>
        if !s.rectFree p then s.respond k 4 0 []
        else if featuresMissing p z then s.respond k 5 0 []
        else ((s.respond k 0 0 []).restorePart pid p z).partEvent 0x13 pid) s

/-! ## BREAK (R219, R463) -/

/-- BRKHALT (R463): word 1 the partition, word 2 [0] the setting (log entry 13); status 3 for a confidential partition. -/
def execBrkhalt (k : Command) (s : State) : Host.Outcome State Fault Refusal :=
  command 0x14 k (fun s =>
    let pid := (commandWord k 1).toNat
    let on := (commandWord k 2).getLsbD 0
    match s.part pid with
    | none => s.respond k 4 0 []
    | some p =>
      if p.conf && on then s.respond k 3 0 []
      else (s.modPart pid fun p => { p with brkHalt := on }).respond k 0 0 []) s

/-- A BREAK that halts its partition: the pre-emption begins with the context before it, and Umber reports it. -/
def State.breakHalt (s : State) : Option State :=
  let c := s.fctx
  if s.fpart.brkHalt && c.brkPass != some c.pc then
    match s.beginPreempt (s.pidOf s.focusCore) 0 with
    | some t =>
      some ((t.modF fun c => { c with brkPass := some c.pc }).umberEvent
        [5, BitVec.ofNat 64 s.focusCore, BitVec.ofNat 64 s.focusCtx, c.pc])
    | none => none
  else none

/-- BREAK (R219, R463): traps, unless its partition halts on it; after the halt that one issues again and traps, also
where a DEADLINE is taken first (R406); another BREAK halts. -/
def execBrk (i : BitVec 6) (s : State) : Host.Outcome State Fault Refusal :=
  runInstr (do
    match (← get).breakHalt with
    | some t => set t
    | none => throw (.trapWith (fun s => s.modF fun c => { c with brkPass := none }) cBREAK (zext i))) s

end Sys2Proof.Machine
end

