-- ==== Sys2Proof/Machine/Endpoint.lean ====
section
/-! DEFINITION. The host's side of a partition (R446 to R455) and the start of the device (R464): host commands, remote
memory access, attestation and sessions, boot. -/

namespace Sys2Proof.Machine

/-! ## Host commands (R448) -/

/-- The endpoints of a partition take an operation: one that the device supports (R446), with EN 1 (R447), and for a
confidential partition under the session that is established (R452). -/
def Partition.accepts (p : Partition) (via : HostVia) : Bool :=
  via.supported && p.hostEn && (!p.conf || (via.session && p.session.isSome))

/-- An operation of a confidential partition's host whose packets fail authentication under its session (R455). -/
def Partition.discards (p : Partition) (via : HostVia) : Bool := p.conf && via.session && p.session.isSome && !via.authOk

/-- Such a packet is discarded and counted; UET recovers it as a lost one, so its operation comes again. -/
def State.discard (s : State) (pid : Nat) : State := s.modPart pid fun p => { p with authFails := p.authFails + 1 }

/-- Word i of a message as the host wrote it. -/
def rawWord (m : RawMsg) (i : Nat) : Word := m.words.getD i 0

/-- KIND of a message as the host wrote it. -/
def rawKind (m : RawMsg) : Nat := bits (rawWord m 0) 29 28

/-- DEST of a message as the host wrote it. -/
def rawDest (m : RawMsg) : Nat := bits (rawWord m 0) 15 0

/-- The endpoint's checks of a message. -/
def rawOk (module : Nat) (p : Partition) (m : RawMsg) : Bool :=
  let w := rawWord m 0
  let cls := bits (rawWord m 1) 63 56
  let kind := rawKind m
  bits w 31 30 == 0 && bits w 47 32 == 0 && bits w 27 16 == module && kind != 2
    && (kind != 0 || p.hasCore (rawDest m)) && (kind != 3 || rawDest m == 0)
    && (cls == 0x0E || 0x10 ≤ cls)

/-- The number of messages that pass, before the first that fails a check. -/
def passing (module : Nat) (p : Partition) : List RawMsg → Nat
  | [] => 0
  | m :: t => if rawOk module p m then passing module p t + 1 else 0

/-- A message as the endpoint of a port passes it in: its header names the proxy core, its SEQ is the endpoint's own; the rest
of its tag comes as it enters the mesh (R382). -/
def endpointMessage (module pid eth : Nat) (p : Partition) (seq : Nat) (m : RawMsg) : Message :=
  let proxy := p.hostCore.toNat
  { key := (rawWord m 0).extractLsb' 48 16, launch := 0, vn := 0, kind := rawKind m, module := module, dest := rawDest m
    cls := (rawWord m 1).extractLsb' 56 8, sy := coreY proxy, sx := coreX proxy, smod := module
    r := false, s := false, h := false, seq := seq, payload := (List.range 6).map fun i => rawWord m (2 + i)
    side := ⟨fold 0 (BitVec.ofNat 64 (2 ^ 62 + pid)), 0, false, eth + 1, 0, (module, outside), false, 0⟩ }

/-- The SEQ of an endpoint's next message. -/
def Partition.nextEp (p : Partition) (eth : Nat) : Nat := p.epSeq[eth % 4]'(Nat.mod_lt _ (by decide))

/-- The messages of a send that pass, each numbered by its endpoint, in the endpoint's queue behind those before them
(R438, R448). -/
def passAll (pid eth : Nat) : List RawMsg → State → State
  | [], s => s
  | r :: t, s =>
    match s.part pid with
    | none => s
    | some p =>
      let m := endpointMessage s.module pid eth p (p.nextEp eth) r
      let (id, s) := s.fresh
      let e : SqEntry := ⟨id, 0, m, [], [], if m.kind = 1 then some m.dest else none, (s.module, m.dest), .waiting, none⟩
      passAll pid eth t (s.modPart pid fun p =>
        { p with
          epSeq := p.epSeq.set (eth % 4) ((p.nextEp eth + 1) % 2 ^ 24) (Nat.mod_lt _ (by decide))
          epQ := p.epQ ++ [e] })

/-- The port by which the host last reached the partition (R449). -/
def State.reachedBy (s : State) (pid : Nat) (via : HostVia) : State := s.modPart pid fun p => { p with lastEth := via.eth % 4 }

/-- A host command: n messages of 8 words to the endpoint of a port (R446 to R448). -/
def State.hostCommand (s : State) (pid : Nat) (via : HostVia) (l : List RawMsg) : State :=
  match s.part pid with
  | none => s.hostSays (.sendDone pid (some 0))
  | some p =>
    if p.discards via then s.discard pid
    else if !p.accepts via || l.isEmpty || 64 < l.length then s.hostSays (.sendDone pid (some 0))
    else
      let eth := via.eth % 4
      let n := passing s.module p l
      let error := if n < l.length then some n else none
      let seqs := (List.range n).map fun i => (p.nextEp eth + i) % 2 ^ 24
      let s := s.reachedBy pid via
      if n = 0 then s.hostSays (.sendDone pid error)
      else
        let s := s.modPart pid fun p => { p with sends := p.sends ++ [⟨eth, seqs, error⟩] }
        (passAll pid eth (l.take n) s).pumpEndpoints pid

/-- HOST_COMMAND (R448). -/
def execHostCommand (pid : Nat) (via : HostVia) (l : List RawMsg) (s : State) : Host.Outcome State Fault Refusal :=
  change (fun s => s.hostCommand pid via l) s

/-! ## Remote memory access (R450, R451) -/

/-- The window that an RMA key names, if the operation, the key, the window and the range pass their checks: its base. A
poisoned word of the window's fails them (log entry 34). -/
def State.rmaWindow (s : State) (pid : Nat) (via : HostVia) (key : Word) (off n : Nat) (write : Bool) : Option Nat :=
  match s.part pid with
  | none => none
  | some p =>
    let w := bits key 27 16
    let entry := p.rmaBase.toNat * 65536 + 16 * w
    let base := s.settle entry
    let v := s.word (s.settle (entry + 8))
    if p.accepts via && bits key 63 28 == 0 && bits key 15 0 == p.key.toNat && w < p.rmaN.toNat && rangeOk entry 16
        && !s.poisoned base && !s.poisoned (s.settle (entry + 8))
        && v.getLsbD 63 && bits v 60 48 == 0 && v.getLsbD (if write then 61 else 62) && off + n ≤ bits v 47 0 then
      some (s.word base).toNat
    else none

/-- A host's access begins, if it passes its checks: left holds the words to write, or one word for each to read. -/
def State.rmaBegin (s : State) (pid : Nat) (via : HostVia) (key : Word) (off : Nat) (left : List Word) (write : Bool) : State :=
  let has (f : Partition → HostVia → Bool) : Bool := match s.part pid with | some p => f p via | none => false
  if has Partition.discards then s.discard pid
  else
    let t := if has Partition.accepts then s.reachedBy pid via else s
    match s.rmaWindow pid via key off (8 * left.length) write with
    | some base => t.rmaNext ⟨0, pid, write, base, off, left, []⟩
    | none => t.hostSays (.rmaDone pid (some off) [])

/-- RMA_WRITE (R451): checked, then its words performed in ascending order; none is performed where a check fails. -/
def execRmaWrite (pid : Nat) (key : RmaKey) (off : Nat) (data : List Word) (s : State) : Host.Outcome State Fault Refusal :=
  change (fun s => s.rmaBegin pid key.via key.key off data true) s

/-- RMA_READ (R451). -/
def execRmaRead (pid : Nat) (key : RmaKey) (off words : Nat) (s : State) : Host.Outcome State Fault Refusal :=
  change (fun s => s.rmaBegin pid key.via key.key off (List.replicate words 0) false) s

/-! ## Attestation and sessions (R453 to R455) -/

/-- A number as n bytes, the lowest first (R7). -/
def numBytes (v : Nat) : Nat → List Byte
  | 0 => []
  | n + 1 => BitVec.ofNat 8 v :: numBytes (v / 256) n

/-- The bytes of a report before its signature (R454). -/
def reportBody (module pid : Nat) (p : Partition) (f : BitVec 256) (nonce : List Byte) (n : Nat) : List Byte :=
  numBytes 1 4 ++ numBytes module 2 ++ numBytes pid 1 ++ numBytes p.conf.toNat 1 ++ wordBytes Config.serialNumber
    ++ nonce ++ hashBytes f ++ hashBytes p.measG ++ hashBytes p.measM ++ (Config.mlkemKey n).toList

/-- ATTEST (R454): word 1 the partition, words 2 to 5 the nonce (log entry 13); every report has a new key. -/
def execAttest (k : Command) (s : State) : Host.Outcome State Fault Refusal :=
  command 0x20 k (fun s =>
    let pid := (commandWord k 1).toNat
    match s.part pid with
    | none => s.respond k 4 0 []
    | some p =>
      let nonce := ((List.range 4).map fun i => commandWord k (2 + i)).flatMap wordBytes
      let body := reportBody s.module pid p s.measF nonce s.reports
      let report := body ++ (Config.mldsaSign body).toList
      let s := s.modPart pid fun p => { p with report := some (s.reports, Config.sha3 report) }
      (({ s with reports := s.reports + 1 } : State).respond k 0 0 []).hostSays (.report report)) s

/-- IDKEY (R454): the device's public identity key. -/
def execIdkey (k : Command) (s : State) : Host.Outcome State Fault Refusal :=
  command 0x21 k (fun s => (s.respond k 0 0 []).hostSays (.report Config.identityKey)) s

/-- SESSION_START (R455): the keys towards the device and towards the host, from a ciphertext for the key of the latest
report. -/
def execSessionStart (pid : Nat) (ct : List Byte) (s : State) : Host.Outcome State Fault Refusal :=
  change (fun s =>
    match s.part pid with
    | none => s
    | some p => match p.report with
      | none => s
      | some (n, h) =>
        if ct.length ≠ 1088 then s
        else
          let secret := hashBytes (Config.mlkemSecret n ct) ++ hashBytes h
          s.modPart pid fun p => { p with session := some (Config.sha3 (secret ++ [1]), Config.sha3 (secret ++ [2])) }) s

/-! ## Boot (R358, R464) -/

/-- The first image, among what ports 0 to 3 fetched, that verifies and is not rolled back. -/
def bootImage : List (Option (Nat × List Byte)) → Option (List Byte)
  | [] => none
  | some (v, b) :: t => if Config.rollback ≤ v ∧ Config.mldsaVerify b = true then some b else bootImage t
  | none :: t => bootImage t

/-- The device as power-on leaves it at a wall time: its clocks start from 0 (R357); its place among the modules, the
schedule, the number of keys it has made and what has left it stay. -/
def State.powerOn (s : State) (wallNs : Nat) : State :=
  { State.reset with
    module := s.module, turns := s.turns, serial := s.serial, freeCount := s.freeCount, reports := s.reports
    wallUnits := wallNs * unitsPerNs, commonOctet := { Octet.reset with winIdx := wallNs / 256 }
    hostOut := s.hostOut, fabOut := s.fabOut, fabAcks := s.fabAcks }

/-- COLD_BOOT (R464): the image that verifies is run: F is its hash, wall is set, Umber starts. If none does, the device
halts and sends boot-failure frames. -/
def execColdBoot (wallNs : Nat) (image : List (Option (Nat × List Byte))) (s : State) : Host.Outcome State Fault Refusal :=
  change (fun s =>
    let s := s.powerOn wallNs
    match bootImage (image.take 4) with
    | some b => { s with boot := .running, measF := Config.sha3 b }
    | none => ({ s with boot := .failed } : State).armIn 1000000000 .bootFailureFrame) s

/-- BOOT_FAILURE_FRAME (R464): a frame on port 0, every second. -/
def execBootFailureFrame (s : State) : Host.Outcome State Fault Refusal :=
  change (fun s => if s.boot = .failed then (s.hostSays .bootFailure).armIn 1000000000 .bootFailureFrame else s) s

end Sys2Proof.Machine
end

