-- ==== Sys2Proof/Machine/Fabric.lean ====
section
/-! DEFINITION. Prosan (R436 to R444, R456): what comes in from other modules, end-to-end delivery, the ports. -/

namespace Sys2Proof.Machine

/-! ## What a packet brings (R436) -/

/-- The reply to a request of the own module: of an AMO, or of a load or full/empty operation. -/
def State.replyEvent (s : State) (r : Reply) : Event :=
  match (splitPend r.who.id (s.ctx r.who.core r.who.ctx).pend).2 with
  | some p => if p.isAmo && r.who.ctx < 8 then .amoReply r else .loadReply r
  | none => .loadReply r

/-- A request that has come from another module's core, towards its home: it carries no partition of this module. -/
def State.requestIn (s : State) (src key : Nat) (e : Event) : State := s.fly (fabPlace src) (homePlace key) 0 e

/-- What an accepted packet of a module does on this one. -/
def State.deliver (s : State) (src : Nat) : Cargo → State
  | .msg core m => s.sendMessage (fabPlace src) (s.keyPid m.key) s.module core m
  | .load r => s.requestIn src r.key (.remoteLoad { r with pid := 64 })
  | .store r => s.requestIn src (storeKey r.op) (.remoteStore { r with pid := 64, launch := 0 })
  | .fe r => s.requestIn src r.key (.fullEmptyRequest { r with pid := 64, launch := 0 })
  | .feCancel r => s.requestIn src r.key (.fullEmptyCancel { r with pid := 64, launch := 0 })
  | .amo r => s.requestIn src r.key (.amoRequest { r with pid := 64, launch := 0 })
  | .reply r => s.fly (fabPlace src) r.who.core 1 (s.replyEvent r)
  | .ack core id => s.fly (fabPlace src) core 1 (.storeAcknowledgement core id)
  | .split octet idx a => s.fly (fabPlace src) (octetPlace octet) 1 (.decombineSplit octet idx a)
  | .deposit d => s.fly (fabPlace src) d.dstCore 2 (.deposit d)
  | .delivery d => s.fly (fabPlace src) d.dstCore 2 (.multicastDelivery d)
  | .partialRed p => s.fly (fabPlace src) p.dstCore 2 (.reducePartial p)
  | .result p => s.fly (fabPlace src) p.dstCore 2 (.reduceResult p)
  | .engAck _ core op => s.fly (fabPlace src) core 1 (.engineAcknowledgement core op)
  | .depositBack d => s.armIn 1000 (.depositResend d)
  | .partialBack p => s.armIn 1000 (.partialResend p)
  | .arrival key group core =>
    match s.part (s.keyPid key) with
    | some p =>
      s.fly (fabPlace src) (portPlace (portOf (p.groupKey group))) 0 (.barrierArrival (s.keyPid key) group core)
    | none => s
  | .release _ key core group bgen => s.fly (fabPlace src) core 1 (.barrierRelease core ⟨s.keyPid key, group⟩ bgen)
  | .refusal _ m noName => s.refusedHere (fabPlace src) m noName
  | .withdrawal _ core m => s.withdraw (fabPlace src) (s.keyPid m.key) m (s.module, core)
  | .accepted m => s.accepted m
  | .correction octet name module core =>
    s.fly (fabPlace src) (octetPlace octet) 3 (.locatorCorrection octet name module core)
  | .line _ port slot key words => (s.landLine (s.settle key) words).toModule src 1 (.lineDone port slot)
  | .lineDone port slot => s.lineArrived port slot
  | .moveReq r => s.moveAsked r
  | .moveStatus r status => s.moveAnswered src r status
  | .pteSwitch _ key old new => s.swapPte key old new
  | .moveEnd pid va frame => s.moveEnded src pid va frame

/-! ## End-to-end delivery (R442) -/

/-- A packet acknowledged to its source. -/
def State.fabAck (s : State) (p : Packet) : State := { s with fabAcks := s.fabAcks ++ [(p.src, p.vn, p.num)] }

/-- A packet at the fabric port (R442): accepted in sequence, acknowledged again where it is a duplicate, else discarded. -/
def State.fabricIn (s : State) (p : Packet) : State :=
  if p.dst ≠ s.module then s
  else
    let q := findPair p.src p.vn s.fabric
    if p.num = q.expect then
      (({ s with fabric := setPair { q with expect := (q.expect + 1) % 2 ^ 32 } s.fabric } : State).deliver p.src p.cargo).fabAck p
    else if (q.expect + 2 ^ 32 - p.num % 2 ^ 32) % 2 ^ 32 ≤ 2 ^ 31 then s.fabAck p
    else s

/-- FABRIC_MESSAGE_RECEIVE (R442). -/
def execFabricMessageReceive (p : Packet) (s : State) : Host.Outcome State Fault Refusal := change (fun s => s.fabricIn p) s

/-- FABRIC_ACKNOWLEDGEMENT (R442): the source keeps the message no longer. -/
def execFabricAcknowledgement (module vn num : Nat) (s : State) : Host.Outcome State Fault Refusal :=
  change (fun s =>
    let q := findPair module vn s.fabric
    { s with fabric := setPair { q with unacked := q.unacked.filter fun u => u.packet.num != num } s.fabric }) s

/-- The partition that a packet was sent for; 64 for the hardware's own answers to another module's accesses. -/
def State.cargoPid (s : State) : Cargo → Nat
  | .msg _ m | .refusal _ m _ | .accepted m => s.keyPid m.key
  | .load r => r.pid
  | .store r => r.pid
  | .fe r | .feCancel r => r.pid
  | .amo r => r.pid
  | .deposit d | .depositBack d => s.keyPid d.key
  | .delivery d => s.keyPid d.key
  | .partialRed p | .result p | .partialBack p => s.keyPid p.key
  | .arrival key _ _ => s.keyPid key
  | .engAck pid _ _ | .release pid _ _ _ _ | .withdrawal pid _ _ | .pteSwitch pid _ _ _ | .moveEnd pid _ _ => pid
  | .moveReq r => r.pid
  | .line pid _ _ _ _ => pid
  | .reply _ | .ack _ _ | .split _ _ _ | .correction _ _ _ _ | .lineDone _ _ | .moveStatus _ _ => 64

/-- A message that is dropped leaves its slot (R316). -/
def State.dropCargo (s : State) : Cargo → State
  | .msg _ m => s.accepted m
  | _ => s

/-- A module that 16 transmissions have not reached (R442): what is held for it is dropped, the supervisors, Umber and the
host are told. -/
def State.unreachable (s : State) (module vn : Nat) (l : List Unacked) : State :=
  let q := findPair module vn s.fabric
  let s : State := { s with fabric := setPair { q with unacked := [] } s.fabric }
  let count (pid : Nat) : Nat := (l.filter fun u => s.cargoPid u.packet.cargo == pid).length
  let s := s.parts.foldl (fun t q =>
    if count q.1 = 0 then t
    else
      let core := q.2.coreOf 0
      t.notice q.1 (octetOf core) 10 core [BitVec.ofNat 64 module, BitVec.ofNat 64 vn, BitVec.ofNat 64 (count q.1)]) s
  let s := l.foldl (fun s u => s.dropCargo u.packet.cargo) s
  s.machineCheck.umberEvent [3, BitVec.ofNat 64 module, BitVec.ofNat 64 vn]

/-- FABRIC_RETRANSMIT (R442): 10 wall µs after the last transmission of the oldest message of a triple, all of them are
sent again, in order; after 16 transmissions they are dropped. -/
def execFabricRetransmit (module vn : Nat) (s : State) : Host.Outcome State Fault Refusal :=
  change (fun s =>
    let q := findPair module vn s.fabric
    match q.unacked with
    | [] => s
    | u :: _ =>
      let due := u.last + 10000 * unitsPerNs
      if s.wallUnits < due then s.arm due (.fabricRetransmit module vn)
      else if 16 ≤ u.tries then s.unreachable module vn q.unacked
      else
        let l := q.unacked.map fun u => { u with last := s.wallUnits, tries := u.tries + 1 }
        ({ s with
            fabric := setPair { q with unacked := l } s.fabric
            fabOut := s.fabOut ++ l.map fun u => (s.routeOf module, u.packet) } : State).armIn 10000 (.fabricRetransmit module vn)) s

/-! ## The ports (R439 to R441, R443, R456) -/

/-- A fabric port. -/
def State.fabPort (s : State) (p : Nat) : FabPort := s.fabPorts[p % 8]'(Nat.mod_lt _ (by decide))

/-- A fabric port changed. -/
def State.modFab (s : State) (p : Nat) (f : FabPort → FabPort) : State :=
  { s with fabPorts := s.fabPorts.set (p % 8) (f (s.fabPort p)) (Nat.mod_lt _ (by decide)) }

/-- A count that saturates at 0xFFFF. -/
def saturate (v : BitVec 16) (n : Nat) : BitVec 16 := BitVec.ofNat 16 (Nat.min 0xFFFF (v.toNat + n))

/-- The flits that a link carries under one pair of keys (R456). -/
def keyFlits : Nat := 2 ^ 32

/-- PROSAN_FLIT_RECEIVE (R439, R443, R456): a flit that FEC cannot correct, or that fails its CRC or its authentication, is
retried, and so is one that comes when its keys are used up and not yet renewed (DEDUCED: log entry 8); stomped packets are
discarded; the packets of a good one are received in order. -/
def execProsanFlitReceive (port : Nat) (f : Flit) (s : State) : Host.Outcome State Fault Refusal :=
  change (fun s =>
    if 8 ≤ port ∨ (s.fabPort port).mode = 0 then s
    else if !f.correctable || !f.crcOk || !f.authOk || keyFlits ≤ (s.fabPort port).flits then
      s.modFab port fun p => { p with retry := saturate p.retry 1 }
    else
      let s := s.modFab port fun p => { p with flits := p.flits + 1 }
      if f.stomped then s.modFab port fun p => { p with stomp := saturate p.stomp f.packets.length }
      else f.packets.foldl State.fabricIn s) s

/-- A change of a port's MODE or LANES, reported (R441, R458). -/
def State.portEvent (s : State) (port : Nat) : State :=
  let p := s.fabPort port
  s.umberEvent [2, BitVec.ofNat 64 port, zext p.mode, zext p.lanes]

/-- The lowest port that is up. -/
def State.portUp (s : State) : Option Nat := (List.range 8).find? fun i => (s.fabPort i).mode != 0

/-- The modules that a port leads to. -/
def State.ledBy (s : State) (port : Nat) : List Nat := (List.range 4096).filter fun m => s.routeOf m == port

/-- The firmware moves the routes of a port that has gone down to another one (R440): the lowest that is up (DESIGN CHOICE:
log entry 8); with none up they stay. -/
def State.moveRoutes (s : State) (port : Nat) : State :=
  match s.portUp with
  | none => s
  | some i => { s with routes := (s.ledBy port).foldl (fun t m => mapSet t m i) s.routes }

/-- LINK_DEGRADE (R440): PAM4 to NRZ, 8 lanes to 4, then down, with the port's routes moved. -/
def execLinkDegrade (port : Nat) (s : State) : Host.Outcome State Fault Refusal :=
  change (fun s =>
    let p := s.fabPort port
    if 8 ≤ port ∨ p.mode = 0 then s
    else if p.mode = 2 then (s.modFab port fun p => { p with mode := 1 }).portEvent port
    else if p.lanes = 8 then (s.modFab port fun p => { p with lanes := 4 }).portEvent port
    else ((s.modFab port fun p => { p with mode := 0, lanes := 0, peer := 0 }).moveRoutes port).portEvent port) s

/-- New keys for a port's link: no flit has been received under them. -/
def FabPort.rekey (p : FabPort) : FabPort := { p with keys := p.keys + 1, flits := 0 }

/-- LINK_TRAINING (R441, R456): a port has trained with a partner, at 8 lanes of PAM4, and the ends have agreed keys. -/
def execLinkTraining (port peer : Nat) (s : State) : Host.Outcome State Fault Refusal :=
  change (fun s =>
    if 8 ≤ port then s
    else (s.modFab port fun p => { p.rekey with mode := 2, lanes := 8, peer := BitVec.ofNat 12 peer }).portEvent port) s

/-- LINK_KEY_RENEWAL (R456): after 2^32 flits the ends of a link agree new keys. -/
def execLinkKeyRenewal (port : Nat) (s : State) : Host.Outcome State Fault Refusal :=
  change (fun s =>
    if 8 ≤ port ∨ (s.fabPort port).mode = 0 ∨ (s.fabPort port).flits < keyFlits then s else s.modFab port FabPort.rekey) s

end Sys2Proof.Machine
end

