-- ==== Sys2Proof/Machine/Float.lean ====
section
/-! DEFINITION. Scalar floating point (R247 to R256): operands unboxed from x registers, one exact operation, one
rounding, flags accrued. -/

namespace Sys2Proof.Machine

/-- The format of an FP or FMA instruction (R41). -/
def ffmt : FFmt → Fmt
  | .s => fmtS | .d => fmtD | .h => fmtH

/-- A register's value unboxed (R251): anything not boxed reads as the canonical NaN. -/
def unbox (f : Fmt) (v : Word) : Nat :=
  if f.width = 64 then v.toNat
  else if v.toNat / 2 ^ f.width = 2 ^ (64 - f.width) - 1 then v.toNat % 2 ^ f.width
  else f.nan

/-- A result boxed: every bit above it one (R251). -/
def box (f : Fmt) (b : Nat) : Word := BitVec.ofNat 64 ((2 ^ 64 - 2 ^ f.width) + b % 2 ^ f.width)

/-- The rounding mode a field selects (R41, R250). -/
def rmOf (r : Rm) (frm : BitVec 3) : RMode :=
  match r with
  | .rne => .rne | .rtz => .rtz | .rdn => .rdn | .rup => .rup | .rmm => .rmm | .dyn => frmMode frm

/-- Exceptions ORed into the context's flags (R250). -/
def accrue (e : Exc) : M Unit := modF fun c => { c with fflags := c.fflags ||| e }

/-- The rounding mode of the context, by a field. -/
def modeOf (r : Rm) : M RMode := do return rmOf r (← fctx).frm

/-- A float operation of two operands with a float result (R252). -/
def fOp2 (i : Instr) (f : FFmt) (d a b : Reg) (op : Fmt → RMode → Nat → Nat → Nat × Exc) (r : Rm) : M Unit := do
  needs .fp i
  let m ← modeOf r
  let x ← readX a
  let y ← readX b
  let q := op (ffmt f) m (unbox (ffmt f) x) (unbox (ffmt f) y)
  accrue q.2
  writeX d (box (ffmt f) q.1)

/-- A float operation of one operand with a float result (R252). -/
def fOp1 (i : Instr) (f : FFmt) (d a : Reg) (op : Fmt → RMode → Nat → Nat × Exc) (r : Rm) : M Unit := do
  needs .fp i
  let m ← modeOf r
  let x ← readX a
  let q := op (ffmt f) m (unbox (ffmt f) x)
  accrue q.2
  writeX d (box (ffmt f) q.1)

/-- A float comparison, its result unboxed (R252). -/
def fCmp (i : Instr) (f : FFmt) (d a b : Reg) (op : Fmt → Nat → Nat → Bool × Exc) : M Unit := do
  needs .fp i
  let x ← readX a
  let y ← readX b
  let q := op (ffmt f) (unbox (ffmt f) x) (unbox (ffmt f) y)
  accrue q.2
  writeX d (ofBool q.1)

/-- FADD (R252). -/
def execFadd (f : FFmt) (r : Rm) (d a b : Reg) (s : State) : Host.Outcome State Fault Refusal :=
  seq4 (fOp2 (.fadd f r d a b) f d a b fAdd r) s
/-- FSUB (R252). -/
def execFsub (f : FFmt) (r : Rm) (d a b : Reg) (s : State) : Host.Outcome State Fault Refusal :=
  seq4 (fOp2 (.fsub f r d a b) f d a b fSub r) s
/-- FMUL (R252). -/
def execFmul (f : FFmt) (r : Rm) (d a b : Reg) (s : State) : Host.Outcome State Fault Refusal :=
  seq4 (fOp2 (.fmul f r d a b) f d a b fMul r) s
/-- FDIV (R252). -/
def execFdiv (f : FFmt) (r : Rm) (d a b : Reg) (s : State) : Host.Outcome State Fault Refusal :=
  seq4 (fOp2 (.fdiv f r d a b) f d a b fDiv r) s
/-- FSQRT (R252). -/
def execFsqrt (f : FFmt) (r : Rm) (d a : Reg) (s : State) : Host.Outcome State Fault Refusal :=
  seq4 (fOp1 (.fsqrt f r d a) f d a fSqrt r) s
/-- FMIN (R252). -/
def execFmin (f : FFmt) (d a b : Reg) (s : State) : Host.Outcome State Fault Refusal :=
  seq4 (fOp2 (.fmin f d a b) f d a b (fun f _ x y => fMin f x y) .rne) s
/-- FMAX (R252). -/
def execFmax (f : FFmt) (d a b : Reg) (s : State) : Host.Outcome State Fault Refusal :=
  seq4 (fOp2 (.fmax f d a b) f d a b (fun f _ x y => fMax f x y) .rne) s
/-- FSGCPY (R252). -/
def execFsgcpy (f : FFmt) (d a b : Reg) (s : State) : Host.Outcome State Fault Refusal :=
  seq4 (fOp2 (.fsgcpy f d a b) f d a b (fun f _ x y => (f.withSign x (f.signBit y), 0)) .rne) s
/-- FSGNEG (R252). -/
def execFsgneg (f : FFmt) (d a b : Reg) (s : State) : Host.Outcome State Fault Refusal :=
  seq4 (fOp2 (.fsgneg f d a b) f d a b (fun f _ x y => (f.withSign x (!f.signBit y), 0)) .rne) s
/-- FSGXOR (R252). -/
def execFsgxor (f : FFmt) (d a b : Reg) (s : State) : Host.Outcome State Fault Refusal :=
  seq4 (fOp2 (.fsgxor f d a b) f d a b (fun f _ x y => (f.withSign x (f.signBit x ^^ f.signBit y), 0)) .rne) s
/-- FEQ (R252). -/
def execFeq (f : FFmt) (d a b : Reg) (s : State) : Host.Outcome State Fault Refusal :=
  seq4 (fCmp (.feq f d a b) f d a b fEq) s
/-- FLT (R252). -/
def execFlt (f : FFmt) (d a b : Reg) (s : State) : Host.Outcome State Fault Refusal :=
  seq4 (fCmp (.flt f d a b) f d a b fLt) s
/-- FLE (R252). -/
def execFle (f : FFmt) (d a b : Reg) (s : State) : Host.Outcome State Fault Refusal :=
  seq4 (fCmp (.fle f d a b) f d a b fLe) s
/-- FCLASS (R252). -/
def execFclass (f : FFmt) (d a : Reg) (s : State) : Host.Outcome State Fault Refusal :=
  seq4 (do
    needs .fp (.fclass f d a)
    let x ← readX a
    writeX d (BitVec.ofNat 64 (fClass (ffmt f) (unbox (ffmt f) x)))) s
/-- FRCPE (R255). -/
def execFrcpe (f : FFmt) (d a : Reg) (s : State) : Host.Outcome State Fault Refusal :=
  seq4 (fOp1 (.frcpe f d a) f d a (fun f _ x => fRcpe f x) .rne) s
/-- FRSQE (R256). -/
def execFrsqe (f : FFmt) (d a : Reg) (s : State) : Host.Outcome State Fault Refusal :=
  seq4 (fOp1 (.frsqe f d a) f d a (fun f _ x => fRsqe f x) .rne) s

/-- The fused forms: np negates the product, nc the addend (R253). -/
def fmaOp (i : Instr) (f : FFmt) (np nc : Bool) (d a b c : Reg) : M Unit := do
  needs .fp i
  let m ← modeOf .dyn
  let x ← readX a
  let y ← readX b
  let z ← readX c
  let g := ffmt f
  let q := fFma g m np nc (unbox g x) (unbox g y) (unbox g z)
  accrue q.2
  writeX d (box g q.1)

/-- FMA (R253). -/
def execFma (f : FFmt) (d a b c : Reg) (s : State) : Host.Outcome State Fault Refusal :=
  seq4 (fmaOp (.fma f d a b c) f false false d a b c) s
/-- FMS (R253). -/
def execFms (f : FFmt) (d a b c : Reg) (s : State) : Host.Outcome State Fault Refusal :=
  seq4 (fmaOp (.fms f d a b c) f false true d a b c) s
/-- FNMA (R253). -/
def execFnma (f : FFmt) (d a b c : Reg) (s : State) : Host.Outcome State Fault Refusal :=
  seq4 (fmaOp (.fnma f d a b c) f true false d a b c) s
/-- FNMS (R253). -/
def execFnms (f : FFmt) (d a b c : Reg) (s : State) : Host.Outcome State Fault Refusal :=
  seq4 (fmaOp (.fnms f d a b c) f true true d a b c) s

/-! ## FCVT (R254) -/

/-- The format of a float type of FCVT. -/
def cvtFmt : CvtTy → Fmt
  | .s => fmtS | .d => fmtD | .h => fmtH | .bf => fmtBf

/-- The bounds of an integer type. -/
def intBounds : IntTy → Int × Int
  | .w => (-(2 ^ 31), 2 ^ 31 - 1)
  | .wu => (0, 2 ^ 32 - 1)
  | .l => (-(2 ^ 63), 2 ^ 63 - 1)
  | .lu => (0, 2 ^ 64 - 1)

/-- The integer that a source register holds in a type (R251). -/
def intSource (t : IntTy) (v : Word) : Int :=
  match t with
  | .w => (low32 v).toInt
  | .wu => (low32 v).toNat
  | .l => v.toInt
  | .lu => v.toNat

/-- FCVT.I (R254): an in-range 32-bit result is extended by its sign, or by zero, as the integer itself is. -/
def execFcvtI (r : Rm) (t : CvtTy) (i : IntTy) (d a : Reg) (s : State) : Host.Outcome State Fault Refusal :=
  seq4 (do
    needs .fp (.fcvtI r t i d a)
    let m ← modeOf r
    let x ← readX a
    let q := ((cvtFmt t).val (unbox (cvtFmt t) x)).toInt m (intBounds i).1 (intBounds i).2
    accrue q.2
    writeX d (BitVec.ofInt 64 q.1)) s

/-- FCVT.F (R254). -/
def execFcvtF (r : Rm) (i : IntTy) (t : CvtTy) (d a : Reg) (s : State) : Host.Outcome State Fault Refusal :=
  seq4 (do
    needs .fp (.fcvtF r i t d a)
    let m ← modeOf r
    let x ← readX a
    let q := (intVal (intSource i x)).to (cvtFmt t) m
    accrue q.2
    writeX d (box (cvtFmt t) q.1)) s

/-- FCVT.FF (R254). -/
def execFcvtFf (r : Rm) (t u : CvtTy) (d a : Reg) (s : State) : Host.Outcome State Fault Refusal :=
  seq4 (do
    needs .fp (.fcvtFf r t u d a)
    let m ← modeOf r
    let x ← readX a
    let q := fConv (cvtFmt t) (cvtFmt u) m (unbox (cvtFmt t) x)
    accrue q.2
    writeX d (box (cvtFmt u) q.1)) s

end Sys2Proof.Machine
end

