-- ==== Sys2Proof/Machine/Router.lean ====
section
/-! DEFINITION. Combining in the routers (R101 to R106): the merge of two waiting requests and the split of the reply. -/

namespace Sys2Proof.Machine

/-- What a router sees of a request that may combine (R101, R102). -/
structure Mergeable where
  reply : ReplyTo
  src : Nat
  pkey : BitVec 16
  module : Nat
  key : Nat
  w32 : Bool
  op : AmoOp
  b : Word
  red : Bool
  deriving DecidableEq, Repr

/-- The combinable request an event carries, if it does (R101). -/
def mergeable : Event → Option Mergeable
  | .amoRequest r =>
    if r.combinable then some ⟨r.reply, r.src, r.pkey, r.module, r.key, r.w32, r.op, r.b, false⟩ else none
  | .remoteStore r =>
    match r.op with
    | .red key w op v =>
      if r.combinable then some ⟨r.reply, r.src, r.pkey, r.module, key, w == 4, op, v, true⟩ else none
    | _ => none
  | _ => none

/-- Two requests that R102 lets merge. -/
def Mergeable.matches (f l : Mergeable) : Bool :=
  f.pkey == l.pkey && f.module == l.module && f.key == l.key && f.w32 == l.w32 && f.op == l.op && f.red == l.red

/-- F's event carrying the merged operand and answering a record (R102). -/
def merged (reply : ReplyTo) (b : Word) : Event → Event
  | .amoRequest r => .amoRequest { r with reply := reply, b := b }
  | .remoteStore r =>
    match r.op with
    | .red key w op _ => .remoteStore { r with reply := reply, op := .red key w op b }
    | _ => .remoteStore r
  | e => e

/-- The lowest record number that is not in use, of 32 (R103). -/
def freeRecord (l : List (Nat × Record)) : Option Nat :=
  (List.range 32).find? fun i => l.all fun r => r.1 != i

/-- What of a request's path lies before it: from its source, or past the router of its last merge (R103). -/
def State.pathAhead (s : State) (f : Flight) (r : ReplyTo) : List (Nat × Nat) :=
  match r with
  | .ctx _ => s.flightPath f
  | .record m o _ => if m = s.module then (path o (s.router f.dst)).tail else s.flightPath f

/-- A flight passes a router by an output port. -/
def State.passes (s : State) (octet port : Nat) (f : Flight) : Bool := (s.flightPath f).contains (octet, port)

/-- The i-th flight F and the j-th flight L, which arrives later, wait in one output queue of an octet's router: they merge
if R102 allows it, else nothing happens. The merged request takes F's place and is of L's sources too. -/
def State.combine (s : State) (i j octet : Nat) : State :=
  match s.flights[i]?, s.flights[j]? with
  | some f, some l =>
    match mergeable f.ev, mergeable l.ev, freeRecord (s.octet octet).records with
    | some a, some b, some n =>
      let queues := ((s.pathAhead f a.reply).filter fun q => q.1 == octet).filter (s.pathAhead l b.reply).contains
      let between := (s.flights.take (Nat.max i j)).drop (Nat.min i j + 1)
      match queues with
      | (_, port) :: _ =>
        if i != j && f.vn == 0 && l.vn == 0 && !f.held && !l.held && f.dst == l.dst && a.matches b
            && between.all (fun g => !(g.vn == 0 && g.sources.any l.sources.contains
              && (g.dst == l.dst || s.passes octet port g))) then
          let m := amoNew a.op a.w32 a.b b.b 0
          let f' := { f with ev := merged (.record s.module octet n) m f.ev, also := f.also ++ l.sources }
          let flights := (s.flights.set i f').eraseIdx j
          let s := s.modOctet octet fun o =>
            { o with records := o.records ++ [(n, ⟨a.reply, b.reply, a.op, a.w32, a.b, a.red, false⟩)] }
          { s with flights := flights }.count octet 7 1
        else s
      | [] => s
    | _, _, _ => s
  | _, _ => s

/-- A result sent towards a requester of a merge (R103). -/
def State.answerMerge (s : State) (octet : Nat) (red : Bool) (v : Answer) (r : ReplyTo) : State :=
  if red then s.replyStore (octetPlace octet) r else s.replyAmo (octetPlace octet) r v

/-- What L receives of the merged request's value (R102). -/
def Record.second (r : Record) (v : Answer) : Answer :=
  match v with
  | .value x => .value (amoNew r.op r.w32 x r.a 0)
  | a => a

/-- DECOMBINE_SPLIT (R103): the record freed, v to F, v op a to L; a lost record drops the reply and logs a machine check
with the router and the record's index, which Umber hears of (R106, R458). -/
def execDecombineSplit (octet idx : Nat) (v : Answer) (s : State) : Host.Outcome State Fault Refusal :=
  change (fun s =>
    match mapFind (s.octet octet).records idx with
    | none => s.machineCheckOf [octet, idx]
    | some r =>
      let s := s.modOctet octet fun o => { o with records := o.records.filter fun p => p.1 != idx }
      if r.lost then s.machineCheckOf [octet, idx]
      else (s.answerMerge octet r.red v r.f).answerMerge octet r.red (r.second v) r.l) s

end Sys2Proof.Machine
end

