-- ==== Sys2Proof/Machine/Stream.lean ====
section
/-! DEFINITION. Stream registers: descriptors, SBIND, SUNB, QCNT and the stream port (R145 to R149). -/

namespace Sys2Proof.Machine

/-! ## Descriptors (R145, R149) -/

/-- A dimension of a descriptor: stride and count. -/
def streamDim (w : Word) : Int × Nat := ((BitVec.ofNat 32 (bits w 63 32)).toInt, bits w 15 0)

/-- The stream a descriptor's eight words describe, for an x or a v register; none where its contents are invalid. -/
def streamOf (vec : Bool) (l : List Word) : Option Stream :=
  let h := l.getD 0 0
  let nd := bits h 20 19 + 1
  let size := if vec then 64 else 2 ^ bits h 17 16
  let align : Nat := if vec then 8 else size
  let base := bits h 15 0
  let ds := (l.drop 1).take nd
  if bits h 63 21 ≠ 0 ∨ (vec = true ∧ bits h 18 16 ≠ 0) ∨ ds.any (fun w => bits w 31 16 != 0) = true
      ∨ (l.drop (1 + nd)).any (fun w => w != 0) = true ∨ ds.any (fun w => bits w 15 0 == 0) = true
      ∨ base % align ≠ 0 ∨ ds.any (fun w => (streamDim w).1 % (align : Int) != 0) = true then none
  else some ⟨vec, size, h.getLsbD 18, base, ds.map streamDim, 0, []⟩

/-! ## The instructions -/

/-- SBIND's effect on a slot, whose register's ordinary value becomes 0 (R149). -/
def bindStream (i : Instr) (vec : Bool) (slot : Fin 6) (a : Reg) (zero : Ctx → Ctx) : M Unit := do
  needs .cpy i
  let v ← readX a
  match ownAligned v 64 with
  | none => trap cENGARG 11
  | some o =>
    noAmo
    fenced [0]
    match streamOf vec (← readOwn o 8) with
    | none => trap cENGARG 12
    | some t =>
      modF fun c => zero (c.setStream slot (some t))
      modify fun s => s.kickStream s.focusCore s.focusCtx slot.val

/-- The x register of field q (R48): x28 to x31. -/
def xStreamReg (q : BitVec 2) : Reg := 28 + q.zeroExtend 5

/-- Its slot. -/
def xStreamSlot (q : BitVec 2) : Fin 6 := ⟨q.toNat, Nat.lt_trans q.isLt (by decide)⟩

/-- The v register of field q: v6 or v7. -/
def vStreamReg (q : BitVec 1) : VReg := 6 + q.zeroExtend 3

/-- Its slot. -/
def vStreamSlot (q : BitVec 1) : Fin 6 := ⟨4 + q.toNat, by have := q.isLt; omega⟩

/-- An x register's ordinary value set to 0, its marks and outstanding results gone. -/
def Ctx.zeroX (c : Ctx) (r : Reg) : Ctx :=
  { c.putX r 0 with
    marks := c.marks.filter fun p => p.1 != r
    pend := c.pend.map fun p => if p.reg = r then { p with reg := 0 } else p }

/-- SBIND of an x register (R149). -/
def execSbind (q : BitVec 2) (a : Reg) (s : State) : Host.Outcome State Fault Refusal :=
  seq4 (bindStream (.sbind q a) false (xStreamSlot q) a fun c => c.zeroX (xStreamReg q)) s

/-- SBIND of a v register (R149). -/
def execSbindV (q : BitVec 1) (a : Reg) (s : State) : Host.Outcome State Fault Refusal :=
  seq4 (bindStream (.sbindV q a) true (vStreamSlot q) a fun c => c.putV (vStreamReg q) 0) s

/-- SUNB of an x register (R149). -/
def execSunb (q : BitVec 2) (s : State) : Host.Outcome State Fault Refusal :=
  seq4 (do
    needs .cpy (.sunb q)
    modF fun c => (c.setStream (xStreamSlot q) none).zeroX (xStreamReg q)) s

/-- SUNB of a v register (R149). -/
def execSunbV (q : BitVec 1) (s : State) : Host.Outcome State Fault Refusal :=
  seq4 (do
    needs .cpy (.sunbV q)
    modF fun c => (c.setStream (vStreamSlot q) none).putV (vStreamReg q) 0) s

/-- The positions of a slot not yet popped (R149). -/
def Ctx.left (c : Ctx) (slot : Fin 6) : Word :=
  match c.bound (some slot) with
  | some t => BitVec.ofNat 64 (t.length - t.pos)
  | none => 0

/-- QCNT of an x register (R149). -/
def execQcnt (d : Reg) (q : BitVec 2) (s : State) : Host.Outcome State Fault Refusal :=
  seq4 (do
    needs .cpy (.qcnt d q)
    let c ← fctx
    writeX d (c.left (xStreamSlot q))) s

/-- QCNT of a v register (R149). -/
def execQcntV (d : Reg) (q : BitVec 1) (s : State) : Host.Outcome State Fault Refusal :=
  seq4 (do
    needs .cpy (.qcntV d q)
    let c ← fctx
    writeX d (c.left (vStreamSlot q))) s

/-! ## The stream port (R147) -/

/-- The value of an element at a local key: extended as SX says, a v strip whole. -/
def State.streamValue (s : State) (t : Stream) (key : Nat) : VWord :=
  if t.vec then BitVec.ofNat 512 (s.read key 64) else (extend (s.read key t.size) t.size t.signed).zeroExtend 512

/-- An exchange of residents holds a word of the next element of a stream (R349). -/
def State.streamSwaps (s : State) (core : Nat) (t : Stream) : Bool :=
  match t.place (t.pos + t.ahead.length) with
  | some o => s.swapping core o t.size
  | none => false

/-- STREAM_REFILL (R147): the port reads the next element of a bound register, if it has room for it; an element outside
the local memory is not read, and one in a poisoned word has no value. -/
def execStreamRefill (core ctx slot : Nat) (s : State) : Host.Outcome State Fault Refusal :=
  change (fun s =>
    let i : Fin 6 := ⟨slot % 6, Nat.mod_lt _ (by decide)⟩
    let c := s.ctx core ctx
    match c.bound (some i) with
    | none => s
    | some t =>
      if !t.wants || !s.enginesRun core then s
      else if s.streamSwaps core t then s.armIn 1 (.streamRefill core ctx slot)
      else
        let v : Option VWord :=
          match t.place (t.pos + t.ahead.length) with
          | none => none
          | some o =>
            let key := localKey core o
            if (s.firstPoison (wordKey key) ((o % 8 + t.size + 7) / 8)).isSome then none else some (s.streamValue t key)
        let t := { t with ahead := t.ahead ++ [v] }
        let s := s.modCtx core ctx fun c => c.setStream i (some t)
        if t.wants then s.kickStream core ctx slot else s) s

end Sys2Proof.Machine
end

