-- ==== Sys2Proof/Machine/Vector.lean ====
section
/-! DEFINITION. The vector unit (R248, R258 to R267): lanes, vector memory, moves, reductions and conversions. -/

namespace Sys2Proof.Machine

/-! ## Lanes -/

/-- The lanes of width w of a v register, lane 0 first (R258). -/
def lanes (w : Nat) (v : VWord) : List Nat := unpackBits w v.toNat (512 / w)

/-- A v register from lanes of width w, lane 0 first; what is above them is zero. -/
def ofLanes (w : Nat) (l : List Nat) : VWord := BitVec.ofNat 512 (packBits w l)

/-- The lane width of an integer type (R44). -/
def itypeW : IType → Nat
  | .b => 8 | .h => 16 | .w => 32 | .d => 64

/-- The format of a float lane type (R44). -/
def ftypeF : FType → Fmt
  | .h => fmtH | .bf => fmtBf | .s => fmtS | .d => fmtD

/-- A lane as a signed integer. -/
def laneInt (w x : Nat) : Int := if x < 2 ^ (w - 1) then x else (x : Int) - 2 ^ w

/-- A signed integer as a lane. -/
def intLane (w : Nat) (x : Int) : Nat := (x % 2 ^ w).toNat

/-- A lane sign-extended to an x register. -/
def laneSext (w x : Nat) : Word := BitVec.ofInt 64 (laneInt w x)

/-- The float mode and the flags of a lane operation over all lanes (R250, R258). -/
def excAll (l : List (Nat × Exc)) : Exc := l.foldl (fun e p => e ||| p.2) 0

/-! ## VARITH and VFMA (R258) -/

/-- An integer lane operation of two registers. -/
def vInt (i : Instr) (t : IType) (d a b : VReg) (op : Nat → Nat → Nat → Nat) : M Unit := do
  needs .vec i
  let x ← readV a
  let y ← readV b
  let w := itypeW t
  writeV d (ofLanes w (List.zipWith (op w) (lanes w x) (lanes w y)))

/-- VADD (R258). -/
def execVadd (t : IType) (d a b : VReg) (s : State) : Host.Outcome State Fault Refusal :=
  seq4 (vInt (.vadd t d a b) t d a b fun _ x y => x + y) s
/-- VSUB (R258). -/
def execVsub (t : IType) (d a b : VReg) (s : State) : Host.Outcome State Fault Refusal :=
  seq4 (vInt (.vsub t d a b) t d a b fun w x y => x + 2 ^ w - y) s
/-- VMUL (R258). -/
def execVmul (t : IType) (d a b : VReg) (s : State) : Host.Outcome State Fault Refusal :=
  seq4 (vInt (.vmul t d a b) t d a b fun _ x y => x * y) s
/-- VAND (R258). -/
def execVand (t : IType) (d a b : VReg) (s : State) : Host.Outcome State Fault Refusal :=
  seq4 (vInt (.vand t d a b) t d a b fun _ x y => x &&& y) s
/-- VOR (R258). -/
def execVor (t : IType) (d a b : VReg) (s : State) : Host.Outcome State Fault Refusal :=
  seq4 (vInt (.vor t d a b) t d a b fun _ x y => x ||| y) s
/-- VXOR (R258). -/
def execVxor (t : IType) (d a b : VReg) (s : State) : Host.Outcome State Fault Refusal :=
  seq4 (vInt (.vxor t d a b) t d a b fun _ x y => x ^^^ y) s
/-- VSLL (R258). -/
def execVsll (t : IType) (d a b : VReg) (s : State) : Host.Outcome State Fault Refusal :=
  seq4 (vInt (.vsll t d a b) t d a b fun w x y => x * 2 ^ (y % w)) s
/-- VSRL (R258). -/
def execVsrl (t : IType) (d a b : VReg) (s : State) : Host.Outcome State Fault Refusal :=
  seq4 (vInt (.vsrl t d a b) t d a b fun w x y => x / 2 ^ (y % w)) s
/-- VSRA (R258). -/
def execVsra (t : IType) (d a b : VReg) (s : State) : Host.Outcome State Fault Refusal :=
  seq4 (vInt (.vsra t d a b) t d a b fun w x y => intLane w (laneInt w x / 2 ^ (y % w))) s

/-- A float lane operation of two registers, all lanes accruing (R258). -/
def vFlt (i : Instr) (t : FType) (d a b : VReg) (op : Fmt → RMode → Nat → Nat → Nat × Exc) : M Unit := do
  needs .vec i
  let m ← modeOf .dyn
  let x ← readV a
  let y ← readV b
  let f := ftypeF t
  let r := List.zipWith (op f m) (lanes f.width x) (lanes f.width y)
  accrue (excAll r)
  writeV d (ofLanes f.width (r.map (·.1)))

/-- VFADD (R258). -/
def execVfadd (t : FType) (d a b : VReg) (s : State) : Host.Outcome State Fault Refusal :=
  seq4 (vFlt (.vfadd t d a b) t d a b fAdd) s
/-- VFSUB (R258). -/
def execVfsub (t : FType) (d a b : VReg) (s : State) : Host.Outcome State Fault Refusal :=
  seq4 (vFlt (.vfsub t d a b) t d a b fSub) s
/-- VFMUL (R258). -/
def execVfmul (t : FType) (d a b : VReg) (s : State) : Host.Outcome State Fault Refusal :=
  seq4 (vFlt (.vfmul t d a b) t d a b fMul) s
/-- VFDIV (R258). -/
def execVfdiv (t : FType) (d a b : VReg) (s : State) : Host.Outcome State Fault Refusal :=
  seq4 (vFlt (.vfdiv t d a b) t d a b fDiv) s
/-- VFMIN (R258). -/
def execVfmin (t : FType) (d a b : VReg) (s : State) : Host.Outcome State Fault Refusal :=
  seq4 (vFlt (.vfmin t d a b) t d a b fun f _ x y => fMin f x y) s
/-- VFMAX (R258). -/
def execVfmax (t : FType) (d a b : VReg) (s : State) : Host.Outcome State Fault Refusal :=
  seq4 (vFlt (.vfmax t d a b) t d a b fun f _ x y => fMax f x y) s

/-- A binary32 estimate of every lane (R258). -/
def vEst (i : Instr) (d a : VReg) (op : Fmt → Nat → Nat × Exc) : M Unit := do
  needs .vec i
  let x ← readV a
  let r := (lanes 32 x).map (op fmtS)
  accrue (excAll r)
  writeV d (ofLanes 32 (r.map (·.1)))

/-- VRCPE (R255, R258). -/
def execVrcpe (d a : VReg) (s : State) : Host.Outcome State Fault Refusal := seq4 (vEst (.vrcpe d a) d a fRcpe) s
/-- VRSQE (R256, R258). -/
def execVrsqe (d a : VReg) (s : State) : Host.Outcome State Fault Refusal := seq4 (vEst (.vrsqe d a) d a fRsqe) s

/-- A fused lane operation, np negating the product (R258). -/
def vFused (i : Instr) (t : FType) (np : Bool) (d a b c : VReg) : M Unit := do
  needs .vec i
  let m ← modeOf .dyn
  let x ← readV a
  let y ← readV b
  let z ← readV c
  let f := ftypeF t
  let xy := List.zip (lanes f.width x) (lanes f.width y)
  let r := List.zipWith (fun p q => fFma f m np false p.1 p.2 q) xy (lanes f.width z)
  accrue (excAll r)
  writeV d (ofLanes f.width (r.map (·.1)))

/-- VFMA (R258). -/
def execVfma (t : FType) (d a b c : VReg) (s : State) : Host.Outcome State Fault Refusal :=
  seq4 (vFused (.vfma t d a b c) t false d a b c) s
/-- VFNMA (R258). -/
def execVfnma (t : FType) (d a b c : VReg) (s : State) : Host.Outcome State Fault Refusal :=
  seq4 (vFused (.vfnma t d a b c) t true d a b c) s

/-! ## Vector memory (R259, R260) -/

/-- The own-core offset of an element address that passes the checks of R259: ACCESS, then MISALIGN. -/
def vecAddr (va : Word) (align : Nat) : M Nat := do
  if bits va 63 16 ≠ 0xFC0000000000 then trap cACCESS va
  if va.toNat % align ≠ 0 then trap cMISALIGN va
  return va.toNat % 65536

/-- The offsets of a list of element addresses, checked in lane order. -/
def vecAddrs (align : Nat) : List Word → M (List Nat)
  | [] => pure []
  | va :: t => do
    let o ← vecAddr va align
    let r ← vecAddrs align t
    return o :: r

/-- The addresses of 16 lanes of a stride (R259). -/
def strideAddrs (b stride : Word) : List Word := (List.range 16).map fun i => b + BitVec.ofNat 64 i * stride

/-- The addresses of 16 lanes of an index register (R259). -/
def gatherAddrs (b : Word) (v : VWord) : List Word := (lanes 32 v).map fun x => b + BitVec.ofNat 64 x

/-- The destination of an own-core offset. -/
def State.localDest (s : State) (o : Nat) : Dest := ⟨s.module, localKey s.focusCore o, false, false⟩

/-- The words of a list of offsets, each once, ascending (R295). -/
def wordOffs (os : List Nat) : List Nat := os.foldr (fun o l => insertKey l (wordKey o)) []

/-- The words of a vector load read at own-core offsets, ascending, one at each issue, so that an arrival may come between
two (R260): the first after every store of the context that overlaps a byte the load reads, POISON at a poisoned one
(R186). The elements of w bytes, in lane order, once all are read. -/
def vecRead (w : Nat) (os : List Nat) : M (List Nat) := do
  let s ← get
  let c := s.fctx
  match (wordOffs os).find? fun k => (mapFind c.vread k).isNone with
  | none =>
    modF fun c => { c with vread := [] }
    return os.map fun o => ((mapFind c.vread (wordKey o)).getD 0).toNat / 256 ^ (o % 8) % 256 ^ w
  | some k =>
    holdUntil (os.all fun o => !s.sbOverlaps (s.localDest o) w)
    let d := s.localDest k
    swapHold d
    if s.poisoned d.key then trap cPOISON (ownForm k)
    let v := s.word d.key
    let read := c.vread ++ [(k, v)]
    if (wordOffs os).any fun j => (mapFind read j).isNone then
      throw (.more fun s => s.modF fun c => { c with vread := c.vread ++ [(k, v)] })
    modF fun c => { c with vread := [] }
    return os.map fun o => ((mapFind read (wordKey o)).getD 0).toNat / 256 ^ (o % 8) % 256 ^ w

/-- What a vector load waits for before it reads: AMOs, fences, and the earlier loads of other homes (R295). -/
def vecLoadWait : M Unit := do
  noAmo
  fenced [0]
  let s ← get
  holdUntil (s.fctx.loadMay s.module (s.localDest 0).home)

/-- The words of a strip. -/
def stripWords (o : Nat) : List Nat := (List.range 8).map fun i => o + 8 * i

/-- VLD (R259). -/
def execVld (d : VReg) (a : Reg) (i : BitVec 12) (s : State) : Host.Outcome State Fault Refusal :=
  seq4 (do
    needs .vec (.vld d a i)
    let o ← vecAddr ((← readX a) + sext i) 64
    vecLoadWait
    let l ← vecRead 8 (stripWords o)
    writeV d (ofLanes 64 l)) s

/-- VLDS (R259). -/
def execVlds (d : VReg) (a : Reg) (i : BitVec 12) (s : State) : Host.Outcome State Fault Refusal :=
  seq4 (do
    needs .vec (.vlds d a i)
    let os ← vecAddrs 4 (strideAddrs (← readX a) (sext i))
    vecLoadWait
    let l ← vecRead 4 os
    writeV d (ofLanes 32 l)) s

/-- VGATH (R259). -/
def execVgath (d : VReg) (a : Reg) (v : VReg) (s : State) : Host.Outcome State Fault Refusal :=
  seq4 (do
    needs .vec (.vgath d a v)
    let b ← readX a
    let os ← vecAddrs 4 (gatherAddrs b (← readV v))
    vecLoadWait
    let l ← vecRead 4 os
    writeV d (ofLanes 32 l)) s

/-- The elements of a vector store folded into D in lane order (R385). -/
def foldLanes (w : Nat) : List (Word × Nat) → M Unit
  | [] => pure ()
  | (va, v) :: t => do
    foldD false va (BitVec.ofNat 64 v) w 0 0
    foldLanes w t

/-- A vector store: one store-buffer entry of elements in lane order (R260). -/
def vecStore (w : Nat) (l : List (Nat × Nat)) : M Unit := do
  noAmo
  fenced [1]
  let s ← get
  let c := s.focusCore
  enterStore (s.localDest 0) (.lanes (l.map fun p => (localKey c p.1, w, BitVec.ofNat 64 p.2))) false false 0
  foldLanes w (l.map fun p => (ownForm p.1, p.2))

/-- VST (R259): the strip stored and folded word by word (log entry 12). -/
def execVst (d : VReg) (a : Reg) (i : BitVec 12) (s : State) : Host.Outcome State Fault Refusal :=
  seq4 (do
    needs .vec (.vst d a i)
    let va := (← readX a) + sext i
    let v ← readV d
    let o ← vecAddr va 64
    vecStore 8 (List.zip (stripWords o) (lanes 64 v))) s

/-- VSTS (R259). -/
def execVsts (d : VReg) (a : Reg) (i : BitVec 12) (s : State) : Host.Outcome State Fault Refusal :=
  seq4 (do
    needs .vec (.vsts d a i)
    let b ← readX a
    let v ← readV d
    let os ← vecAddrs 4 (strideAddrs b (sext i))
    vecStore 4 (List.zip os (lanes 32 v))) s

/-- VSCAT (R259). -/
def execVscat (d : VReg) (a : Reg) (v : VReg) (s : State) : Host.Outcome State Fault Refusal :=
  seq4 (do
    needs .vec (.vscat d a v)
    let b ← readX a
    let x ← readV v
    let y ← readV d
    let os ← vecAddrs 4 (gatherAddrs b x)
    vecStore 4 (List.zip os (lanes 32 y))) s

/-! ## Moves and compares (R262) -/

/-- VBCAST (R262). -/
def execVbcast (t : IType) (d : VReg) (a : Reg) (s : State) : Host.Outcome State Fault Refusal :=
  seq4 (do
    needs .vec (.vbcast t d a)
    let x ← readX a
    let w := itypeW t
    writeV d (ofLanes w (List.replicate (512 / w) x.toNat))) s

/-- VEXT (R262). -/
def execVext (t : IType) (d : Reg) (a : VReg) (b : Reg) (s : State) : Host.Outcome State Fault Refusal :=
  seq4 (do
    needs .vec (.vext t d a b)
    let v ← readV a
    let k ← readX b
    let w := itypeW t
    writeX d (match (lanes w v)[k.toNat]? with | some x => laneSext w x | none => 0)) s

/-- VINS (R262). Its old vd is read without a pop where it is bound, as R146 lists only rs1, rs2 and rs3 (DESIGN CHOICE, log
entry 38). -/
def execVins (t : IType) (d : VReg) (a b : Reg) (s : State) : Host.Outcome State Fault Refusal :=
  seq4 (do
    needs .vec (.vins t d a b)
    let x ← readX a
    let k ← readX b
    let w := itypeW t
    let old := (← fctx).getV d
    writeV d (ofLanes w ((lanes w old).set k.toNat (lowBytes x (w / 8))))) s

/-- VSEL (R262). Its old vd is read without a pop where it is bound, as R146 lists only rs1, rs2 and rs3 (DESIGN CHOICE, log
entry 38). -/
def execVsel (t : IType) (d a b : VReg) (s : State) : Host.Outcome State Fault Refusal :=
  seq4 (do
    needs .vec (.vsel t d a b)
    let x ← readV a
    let y ← readV b
    let w := itypeW t
    let xy := List.zip (lanes w x) (lanes w y)
    let old := (← fctx).getV d
    writeV d (ofLanes w (List.zipWith (fun m p => if m = 0 then p.2 else p.1) (lanes w old) xy))) s

/-- VPERM (R262). -/
def execVperm (t : IType) (d a b : VReg) (s : State) : Host.Outcome State Fault Refusal :=
  seq4 (do
    needs .vec (.vperm t d a b)
    let x ← readV a
    let y ← readV b
    let w := itypeW t
    let src := lanes w x
    writeV d (ofLanes w ((lanes w y).map fun k => src[k]?.getD 0))) s

/-- An integer condition of VCMP on lanes of width w. -/
def icondHolds (w : Nat) (c : ICond) (x y : Nat) : Bool :=
  match c with
  | .eq => x == y
  | .ne => x != y
  | .lt => laneInt w x < laneInt w y
  | .ge => laneInt w y ≤ laneInt w x
  | .ltu => x < y
  | .geu => y ≤ x

/-- All ones of a width, or zero. -/
def maskLane (w : Nat) (b : Bool) : Nat := if b then 2 ^ w - 1 else 0

/-- The lanes of a compare, with the exceptions (R262). -/
def cmpLanes (o : VCmpOp) (x y : VWord) : Nat × List (Nat × Exc) :=
  match o with
  | .int c t =>
    let w := itypeW t
    (w, List.zipWith (fun p q => (maskLane w (icondHolds w c p q), 0)) (lanes w x) (lanes w y))
  | .flt t =>
    let f := ftypeF t
    (f.width, List.zipWith (fun p q => let r := fLt f p q; (maskLane f.width r.1, r.2)) (lanes f.width x) (lanes f.width y))
  | .fle t =>
    let f := ftypeF t
    (f.width, List.zipWith (fun p q => let r := fLe f p q; (maskLane f.width r.1, r.2)) (lanes f.width x) (lanes f.width y))

/-- VCMP (R262). -/
def execVcmp (o : VCmpOp) (d a b : VReg) (s : State) : Host.Outcome State Fault Refusal :=
  seq4 (do
    needs .vec (.vcmp o d a b)
    let x ← readV a
    let y ← readV b
    let r := cmpLanes o x y
    accrue (excAll r.2)
    writeV d (ofLanes r.1 (r.2.map (·.1)))) s

/-! ## VRED (R263) -/

/-- One step of the lane-pair tree: lane i with lane i + s, the lower the left operand. -/
def redStep (op : Nat → Nat → Nat × Exc) (l : List Nat) (e : Exc) : List Nat × Exc :=
  let n := l.length / 2
  let r := List.zipWith op (l.take n) (l.drop n)
  (r.map (·.1), e ||| excAll r)

/-- The tree over 2^n lanes. -/
def redTree (op : Nat → Nat → Nat × Exc) : Nat → List Nat → Exc → List Nat × Exc
  | 0, l, e => (l, e)
  | n + 1, l, e => let r := redStep op l e; redTree op n r.1 r.2

/-- An integer operation of VRED on lanes of width w. -/
def iredOp (w : Nat) (o : IRed) (x y : Nat) : Nat :=
  match o with
  | .add => (x + y) % 2 ^ w
  | .min => if laneInt w y < laneInt w x then y else x
  | .max => if laneInt w x < laneInt w y then y else x
  | .and => x &&& y
  | .or => x ||| y
  | .xor => x ^^^ y

/-- VRED's result and exceptions (R263). -/
def vredResult (o : VRedOp) (m : RMode) (v : VWord) : Word × Exc :=
  match o with
  | .int o t =>
    let w := itypeW t
    let r := redTree (fun x y => (iredOp w o x y, 0)) (Nat.log2 (512 / w)) (lanes w v) 0
    (laneSext w (r.1.headD 0), 0)
  | .fadd t =>
    let f := ftypeF t
    let r := redTree (fAdd f m) (Nat.log2 (512 / f.width)) (lanes f.width v) 0
    (box f (r.1.headD 0), r.2)
  | .fmax t =>
    let f := ftypeF t
    let r := redTree (fMax f) (Nat.log2 (512 / f.width)) (lanes f.width v) 0
    (box f (r.1.headD 0), r.2)

/-- VRED (R263). -/
def execVred (o : VRedOp) (d : Reg) (a : VReg) (s : State) : Host.Outcome State Fault Refusal :=
  seq4 (do
    needs .vec (.vred o d a)
    let m ← modeOf .dyn
    let v ← readV a
    let r := vredResult o m v
    accrue r.2
    writeX d r.1) s

/-! ## VCVT (R264) -/

/-- A conversion: source width, destination width, lanes, and the lane's conversion. -/
structure Conv where
  from' : Nat
  to' : Nat
  n : Nat
  f : RMode → Nat → Nat × Exc

/-- A value to a signed lane of width w (R230). -/
def toLane (w : Nat) (r : RMode) (v : FVal) : Nat × Exc :=
  let q := v.toInt r (-(2 ^ (w - 1))) (2 ^ (w - 1) - 1)
  (intLane w q.1, q.2)

/-- A signed lane of width w to a format. -/
def fromLane (w : Nat) (f : Fmt) (r : RMode) (x : Nat) : Nat × Exc := (intVal (laneInt w x)).to f r

/-- The conversions by code (R264). -/
def vcvtConv : VCvt → Conv
  | .hS => ⟨32, 16, 16, fun r => fConv fmtS fmtH r⟩
  | .sH => ⟨16, 32, 16, fun r => fConv fmtH fmtS r⟩
  | .bfS => ⟨32, 16, 16, fun r => fConv fmtS fmtBf r⟩
  | .sBf => ⟨16, 32, 16, fun r => fConv fmtBf fmtS r⟩
  | .dS => ⟨32, 64, 8, fun r => fConv fmtS fmtD r⟩
  | .sD => ⟨64, 32, 8, fun r => fConv fmtD fmtS r⟩
  | .e4m3S => ⟨32, 8, 16, fun _ x => toE4m3 (fmtS.val x)⟩
  | .sE4m3 => ⟨8, 32, 16, fun r x => (e4m3Val x).to fmtS r⟩
  | .e5m2S => ⟨32, 8, 16, fun _ x => toE5m2 (fmtS.val x)⟩
  | .sE5m2 => ⟨8, 32, 16, fun r x => (e5m2Val x).to fmtS r⟩
  | .wS => ⟨32, 32, 16, fun r x => toLane 32 r (fmtS.val x)⟩
  | .sW => ⟨32, 32, 16, fun r x => fromLane 32 fmtS r x⟩
  | .i8S => ⟨32, 8, 16, fun r x => toLane 8 r (fmtS.val x)⟩
  | .sI8 => ⟨8, 32, 16, fun r x => fromLane 8 fmtS r x⟩
  | .lD => ⟨64, 64, 8, fun r x => toLane 64 r (fmtD.val x)⟩
  | .dL => ⟨64, 64, 8, fun r x => fromLane 64 fmtD r x⟩

/-- VCVT (R264). -/
def execVcvt (k : VCvt) (d a : VReg) (s : State) : Host.Outcome State Fault Refusal :=
  seq4 (do
    needs .vec (.vcvt k d a)
    let m ← modeOf .dyn
    let v ← readV a
    let c := vcvtConv k
    let r := (unpackBits c.from' v.toNat c.n).map (c.f m)
    accrue (excAll r)
    writeV d (ofLanes c.to' (r.map (·.1)))) s

/-! ## VPACK and VUNPK (R265) -/

/-- VPACK (R239, R265). -/
def execVpack (m : BxFmt) (d a : VReg) (s : State) : Host.Outcome State Fault Refusal :=
  seq4 (do
    needs .vec (.vpack m d a)
    needs .bxf (.vpack m d a)
    let v ← readV a
    let q := bxQuant (bxM m) ((lanes 32 v).map fmtS.val)
    writeV d (BitVec.ofNat 512 (q.1 + 2 ^ 128 * q.2))) s

/-- VUNPK (R238, R265). -/
def execVunpk (m : BxFmt) (d a : VReg) (s : State) : Host.Outcome State Fault Refusal :=
  seq4 (do
    needs .vec (.vunpk m d a)
    needs .bxf (.vunpk m d a)
    let v ← readV a
    let plane := v.toNat % 2 ^ (16 * (bxM m + 1))
    let scale := v.toNat / 2 ^ 128 % 65536
    writeV d (ofLanes 32 ((List.range 16).map fun i => ((bxVal (bxM m) plane scale i).to fmtS .rne).1))) s

end Sys2Proof.Machine
end

