-- ==== Sys2Proof/Machine/Dispatch.lean ====
section
/-! DEFINITION. The meaning of every constructor of Instr, one arm each. -/

namespace Sys2Proof.Machine

def exec (i : Instr) (s : State) : Host.Outcome State Fault Refusal :=
  match i with
  | .add d a b => Sys2Proof.Machine.execAdd d a b s
  | .sub d a b => Sys2Proof.Machine.execSub d a b s
  | .and d a b => Sys2Proof.Machine.execAnd d a b s
  | .or d a b => Sys2Proof.Machine.execOr d a b s
  | .xor d a b => Sys2Proof.Machine.execXor d a b s
  | .sll d a b => Sys2Proof.Machine.execSll d a b s
  | .srl d a b => Sys2Proof.Machine.execSrl d a b s
  | .sra d a b => Sys2Proof.Machine.execSra d a b s
  | .slt d a b => Sys2Proof.Machine.execSlt d a b s
  | .sltu d a b => Sys2Proof.Machine.execSltu d a b s
  | .min d a b => Sys2Proof.Machine.execMin d a b s
  | .max d a b => Sys2Proof.Machine.execMax d a b s
  | .minu d a b => Sys2Proof.Machine.execMinu d a b s
  | .maxu d a b => Sys2Proof.Machine.execMaxu d a b s
  | .rol d a b => Sys2Proof.Machine.execRol d a b s
  | .ror d a b => Sys2Proof.Machine.execRor d a b s
  | .andn d a b => Sys2Proof.Machine.execAndn d a b s
  | .orn d a b => Sys2Proof.Machine.execOrn d a b s
  | .xnor d a b => Sys2Proof.Machine.execXnor d a b s
  | .addw d a b => Sys2Proof.Machine.execAddw d a b s
  | .subw d a b => Sys2Proof.Machine.execSubw d a b s
  | .sllw d a b => Sys2Proof.Machine.execSllw d a b s
  | .srlw d a b => Sys2Proof.Machine.execSrlw d a b s
  | .sraw d a b => Sys2Proof.Machine.execSraw d a b s
  | .mul d a b => Sys2Proof.Machine.execMul d a b s
  | .mulh d a b => Sys2Proof.Machine.execMulh d a b s
  | .mulhu d a b => Sys2Proof.Machine.execMulhu d a b s
  | .mulhsu d a b => Sys2Proof.Machine.execMulhsu d a b s
  | .div d a b => Sys2Proof.Machine.execDiv d a b s
  | .divu d a b => Sys2Proof.Machine.execDivu d a b s
  | .rem d a b => Sys2Proof.Machine.execRem d a b s
  | .remu d a b => Sys2Proof.Machine.execRemu d a b s
  | .clz d a => Sys2Proof.Machine.execClz d a s
  | .ctz d a => Sys2Proof.Machine.execCtz d a s
  | .popc d a => Sys2Proof.Machine.execPopc d a s
  | .bswap d a => Sys2Proof.Machine.execBswap d a s
  | .sextb d a => Sys2Proof.Machine.execSextb d a s
  | .sexth d a => Sys2Proof.Machine.execSexth d a s
  | .zextw d a => Sys2Proof.Machine.execZextw d a s
  | .addi d a j => Sys2Proof.Machine.execAddi d a j s
  | .andi d a j => Sys2Proof.Machine.execAndi d a j s
  | .ori d a j => Sys2Proof.Machine.execOri d a j s
  | .xori d a j => Sys2Proof.Machine.execXori d a j s
  | .slli d a x => Sys2Proof.Machine.execSlli d a x s
  | .srli d a x => Sys2Proof.Machine.execSrli d a x s
  | .srai d a x => Sys2Proof.Machine.execSrai d a x s
  | .slti d a j => Sys2Proof.Machine.execSlti d a j s
  | .sltiu d a j => Sys2Proof.Machine.execSltiu d a j s
  | .addiw d a j => Sys2Proof.Machine.execAddiw d a j s
  | .lui d j => Sys2Proof.Machine.execLui d j s
  | .addpc d j => Sys2Proof.Machine.execAddpc d j s
  | .lca d a j => Sys2Proof.Machine.execLca d a j s
  | .addx2 d a b => Sys2Proof.Machine.execAddx2 d a b s
  | .addx4 d a b => Sys2Proof.Machine.execAddx4 d a b s
  | .addx8 d a b => Sys2Proof.Machine.execAddx8 d a b s
  | .lcr d a b => Sys2Proof.Machine.execLcr d a b s
  | .lcx d a => Sys2Proof.Machine.execLcx d a s
  | .beq a b j => Sys2Proof.Machine.execBeq a b j s
  | .bne a b j => Sys2Proof.Machine.execBne a b j s
  | .blt a b j => Sys2Proof.Machine.execBlt a b j s
  | .bge a b j => Sys2Proof.Machine.execBge a b j s
  | .bltu a b j => Sys2Proof.Machine.execBltu a b j s
  | .bgeu a b j => Sys2Proof.Machine.execBgeu a b j s
  | .bto j => Sys2Proof.Machine.execBto j s
  | .bnto j => Sys2Proof.Machine.execBnto j s
  | .jal d j => Sys2Proof.Machine.execJal d j s
  | .jalr d a j => Sys2Proof.Machine.execJalr d a j s
  | .lb d a j => Sys2Proof.Machine.execLb d a j s
  | .lh d a j => Sys2Proof.Machine.execLh d a j s
  | .lw d a j => Sys2Proof.Machine.execLw d a j s
  | .ld d a j => Sys2Proof.Machine.execLd d a j s
  | .lbu d a j => Sys2Proof.Machine.execLbu d a j s
  | .lhu d a j => Sys2Proof.Machine.execLhu d a j s
  | .lwu d a j => Sys2Proof.Machine.execLwu d a j s
  | .sb d a j => Sys2Proof.Machine.execSb d a j s
  | .sh d a j => Sys2Proof.Machine.execSh d a j s
  | .sw d a j => Sys2Proof.Machine.execSw d a j s
  | .sd d a j => Sys2Proof.Machine.execSd d a j s
  | .ldacq d a j => Sys2Proof.Machine.execLdacq d a j s
  | .ldf d a o b => Sys2Proof.Machine.execLdf d a o b s
  | .ldfe d a o b => Sys2Proof.Machine.execLdfe d a o b s
  | .probe d a j => Sys2Proof.Machine.execProbe d a j s
  | .sdrel d a j => Sys2Proof.Machine.execSdrel d a j s
  | .ste d a j => Sys2Proof.Machine.execSte d a j s
  | .stf d a o b => Sys2Proof.Machine.execStf d a o b s
  | .sete a j => Sys2Proof.Machine.execSete a j s
  | .amoadd w d a b => Sys2Proof.Machine.execAmoadd w d a b s
  | .amoand w d a b => Sys2Proof.Machine.execAmoand w d a b s
  | .amoor w d a b => Sys2Proof.Machine.execAmoor w d a b s
  | .amoxor w d a b => Sys2Proof.Machine.execAmoxor w d a b s
  | .amomin w d a b => Sys2Proof.Machine.execAmomin w d a b s
  | .amomax w d a b => Sys2Proof.Machine.execAmomax w d a b s
  | .amominu w d a b => Sys2Proof.Machine.execAmominu w d a b s
  | .amomaxu w d a b => Sys2Proof.Machine.execAmomaxu w d a b s
  | .amoswap w d a b => Sys2Proof.Machine.execAmoswap w d a b s
  | .amocas w d a b c => Sys2Proof.Machine.execAmocas w d a b c s
  | .redadd w a b => Sys2Proof.Machine.execRedadd w a b s
  | .redand w a b => Sys2Proof.Machine.execRedand w a b s
  | .redor w a b => Sys2Proof.Machine.execRedor w a b s
  | .redxor w a b => Sys2Proof.Machine.execRedxor w a b s
  | .redmin w a b => Sys2Proof.Machine.execRedmin w a b s
  | .redmax w a b => Sys2Proof.Machine.execRedmax w a b s
  | .redminu w a b => Sys2Proof.Machine.execRedminu w a b s
  | .redmaxu w a b => Sys2Proof.Machine.execRedmaxu w a b s
  | .fence p x => Sys2Proof.Machine.execFence p x s
  | .fadd f r d a b => Sys2Proof.Machine.execFadd f r d a b s
  | .fsub f r d a b => Sys2Proof.Machine.execFsub f r d a b s
  | .fmul f r d a b => Sys2Proof.Machine.execFmul f r d a b s
  | .fdiv f r d a b => Sys2Proof.Machine.execFdiv f r d a b s
  | .fsqrt f r d a => Sys2Proof.Machine.execFsqrt f r d a s
  | .fmin f d a b => Sys2Proof.Machine.execFmin f d a b s
  | .fmax f d a b => Sys2Proof.Machine.execFmax f d a b s
  | .fsgcpy f d a b => Sys2Proof.Machine.execFsgcpy f d a b s
  | .fsgneg f d a b => Sys2Proof.Machine.execFsgneg f d a b s
  | .fsgxor f d a b => Sys2Proof.Machine.execFsgxor f d a b s
  | .feq f d a b => Sys2Proof.Machine.execFeq f d a b s
  | .flt f d a b => Sys2Proof.Machine.execFlt f d a b s
  | .fle f d a b => Sys2Proof.Machine.execFle f d a b s
  | .fclass f d a => Sys2Proof.Machine.execFclass f d a s
  | .frcpe f d a => Sys2Proof.Machine.execFrcpe f d a s
  | .frsqe f d a => Sys2Proof.Machine.execFrsqe f d a s
  | .fma f d a b c => Sys2Proof.Machine.execFma f d a b c s
  | .fms f d a b c => Sys2Proof.Machine.execFms f d a b c s
  | .fnma f d a b c => Sys2Proof.Machine.execFnma f d a b c s
  | .fnms f d a b c => Sys2Proof.Machine.execFnms f d a b c s
  | .fcvtI r x t d a => Sys2Proof.Machine.execFcvtI r x t d a s
  | .fcvtF r x t d a => Sys2Proof.Machine.execFcvtF r x t d a s
  | .fcvtFf r x t d a => Sys2Proof.Machine.execFcvtFf r x t d a s
  | .vadd t d a b => Sys2Proof.Machine.execVadd t d a b s
  | .vsub t d a b => Sys2Proof.Machine.execVsub t d a b s
  | .vmul t d a b => Sys2Proof.Machine.execVmul t d a b s
  | .vand t d a b => Sys2Proof.Machine.execVand t d a b s
  | .vor t d a b => Sys2Proof.Machine.execVor t d a b s
  | .vxor t d a b => Sys2Proof.Machine.execVxor t d a b s
  | .vsll t d a b => Sys2Proof.Machine.execVsll t d a b s
  | .vsrl t d a b => Sys2Proof.Machine.execVsrl t d a b s
  | .vsra t d a b => Sys2Proof.Machine.execVsra t d a b s
  | .vfadd t d a b => Sys2Proof.Machine.execVfadd t d a b s
  | .vfsub t d a b => Sys2Proof.Machine.execVfsub t d a b s
  | .vfmul t d a b => Sys2Proof.Machine.execVfmul t d a b s
  | .vfdiv t d a b => Sys2Proof.Machine.execVfdiv t d a b s
  | .vfmin t d a b => Sys2Proof.Machine.execVfmin t d a b s
  | .vfmax t d a b => Sys2Proof.Machine.execVfmax t d a b s
  | .vrcpe d a => Sys2Proof.Machine.execVrcpe d a s
  | .vrsqe d a => Sys2Proof.Machine.execVrsqe d a s
  | .vfma t d a b c => Sys2Proof.Machine.execVfma t d a b c s
  | .vfnma t d a b c => Sys2Proof.Machine.execVfnma t d a b c s
  | .vld d a j => Sys2Proof.Machine.execVld d a j s
  | .vst d a j => Sys2Proof.Machine.execVst d a j s
  | .vlds d a j => Sys2Proof.Machine.execVlds d a j s
  | .vsts d a j => Sys2Proof.Machine.execVsts d a j s
  | .vgath d a v => Sys2Proof.Machine.execVgath d a v s
  | .vscat d a v => Sys2Proof.Machine.execVscat d a v s
  | .vbcast t d a => Sys2Proof.Machine.execVbcast t d a s
  | .vext t d a b => Sys2Proof.Machine.execVext t d a b s
  | .vins t d a b => Sys2Proof.Machine.execVins t d a b s
  | .vsel t d a b => Sys2Proof.Machine.execVsel t d a b s
  | .vcmp o d a b => Sys2Proof.Machine.execVcmp o d a b s
  | .vred o d a => Sys2Proof.Machine.execVred o d a s
  | .vperm t d a b => Sys2Proof.Machine.execVperm t d a b s
  | .vcvt k d a => Sys2Proof.Machine.execVcvt k d a s
  | .vpack m d a => Sys2Proof.Machine.execVpack m d a s
  | .vunpk m d a => Sys2Proof.Machine.execVunpk m d a s
  | .mma n d a b c => Sys2Proof.Machine.execMma n d a b c s
  | .accz n d => Sys2Proof.Machine.execAccz n d s
  | .accld n d a => Sys2Proof.Machine.execAccld n d a s
  | .accst n d a => Sys2Proof.Machine.execAccst n d a s
  | .accmv n d => Sys2Proof.Machine.execAccmv n d s
  | .wbld d a b c => Sys2Proof.Machine.execWbld d a b c s
  | .shpchk d a => Sys2Proof.Machine.execShpchk d a s
  | .cpyin h d a b c => Sys2Proof.Machine.execCpyin h d a b c s
  | .cpyout h d a b c => Sys2Proof.Machine.execCpyout h d a b c s
  | .cpyll h d a b c => Sys2Proof.Machine.execCpyll h d a b c s
  | .cstat h d => Sys2Proof.Machine.execCstat h d s
  | .sbind q a => Sys2Proof.Machine.execSbind q a s
  | .sunb q => Sys2Proof.Machine.execSunb q s
  | .qcnt d q => Sys2Proof.Machine.execQcnt d q s
  | .sbindV q a => Sys2Proof.Machine.execSbindV q a s
  | .sunbV q => Sys2Proof.Machine.execSunbV q s
  | .qcntV d q => Sys2Proof.Machine.execQcntV d q s
  | .xchg d a b => Sys2Proof.Machine.execXchg d a b s
  | .mcast n d a b c => Sys2Proof.Machine.execMcast n d a b c s
  | .mcastWin n d a b c => Sys2Proof.Machine.execMcastWin n d a b c s
  | .reduce o d a b c => Sys2Proof.Machine.execReduce o d a b c s
  | .halo d a b => Sys2Proof.Machine.execHalo d a b s
  | .gjoin d a b => Sys2Proof.Machine.execGjoin d a b s
  | .gleave d a => Sys2Proof.Machine.execGleave d a s
  | .gbar a b => Sys2Proof.Machine.execGbar a b s
  | .garr d a => Sys2Proof.Machine.execGarr d a s
  | .gwait a b => Sys2Proof.Machine.execGwait a b s
  | .ginfo d a b => Sys2Proof.Machine.execGinfo d a b s
  | .cwait e a b => Sys2Proof.Machine.execCwait e a b s
  | .hwait e a b => Sys2Proof.Machine.execHwait e a b s
  | .waitc a => Sys2Proof.Machine.execWaitc a s
  | .waitw a b => Sys2Proof.Machine.execWaitw a b s
  | .waita d b => Sys2Proof.Machine.execWaita d b s
  | .send a b k => Sys2Proof.Machine.execSend a b k s
  | .sendr a b k => Sys2Proof.Machine.execSendr a b k s
  | .spawn d a k => Sys2Proof.Machine.execSpawn d a k s
  | .join d a b => Sys2Proof.Machine.execJoin d a b s
  | .bind d a b => Sys2Proof.Machine.execBind d a b s
  | .unbind d a => Sys2Proof.Machine.execUnbind d a s
  | .reside d a b => Sys2Proof.Machine.execReside d a b s
  | .rule d a b => Sys2Proof.Machine.execRule d a b s
  | .codeld d a b => Sys2Proof.Machine.execCodeld d a b s
  | .rdcyc d => Sys2Proof.Machine.execRdcyc d s
  | .rdwall d => Sys2Proof.Machine.execRdwall d s
  | .alc x a => Sys2Proof.Machine.execAlc x a s
  | .alw x a => Sys2Proof.Machine.execAlw x a s
  | .alx x => Sys2Proof.Machine.execAlx x s
  | .dlarm a => Sys2Proof.Machine.execDlarm a s
  | .dlclr => Sys2Proof.Machine.execDlclr s
  | .crr d n => Sys2Proof.Machine.execCrr d n s
  | .crw n a => Sys2Proof.Machine.execCrw n a s
  | .crs d n a => Sys2Proof.Machine.execCrs d n a s
  | .crc d n a => Sys2Proof.Machine.execCrc d n a s
  | .trap j => Sys2Proof.Machine.execTrap j s
  | .tret => Sys2Proof.Machine.execTret s
  | .brk j => Sys2Proof.Machine.execBrk j s
  | .taskDone => Sys2Proof.Machine.execTaskDone s
  | .yieldCtx => Sys2Proof.Machine.execYieldCtx s
  | .tlbinv a b => Sys2Proof.Machine.execTlbinv a b s
  | .pgmove d a b => Sys2Proof.Machine.execPgmove d a b s
  | .swapok a => Sys2Proof.Machine.execSwapok a s
  | .dpoint d a => Sys2Proof.Machine.execDpoint d a s
  | .rddig d a => Sys2Proof.Machine.execRddig d a s
  | .hAddi a j => Sys2Proof.Machine.execHAddi a j s
  | .hSeti a j => Sys2Proof.Machine.execHSeti a j s
  | .hCopy a b => Sys2Proof.Machine.execHCopy a b s
  | .hAdd a b => Sys2Proof.Machine.execHAdd a b s
  | .hSub a b => Sys2Proof.Machine.execHSub a b s
  | .hAnd a b => Sys2Proof.Machine.execHAnd a b s
  | .hShl a x => Sys2Proof.Machine.execHShl a x s
  | .hShr a x => Sys2Proof.Machine.execHShr a x s
  | .hLds a o => Sys2Proof.Machine.execHLds a o s
  | .hSds a o => Sys2Proof.Machine.execHSds a o s
  | .hBz a j => Sys2Proof.Machine.execHBz a j s
  | .hBnz a j => Sys2Proof.Machine.execHBnz a j s
  | .hJmp j => Sys2Proof.Machine.execHJmp j s
  | .hJreg a => Sys2Proof.Machine.execHJreg a s
  | .hCallr a => Sys2Proof.Machine.execHCallr a s
  | .hDone => Sys2Proof.Machine.execHDone s
  | .pageTableWalk w => Sys2Proof.Machine.execPageTableWalk w s
  | .taskStart core => Sys2Proof.Machine.execTaskStart core s
  | .firingStart core => Sys2Proof.Machine.execFiringStart core s
  | .messageAcceptance core m => Sys2Proof.Machine.execMessageAcceptance core m s
  | .refused core m noName => Sys2Proof.Machine.execRefused core m noName s
  | .refusedMessageResend core vn seq => Sys2Proof.Machine.execRefusedMessageResend core vn seq s
  | .withdrawal core module sender vn seq endpoint => Sys2Proof.Machine.execWithdrawal core module sender vn seq endpoint s
  | .hardwareMessageResend m => Sys2Proof.Machine.execHardwareMessageResend m s
  | .remoteStore r => Sys2Proof.Machine.execRemoteStore r s
  | .remoteLoad r => Sys2Proof.Machine.execRemoteLoad r s
  | .loadReply r => Sys2Proof.Machine.execLoadReply r s
  | .storeAcknowledgement core id => Sys2Proof.Machine.execStoreAcknowledgement core id s
  | .fullEmptyRequest r => Sys2Proof.Machine.execFullEmptyRequest r s
  | .fullEmptyResend r => Sys2Proof.Machine.execFullEmptyResend r s
  | .heldEntryTimeout r => Sys2Proof.Machine.execHeldEntryTimeout r s
  | .fullEmptyCancel r => Sys2Proof.Machine.execFullEmptyCancel r s
  | .amoRequest r => Sys2Proof.Machine.execAmoRequest r s
  | .amoReply r => Sys2Proof.Machine.execAmoReply r s
  | .decombineSplit octet idx v => Sys2Proof.Machine.execDecombineSplit octet idx v s
  | .amoLimitExpiry w => Sys2Proof.Machine.execAmoLimitExpiry w s
  | .pageLineCopy port slot => Sys2Proof.Machine.execPageLineCopy port slot s
  | .copyCommand m => Sys2Proof.Machine.execCopyCommand m s
  | .collectiveCommand m => Sys2Proof.Machine.execCollectiveCommand m s
  | .matrixCommand m => Sys2Proof.Machine.execMatrixCommand m s
  | .channelOperationStart core h => Sys2Proof.Machine.execChannelOperationStart core h s
  | .channelOperationComplete core h n => Sys2Proof.Machine.execChannelOperationComplete core h n s
  | .engineFault core e kind op => Sys2Proof.Machine.execEngineFault core e kind op s
  | .streamRefill core ctx slot => Sys2Proof.Machine.execStreamRefill core ctx slot s
  | .haloPush p => Sys2Proof.Machine.execHaloPush p s
  | .collectiveOperationStart core => Sys2Proof.Machine.execCollectiveOperationStart core s
  | .collectiveOperationComplete core => Sys2Proof.Machine.execCollectiveOperationComplete core s
  | .deposit d => Sys2Proof.Machine.execDeposit d s
  | .depositResend d => Sys2Proof.Machine.execDepositResend d s
  | .multicastDelivery d => Sys2Proof.Machine.execMulticastDelivery d s
  | .reducePartial p => Sys2Proof.Machine.execReducePartial p s
  | .partialResend p => Sys2Proof.Machine.execPartialResend p s
  | .reduceResult p => Sys2Proof.Machine.execReduceResult p s
  | .engineAcknowledgement core op => Sys2Proof.Machine.execEngineAcknowledgement core op s
  | .barrierArrival pid group core => Sys2Proof.Machine.execBarrierArrival pid group core s
  | .barrierRelease core group bgen => Sys2Proof.Machine.execBarrierRelease core group bgen s
  | .matrixCommandStart octet fill => Sys2Proof.Machine.execMatrixCommandStart octet fill s
  | .matrixCommandComplete octet fill n => Sys2Proof.Machine.execMatrixCommandComplete octet fill n s
  | .joinDelivery j => Sys2Proof.Machine.execJoinDelivery j s
  | .drainMessagePost core => Sys2Proof.Machine.execDrainMessagePost core s
  | .locatorCorrection octet name module core => Sys2Proof.Machine.execLocatorCorrection octet name module core s
  | .supervisorNotice n => Sys2Proof.Machine.execSupervisorNotice n s
  | .noticeResend n => Sys2Proof.Machine.execNoticeResend n s
  | .swapInstant pid => Sys2Proof.Machine.execSwapInstant pid s
  | .swapControl coreA coreB => Sys2Proof.Machine.execSwapControl coreA coreB s
  | .swapExchange coreA coreB => Sys2Proof.Machine.execSwapExchange coreA coreB s
  | .swapExchangeEnd coreA coreB => Sys2Proof.Machine.execSwapExchangeEnd coreA coreB s
  | .launchRequest m => Sys2Proof.Machine.execLaunchRequest m s
  | .launchStart pid stream => Sys2Proof.Machine.execLaunchStart pid stream s
  | .launchComplete pid num => Sys2Proof.Machine.execLaunchComplete pid num s
  | .launchEndByFault pid num cause tval path => Sys2Proof.Machine.execLaunchEndByFault pid num cause tval path s
  | .ratioWindowEnd octet => Sys2Proof.Machine.execRatioWindowEnd octet s
  | .alarmFire core ctx slot => Sys2Proof.Machine.execAlarmFire core ctx slot s
  | .deadlineTrap core ctx => Sys2Proof.Machine.execDeadlineTrap core ctx s
  | .waitDeadlineExpiry core ctx => Sys2Proof.Machine.execWaitDeadlineExpiry core ctx s
  | .waitTargetReached core ctx => Sys2Proof.Machine.execWaitTargetReached core ctx s
  | .regulatorRequestChange octet => Sys2Proof.Machine.execRegulatorRequestChange octet s
  | .phaseLoss rail => Sys2Proof.Machine.execPhaseLoss rail s
  | .supplyEmergency rail => Sys2Proof.Machine.execSupplyEmergency rail s
  | .emergencyClear rail => Sys2Proof.Machine.execEmergencyClear rail s
  | .retentionEntry octet => Sys2Proof.Machine.execRetentionEntry octet s
  | .gatingEntry octet => Sys2Proof.Machine.execGatingEntry octet s
  | .octetWake octet loss => Sys2Proof.Machine.execOctetWake octet loss s
  | .retentionTimedWake octet => Sys2Proof.Machine.execRetentionTimedWake octet s
  | .fltgenAdvance pid => Sys2Proof.Machine.execFltgenAdvance pid s
  | .fltkill pid lnum => Sys2Proof.Machine.execFltkill pid lnum s
  | .mxstatRecover core => Sys2Proof.Machine.execMxstatRecover core s
  | .svlocWrite pid v => Sys2Proof.Machine.execSvlocWrite pid v s
  | .stkcfgWrite core v => Sys2Proof.Machine.execStkcfgWrite core v s
  | .hostepWrite pid v => Sys2Proof.Machine.execHostepWrite pid v s
  | .resync k => Sys2Proof.Machine.execResync k s
  | .ctrsel k => Sys2Proof.Machine.execCtrsel k s
  | .ctrread k => Sys2Proof.Machine.execCtrread k s
  | .snaparm k => Sys2Proof.Machine.execSnaparm k s
  | .snapread k => Sys2Proof.Machine.execSnapread k s
  | .snapshotLatch => Sys2Proof.Machine.execSnapshotLatch s
  | .pcreate k => Sys2Proof.Machine.execPcreate k s
  | .pdestroy k => Sys2Proof.Machine.execPdestroy k s
  | .preempt k => Sys2Proof.Machine.execPreempt k s
  | .resume k => Sys2Proof.Machine.execResume k s
  | .brkhalt k => Sys2Proof.Machine.execBrkhalt k s
  | .attest k => Sys2Proof.Machine.execAttest k s
  | .idkey k => Sys2Proof.Machine.execIdkey k s
  | .fabricMessageReceive p => Sys2Proof.Machine.execFabricMessageReceive p s
  | .fabricAcknowledgement module vn num => Sys2Proof.Machine.execFabricAcknowledgement module vn num s
  | .fabricRetransmit module vn => Sys2Proof.Machine.execFabricRetransmit module vn s
  | .prosanFlitReceive port f => Sys2Proof.Machine.execProsanFlitReceive port f s
  | .linkDegrade port => Sys2Proof.Machine.execLinkDegrade port s
  | .linkTraining port peer => Sys2Proof.Machine.execLinkTraining port peer s
  | .linkKeyRenewal port => Sys2Proof.Machine.execLinkKeyRenewal port s
  | .hostCommand pid via l => Sys2Proof.Machine.execHostCommand pid via l s
  | .hostClassMessage m => Sys2Proof.Machine.execHostClassMessage m s
  | .rmaWrite pid key off data => Sys2Proof.Machine.execRmaWrite pid key off data s
  | .rmaRead pid key off words => Sys2Proof.Machine.execRmaRead pid key off words s
  | .sessionStart pid ct => Sys2Proof.Machine.execSessionStart pid ct s
  | .logStallExpiry pid site => Sys2Proof.Machine.execLogStallExpiry pid site s
  | .replayHoldExpiry pid site => Sys2Proof.Machine.execReplayHoldExpiry pid site s
  | .coldBoot wallNs image => Sys2Proof.Machine.execColdBoot wallNs image s
  | .bootFailureFrame => Sys2Proof.Machine.execBootFailureFrame s
  | .illegalInstruction w => Sys2Proof.Machine.execIllegalInstruction w s
  | .writeQueueEntryFree port => Sys2Proof.Machine.execWriteQueueEntryFree port s
  | .groupEntryUpdate r => Sys2Proof.Machine.execGroupEntryUpdate r s
  | .logReaderEntry pid => Sys2Proof.Machine.execLogReaderEntry pid s
  | .supplyChange clock khz => Sys2Proof.Machine.execSupplyChange clock khz s
  | .wallDiscipline ppm => Sys2Proof.Machine.execWallDiscipline ppm s
  | .unknownOp k => Sys2Proof.Machine.execUnknownOp k s

end Sys2Proof.Machine
end

