-- ==== Sys2Proof/Machine/Events.lean ====
section
/-! DEFINITION. The events of channels, timers and holds: each has the meaning of its constructor of Instr. -/

namespace Sys2Proof.Machine

/-- The meaning of an event: the one exec gives its constructor of Instr. -/
def runEv (e : Event) (s : State) : Host.Outcome State Fault Refusal :=
  match e with
  | .pageTableWalk w => execPageTableWalk w s
  | .taskStart core => execTaskStart core s
  | .firingStart core => execFiringStart core s
  | .messageAcceptance core m => execMessageAcceptance core m s
  | .refused core m noName => execRefused core m noName s
  | .refusedMessageResend core vn seq => execRefusedMessageResend core vn seq s
  | .withdrawal core module sender vn seq endpoint => execWithdrawal core module sender vn seq endpoint s
  | .hardwareMessageResend m => execHardwareMessageResend m s
  | .remoteStore r => execRemoteStore r s
  | .remoteLoad r => execRemoteLoad r s
  | .loadReply r => execLoadReply r s
  | .storeAcknowledgement core id => execStoreAcknowledgement core id s
  | .fullEmptyRequest r => execFullEmptyRequest r s
  | .fullEmptyResend r => execFullEmptyResend r s
  | .heldEntryTimeout r => execHeldEntryTimeout r s
  | .fullEmptyCancel r => execFullEmptyCancel r s
  | .amoRequest r => execAmoRequest r s
  | .amoReply r => execAmoReply r s
  | .decombineSplit octet idx v => execDecombineSplit octet idx v s
  | .amoLimitExpiry w => execAmoLimitExpiry w s
  | .pageLineCopy port slot => execPageLineCopy port slot s
  | .copyCommand m => execCopyCommand m s
  | .collectiveCommand m => execCollectiveCommand m s
  | .matrixCommand m => execMatrixCommand m s
  | .channelOperationStart core h => execChannelOperationStart core h s
  | .channelOperationComplete core h n => execChannelOperationComplete core h n s
  | .engineFault core e kind op => execEngineFault core e kind op s
  | .streamRefill core ctx slot => execStreamRefill core ctx slot s
  | .haloPush p => execHaloPush p s
  | .collectiveOperationStart core => execCollectiveOperationStart core s
  | .collectiveOperationComplete core => execCollectiveOperationComplete core s
  | .deposit d => execDeposit d s
  | .depositResend d => execDepositResend d s
  | .multicastDelivery d => execMulticastDelivery d s
  | .reducePartial p => execReducePartial p s
  | .partialResend p => execPartialResend p s
  | .reduceResult p => execReduceResult p s
  | .engineAcknowledgement core op => execEngineAcknowledgement core op s
  | .barrierArrival pid group core => execBarrierArrival pid group core s
  | .barrierRelease core group bgen => execBarrierRelease core group bgen s
  | .matrixCommandStart octet fill => execMatrixCommandStart octet fill s
  | .matrixCommandComplete octet fill n => execMatrixCommandComplete octet fill n s
  | .joinDelivery j => execJoinDelivery j s
  | .drainMessagePost core => execDrainMessagePost core s
  | .locatorCorrection octet name module core => execLocatorCorrection octet name module core s
  | .supervisorNotice n => execSupervisorNotice n s
  | .noticeResend n => execNoticeResend n s
  | .swapInstant pid => execSwapInstant pid s
  | .swapControl coreA coreB => execSwapControl coreA coreB s
  | .swapExchange coreA coreB => execSwapExchange coreA coreB s
  | .swapExchangeEnd coreA coreB => execSwapExchangeEnd coreA coreB s
  | .launchRequest m => execLaunchRequest m s
  | .launchStart pid stream => execLaunchStart pid stream s
  | .launchComplete pid num => execLaunchComplete pid num s
  | .launchEndByFault pid num cause tval path => execLaunchEndByFault pid num cause tval path s
  | .ratioWindowEnd octet => execRatioWindowEnd octet s
  | .alarmFire core ctx slot => execAlarmFire core ctx slot s
  | .deadlineTrap core ctx => execDeadlineTrap core ctx s
  | .waitDeadlineExpiry core ctx => execWaitDeadlineExpiry core ctx s
  | .waitTargetReached core ctx => execWaitTargetReached core ctx s
  | .regulatorRequestChange octet => execRegulatorRequestChange octet s
  | .phaseLoss rail => execPhaseLoss rail s
  | .supplyEmergency rail => execSupplyEmergency rail s
  | .emergencyClear rail => execEmergencyClear rail s
  | .retentionEntry octet => execRetentionEntry octet s
  | .gatingEntry octet => execGatingEntry octet s
  | .octetWake octet loss => execOctetWake octet loss s
  | .retentionTimedWake octet => execRetentionTimedWake octet s
  | .fltgenAdvance pid => execFltgenAdvance pid s
  | .fltkill pid lnum => execFltkill pid lnum s
  | .mxstatRecover core => execMxstatRecover core s
  | .svlocWrite pid v => execSvlocWrite pid v s
  | .stkcfgWrite core v => execStkcfgWrite core v s
  | .hostepWrite pid v => execHostepWrite pid v s
  | .resync k => execResync k s
  | .ctrsel k => execCtrsel k s
  | .ctrread k => execCtrread k s
  | .snaparm k => execSnaparm k s
  | .snapread k => execSnapread k s
  | .snapshotLatch => execSnapshotLatch s
  | .pcreate k => execPcreate k s
  | .pdestroy k => execPdestroy k s
  | .preempt k => execPreempt k s
  | .resume k => execResume k s
  | .brkhalt k => execBrkhalt k s
  | .attest k => execAttest k s
  | .idkey k => execIdkey k s
  | .fabricMessageReceive p => execFabricMessageReceive p s
  | .fabricAcknowledgement module vn num => execFabricAcknowledgement module vn num s
  | .fabricRetransmit module vn => execFabricRetransmit module vn s
  | .prosanFlitReceive port f => execProsanFlitReceive port f s
  | .linkDegrade port => execLinkDegrade port s
  | .linkTraining port peer => execLinkTraining port peer s
  | .linkKeyRenewal port => execLinkKeyRenewal port s
  | .hostCommand pid via l => execHostCommand pid via l s
  | .hostClassMessage m => execHostClassMessage m s
  | .rmaWrite pid key off data => execRmaWrite pid key off data s
  | .rmaRead pid key off words => execRmaRead pid key off words s
  | .sessionStart pid ct => execSessionStart pid ct s
  | .logStallExpiry pid site => execLogStallExpiry pid site s
  | .replayHoldExpiry pid site => execReplayHoldExpiry pid site s
  | .coldBoot wallNs image => execColdBoot wallNs image s
  | .bootFailureFrame => execBootFailureFrame s
  | .writeQueueEntryFree port => execWriteQueueEntryFree port s
  | .groupEntryUpdate r => execGroupEntryUpdate r s
  | .logReaderEntry pid => execLogReaderEntry pid s
  | .supplyChange clock khz => execSupplyChange clock khz s
  | .wallDiscipline ppm => execWallDiscipline ppm s
  | .unknownOp k => execUnknownOp k s

end Sys2Proof.Machine
end

