-- ==== Sys2Proof/Machine/Follow.lean ====
section
/-! DEFINITION. What follows a step on its own: serial order (R379), starts, deliveries, exchanges, launches and
pre-emptions that have come due. -/

namespace Sys2Proof.Machine

/-- The contexts of a SERIAL launch that have blocked are held from then on (R379). -/
def holdSerial (num : Nat) (c : Ctx) : Ctx :=
  if c.inLaunch num && !c.live then { c with serialHeld := true } else c

/-- The context of a place in the logical order goes on. -/
def runSerial (num : Nat) (at' : LogicalPlace) (c : Ctx) : Ctx :=
  if c.inLaunch num && c.live && c.serialHeld && orderOf c.path c.dkey == at' then { c with serialHeld := false } else c

/-- The next task of a SERIAL launch is let on (R379). -/
def State.serialTurn (s : State) (p : Partition) (num : Nat) : State :=
  let each (s : State) (f : Ctx → Ctx) : State :=
    { s with cores := s.cores.map fun q => (q.1, if p.hasCore q.1 then { q.2 with ctxs := q.2.ctxs.map f } else q.2) }
  let s := each s (holdSerial num)
  match s.serialNext p num with
  | some at' => each s (runSerial num at')
  | none => s

/-- A rule of a resident with the wall time at which the entries left beside a running firing's made it ready (R321, R326). -/
def Rule.note (u : Rule) (r : Resident) (wall : Nat) : Rule :=
  { u with since := if u.ready r then some (u.since.getD wall) else none }

/-- The entries that a core's running firing consumes (R326). -/
def Core.consuming (q : Core) : List (Nat × Nat) :=
  q.ctxs.toList.flatMap fun c => match c.run with | .firing _ _ counts => counts | _ => []

/-- When the rules of the core's resident became ready: the entries of a running firing are consumed. -/
def State.noteReady (s : State) (core : Nat) : State :=
  match (s.core core).resident with
  | none => s
  | some r =>
    let l := r.rules.map fun x => (x.1, x.2.note { r with ports := releasePorts r.ports (s.core core).consuming } s.wallUnits)
    if l = r.rules then s else s.modCore core fun q => { q with resident := some { r with rules := l } }

/-- A core that a replay's log lets start none of the tasks that wait is held by it, or ends the launch whose task the log
does not start next (R393, R395). -/
def State.watchStart (s : State) (core : Nat) : State :=
  let q := s.core core
  match q.freeCtx, s.partOf core with
  | some _, some (pid, p) =>
    match q.inbox.find? fun e => s.recMode pid e.msg.launch == 3 && s.startsTask core e.msg && !s.mayStart core pid p e.msg with
    | none => s
    | some e =>
      let key := taskKey e.msg
      match s.decide pid e.msg.launch core 8 1 key.toNat (2 ^ 46) [] key with
      | .fail t cause =>
        t.flyOnce core (seqPlace pid) 3 (.launchEndByFault pid e.msg.launch cause.toNat 0 (taskPath e.msg))
      | .hold t => if q.site.holds pid key then s else t
      | .go _ _ => s
  | _, _ => s

/-- What a replay's log has held at a place goes on once its entries stand at the head of the queue (R393). -/
def State.watchHeld (s : State) (place site : Nat) : State :=
  if (s.site site).queue.isEmpty then s else s.tryPlace place

/-- What a core has due: deliveries whose releases are complete, contexts that have ended, held messages that find room,
and the start of the next task or firing. -/
def State.followCore (s : State) (core : Nat) : State :=
  let q := s.core core
  let s := if q.joins.isEmpty then s else s.pumpJoins core
  let s := (List.range 8).foldl (fun s k =>
    let c := s.ctx core k
    if c.dying && c.pend.all (fun p => !p.isAmo) then s.freeCtx core k else s) s
  let s := if q.hold.isEmpty then s else s.moveHeld core
  let s := s.noteReady core
  let s := if q.waitTab.isEmpty then s else s.watchHeld core core
  let s := if q.pairing.isNone then s else s.kickSwap core
  match s.choice core with
  | some (.fire _) => s.flyOnce core core 3 (.firingStart core)
  | some _ => s.flyOnce core core 3 (.taskStart core)
  | none => if s.partRuns core then s.watchStart core else s

/-- What a partition's sequencer has due: launches that are over, and streams that can start one. -/
def State.followPart (s : State) (pid : Nat) : State :=
  match s.part pid with
  | none => s
  | some p =>
    if p.stage ≠ .running then s
    else
      let place := seqPlace pid
      let s := p.launches.foldl (fun s l =>
        if s.launchOver p l.num then s.flyOnce place place 3 (.launchComplete pid l.num) else s) s
      (List.range 4).foldl (fun s i =>
        if (p.startable i).isSome then s.flyOnce place place 3 (.launchStart pid i) else s) s

/-- The octets whose requested level has changed ask their regulator for it (R427). -/
def State.followOctet (s : State) (o : Nat) (x : Octet) : State :=
  if x.level = s.octetLevel o then s else s.flyOnce (octetPlace o) (octetPlace o) 3 (.regulatorRequestChange o)

/-- A memory port's held entries, in a replay. -/
def State.followPort (s : State) (port : Nat) : State :=
  if (s.port port).waitTab.isEmpty then s else s.watchHeld (portPlace port) (12288 + port)

/-- What follows every step. -/
def State.follow (s : State) : State :=
  let s := s.parts.foldl (fun s p => p.2.launches.foldl (fun s l => if l.mode = 4 then s.serialTurn p.2 l.num else s) s) s
  let s := s.cores.foldl (fun s q => s.followCore q.1) s
  let s := s.ports.foldl (fun s q => s.followPort q.1) s
  let s := s.octets.foldl (fun s o => s.followOctet o.1 o.2) s
  let s := s.parts.foldl (fun s p => s.followPart p.1) s
  s.parts.foldl (fun s p => s.followPreempt p.1) s

end Sys2Proof.Machine
end

