-- ==== Sys2Proof/Machine/Step.lean ====
section
/-! DEFINITION. One step of the module (log entry 1): what is due; else the next turn of the schedule; else, with no turn
left, the oldest flight, an instruction, or time. -/

namespace Sys2Proof.Machine

/-- An event may have made a blocked instruction ready: every one but the end of a ratio window. -/
def wakesCtxs : Event → Bool
  | .ratioWindowEnd _ => false
  | _ => true

/-- An event run, and what it may have made ready. -/
def stepEvent (e : Event) (s : State) : Host.Outcome State Fault Refusal :=
  match runEv e s with
  | .next t => .next (if wakesCtxs e then t.wakeAll else t).follow.markIdle
  | .fault f => .fault f
  | .refused r => .refused r

/-- The instruction that a fetch gives, run in the focus context. -/
def stepFetched (f : Fetched) (s : State) : Host.Outcome State Fault Refusal :=
  match f with
  | .trap c v => .next (s.trapHere c v)
  | .illegal w => execIllegalInstruction w s
  | .instr i => exec i s

/-- A context is chosen: its blocked instruction, if it has one, is looked at again. -/
def Ctx.retry (c : Ctx) : Ctx := { c with again := false, mode := if c.mode = .blocked then .ready else c.mode }

/-- An instruction of context k of core c issues: a due DEADLINE is taken first (R406). -/
def stepIssue (c k : Nat) (s : State) : Host.Outcome State Fault Refusal :=
  let s := ({ s with focusCore := c, focusCtx := k } : State).modCtx c k Ctx.retry
  match s.takeDeadline c k with
  | some t => .next (if (t.ctx c k).mode = .blocked then t else t.wakeAll).follow.markIdle
  | none =>
    match stepFetched (s.fetch c k) s with
    | .next t => .next (afterIssue s c k t).follow
    | .fault f => .fault f
    | .refused r => .refused r

/-- A turn of the schedule, the rest of the turns given. -/
def stepTurn (t : Turn) (rest : List Turn) (s : State) : Host.Outcome State Fault Refusal :=
  match t with
  | .issue c =>
    if s.coreRuns c || s.finishes c then
      if (s.core c).lastIssue = some (s.cycle c) then .next (s.elapse (s.toEdge c)).2
      else match s.choose c with
        | some k => stepIssue c k { s with turns := rest }
        | none => .next { s with turns := rest }
    else .next { s with turns := rest }
  | .deliver k =>
    match ({ s with turns := rest } : State).land k with
    | some (some e, t) => stepEvent e t
    | some (none, t) => .next t
    | none => .next { s with turns := rest }
  | .combine i j o => .next (({ s with turns := rest } : State).combine i j o)
  | .input e => if s.takes e then stepEvent e { s with turns := rest } else .next { s with turns := rest }
  | .upset u => .next (({ s with turns := rest } : State).upset u)
  | .elapse n =>
    let r := s.elapse n
    .next { r.2 with turns := if r.1 < n then .elapse (n - r.1) :: rest else rest }

/-- The default when the schedule has no turn left (log entry 1). -/
def stepIdle (s : State) : Host.Outcome State Fault Refusal :=
  match s.land 0 with
  | some (some e, t) => stepEvent e t
  | some (none, t) => .next t
  | none =>
    match s.nextIssue with
    | some (c, k) => stepIssue c k s
    | none => .next (s.elapse 16).2

/-- One step. -/
def step (s : State) : Host.Outcome State Fault Refusal :=
  match s.due with
  | some (e, t) => stepEvent e t
  | none =>
    match s.turns with
    | t :: rest => stepTurn t rest s
    | [] => stepIdle s

/-- The state with an instruction's bytes where the next step fetches, in context 0 of core 0, which runs a task at
supervisor privilege in partition 0 (the whole die), and nothing due before it (log entry 2). -/
def State.withFetchWord (s : State) (nbits w : Nat) : State :=
  s.placeWord (tableBytes nbits w)

end Sys2Proof.Machine
end

