-- ==== Sys2Proof/Safety.lean ====
section
/-! DEFINITION. The terms that statements use: which operands an instruction can read, how an instruction that completes
leaves its context, and the invariants of the state. -/

namespace Sys2Proof.Machine

/-! ## Operands -/

/-- A source register that reads as stored: x0, or a register with no bound stream (R146), no outstanding result (R205)
and no mark (R93, R106). -/
def Ctx.Plain (c : Ctx) (r : Reg) : Prop :=
  r = 0 ∨ (c.bound (xSlot r) = none ∧ c.pending r = false ∧ findMark r c.marks = none)

/-- A vector source register that reads as stored: no stream is bound to it. -/
def Ctx.PlainV (c : Ctx) (r : VReg) : Prop := c.bound (vSlot r) = none

/-- The state after the focus context pops slot i, which holds the stream t (R146, R147). -/
def State.popped (s : State) (i : Fin 6) (t : Stream) : State :=
  (s.modF fun c => c.setStream i (some { t with pos := t.pos + 1, ahead := t.ahead.tail })).kickStream
    s.focusCore s.focusCtx i.val

/-- Reading x[r] in a state gives v and leaves a state: a plain register reads as stored, a bound stream register pops
the element its port has read. -/
inductive Reads (s : State) (r : Reg) : Word → State → Prop
  | plain (h : s.fctx.Plain r) : Reads s r (s.fctx.getX r) s
  | pop (i : Fin 6) (t : Stream) (v : VWord) (rest : List (Option VWord)) (h : xSlot r = some i)
      (hb : s.fctx.bound (some i) = some t) (hp : t.pos < t.length) (ha : t.ahead = some v :: rest) :
      Reads s r (v.truncate 64) (s.popped i t)

/-- Reading v[r] in a state gives a value and leaves a state. -/
inductive ReadsV (s : State) (r : VReg) : VWord → State → Prop
  | plain (h : s.fctx.PlainV r) : ReadsV s r (s.fctx.getV r) s
  | pop (i : Fin 6) (t : Stream) (v : VWord) (rest : List (Option VWord)) (h : vSlot r = some i)
      (hb : s.fctx.bound (some i) = some t) (hp : t.pos < t.length) (ha : t.ahead = some v :: rest) :
      ReadsV s r v (s.popped i t)

/-- Reading several x registers, in order. -/
inductive ReadsAll : State → List Reg → List Word → State → Prop
  | nil (s : State) : ReadsAll s [] [] s
  | cons {s t u : State} {r : Reg} {v : Word} {l : List Reg} {vs : List Word} (h : Reads s r v t)
      (ht : ReadsAll t l vs u) : ReadsAll s (r :: l) (v :: vs) u

/-! ## Vectors -/

/-- Lane k of a v register, of w bits (R258). -/
def lane (w k : Nat) (v : VWord) : BitVec w := v.extractLsb' (w * k) w

/-- An address of the own-core form with a multiple of the alignment (R259), whose word is not poisoned. -/
structure State.VecOk (s : State) (va : Word) (align : Nat) : Prop where
  form : va.extractLsb' 16 48 = 0xFC0000000000
  aligned : va.toNat % align = 0
  sound : s.poisoned (localKey s.focusCore (va.toNat % 65536)) = false

/-- The key of the own local memory that an own-core address names. -/
def State.ownKey (s : State) (va : Word) : Nat := localKey s.focusCore (va.toNat % 65536)

/-! ## Features -/

/-- The feature that an instruction needs first (R57). -/
def featureOf : Instr → Option Feature
  | .hAddi _ _ => some .c16 | .hSeti _ _ => some .c16 | .hCopy _ _ => some .c16 | .hAdd _ _ => some .c16
  | .hSub _ _ => some .c16 | .hAnd _ _ => some .c16 | .hShl _ _ => some .c16 | .hShr _ _ => some .c16
  | .hLds _ _ => some .c16 | .hSds _ _ => some .c16 | .hBz _ _ => some .c16 | .hBnz _ _ => some .c16
  | .hJmp _ => some .c16 | .hJreg _ => some .c16 | .hCallr _ => some .c16 | .hDone => some .c16
  | .fadd _ _ _ _ _ => some .fp | .fsub _ _ _ _ _ => some .fp | .fmul _ _ _ _ _ => some .fp | .fdiv _ _ _ _ _ => some .fp
  | .fsqrt _ _ _ _ => some .fp | .fmin _ _ _ _ => some .fp | .fmax _ _ _ _ => some .fp | .fsgcpy _ _ _ _ => some .fp
  | .fsgneg _ _ _ _ => some .fp | .fsgxor _ _ _ _ => some .fp | .feq _ _ _ _ => some .fp | .flt _ _ _ _ => some .fp
  | .fle _ _ _ _ => some .fp | .fclass _ _ _ => some .fp | .frcpe _ _ _ => some .fp | .frsqe _ _ _ => some .fp
  | .fma _ _ _ _ _ => some .fp | .fms _ _ _ _ _ => some .fp | .fnma _ _ _ _ _ => some .fp | .fnms _ _ _ _ _ => some .fp
  | .fcvtI _ _ _ _ _ => some .fp | .fcvtF _ _ _ _ _ => some .fp | .fcvtFf _ _ _ _ _ => some .fp
  | .vadd _ _ _ _ => some .vec | .vsub _ _ _ _ => some .vec | .vmul _ _ _ _ => some .vec | .vand _ _ _ _ => some .vec
  | .vor _ _ _ _ => some .vec | .vxor _ _ _ _ => some .vec | .vsll _ _ _ _ => some .vec | .vsrl _ _ _ _ => some .vec
  | .vsra _ _ _ _ => some .vec | .vfadd _ _ _ _ => some .vec | .vfsub _ _ _ _ => some .vec | .vfmul _ _ _ _ => some .vec
  | .vfdiv _ _ _ _ => some .vec | .vfmin _ _ _ _ => some .vec | .vfmax _ _ _ _ => some .vec | .vrcpe _ _ => some .vec
  | .vrsqe _ _ => some .vec | .vfma _ _ _ _ _ => some .vec | .vfnma _ _ _ _ _ => some .vec | .vld _ _ _ => some .vec
  | .vst _ _ _ => some .vec | .vlds _ _ _ => some .vec | .vsts _ _ _ => some .vec | .vgath _ _ _ => some .vec
  | .vscat _ _ _ => some .vec | .vbcast _ _ _ => some .vec | .vext _ _ _ _ => some .vec | .vins _ _ _ _ => some .vec
  | .vsel _ _ _ _ => some .vec | .vcmp _ _ _ _ => some .vec | .vred _ _ _ => some .vec | .vperm _ _ _ _ => some .vec
  | .vcvt _ _ _ => some .vec | .vpack _ _ _ => some .vec | .vunpk _ _ _ => some .vec
  | .mma _ _ _ _ _ => some .mat | .accz _ _ => some .mat | .accld _ _ _ => some .mat | .accst _ _ _ => some .mat
  | .accmv _ _ => some .mat | .wbld _ _ _ _ => some .mat
  | .cpyin _ _ _ _ _ => some .cpy | .cpyout _ _ _ _ _ => some .cpy | .cpyll _ _ _ _ _ => some .cpy
  | .cstat _ _ => some .cpy | .shpchk _ _ => some .cpy | .sbind _ _ => some .cpy | .sunb _ => some .cpy
  | .qcnt _ _ => some .cpy | .sbindV _ _ => some .cpy | .sunbV _ => some .cpy | .qcntV _ _ => some .cpy
  | .xchg _ _ _ => some .coll | .mcast _ _ _ _ _ => some .coll | .mcastWin _ _ _ _ _ => some .coll
  | .reduce _ _ _ _ _ => some .coll | .halo _ _ _ => some .coll | .gjoin _ _ _ => some .coll | .gleave _ _ => some .coll
  | .ginfo _ _ _ => some .coll | .garr _ _ => some .coll | .gbar _ _ => some .coll | .gwait _ _ => some .coll
  | .swapok _ => some .smalt | .dpoint _ _ => some .madder | .rddig _ _ => some .madder
  | .pgmove _ _ _ => some .pgm
  | _ => none

/-! ## Memory accesses -/

/-- Where an aligned access of w bytes goes when nothing stops it: to a core's local memory by a core form (R65), or
through an entry of the core's DTLB that permits it (R74, R77). -/
inductive Resolves (s : State) (va : Word) (w : Nat) (k : Access) : Dest → Prop
  | core (c o : Nat) (h : target s.fpart s.focusCore va = some (.here c o)) (ha : va.toNat % w = 0) :
      Resolves s va w k ⟨s.module, localKey c o, false, false⟩
  | page (pte : Word) (big : Bool) (h : target s.fpart s.focusCore va = some (.virt va)) (ha : va.toNat % w = 0)
      (he : s.fpart.ptEn = true) (hl : tlbFind (s.pidOf s.focusCore) va s.fcore.dtlb = some (pte, big))
      (hp : permits pte k = true) : Resolves s va w k (leafDest pte big va)

/-- The memory forms of one access: the source registers in the order they are read, the base first; the offset, the
width and the kind of the access. -/
def memForm : Instr → Option (List Reg × Word × Nat × Access)
  | .lb _ a i => some ([a], i.signExtend 64, 1, .read)
  | .lh _ a i => some ([a], i.signExtend 64, 2, .read)
  | .lw _ a i => some ([a], i.signExtend 64, 4, .read)
  | .ld _ a i => some ([a], i.signExtend 64, 8, .read)
  | .lbu _ a i => some ([a], i.signExtend 64, 1, .read)
  | .lhu _ a i => some ([a], i.signExtend 64, 2, .read)
  | .lwu _ a i => some ([a], i.signExtend 64, 4, .read)
  | .ldacq _ a i => some ([a], i.signExtend 64, 8, .read)
  | .sb d a i => some ([a, d], i.signExtend 64, 1, .write)
  | .sh d a i => some ([a, d], i.signExtend 64, 2, .write)
  | .sw d a i => some ([a, d], i.signExtend 64, 4, .write)
  | .sd d a i => some ([a, d], i.signExtend 64, 8, .write)
  | .sdrel d a i => some ([a, d], i.signExtend 64, 8, .write)
  | .ldf _ a o b => some ([a, b], o.signExtend 64 * 8, 8, .fullEmpty)
  | .ldfe _ a o b => some ([a, b], o.signExtend 64 * 8, 8, .fullEmpty)
  | .stf d a o b => some ([a, b, d], o.signExtend 64 * 8, 8, .fullEmpty)
  | .ste d a i => some ([a, d], i.signExtend 64, 8, .fullEmpty)
  | .sete a i => some ([a], i.signExtend 64, 8, .fullEmpty)
  | .probe _ a i => some ([a], i.signExtend 64, 8, .fullEmpty)
  | .amoadd w _ a b => some ([a, b], 0, if w then 4 else 8, .amo)
  | .amoand w _ a b => some ([a, b], 0, if w then 4 else 8, .amo)
  | .amoor w _ a b => some ([a, b], 0, if w then 4 else 8, .amo)
  | .amoxor w _ a b => some ([a, b], 0, if w then 4 else 8, .amo)
  | .amomin w _ a b => some ([a, b], 0, if w then 4 else 8, .amo)
  | .amomax w _ a b => some ([a, b], 0, if w then 4 else 8, .amo)
  | .amominu w _ a b => some ([a, b], 0, if w then 4 else 8, .amo)
  | .amomaxu w _ a b => some ([a, b], 0, if w then 4 else 8, .amo)
  | .amoswap w _ a b => some ([a, b], 0, if w then 4 else 8, .amo)
  | .amocas w _ a b c => some ([a, b, c], 0, if w then 4 else 8, .amo)
  | .redadd w a b => some ([a, b], 0, if w then 4 else 8, .amo)
  | .redand w a b => some ([a, b], 0, if w then 4 else 8, .amo)
  | .redor w a b => some ([a, b], 0, if w then 4 else 8, .amo)
  | .redxor w a b => some ([a, b], 0, if w then 4 else 8, .amo)
  | .redmin w a b => some ([a, b], 0, if w then 4 else 8, .amo)
  | .redmax w a b => some ([a, b], 0, if w then 4 else 8, .amo)
  | .redminu w a b => some ([a, b], 0, if w then 4 else 8, .amo)
  | .redmaxu w a b => some ([a, b], 0, if w then 4 else 8, .amo)
  | _ => none

/-- The focus context waits for nothing: no result, posted store or barrier set of its own is outstanding, its core's
store buffer is empty, and no exchange of residents is under way at its core. -/
structure State.Clear (s : State) : Prop where
  pend : s.fctx.pend = []
  posted : s.fctx.posted = []
  fences : s.fctx.fences = []
  sb : s.fcore.sb = []
  exch : s.fcore.exch = none

/-- A request for a key is performed on its arrival at its home: nothing there holds it back (R92, R312, R349, R433). It is
performed at the key k: its own, or the one to which a page move has taken its line (R79). -/
def State.Arrives (s : State) (key pid : Nat) (e : Event) (k : Nat) : Prop := s.onward key pid e = .inr k

/-- The n bytes of the hardware's own tables from a key lie on this module where their key says, no line of them is on its way
to another module and no store of the hardware to them waits; and no event waits for a read on another module (R79). -/
structure State.Settled (s : State) (key n : Nat) : Prop where
  home : ∀ o, o < n → s.homeNow (key + o) = (s.module, key + o)
  steady : ∀ o, o < n → s.steady (key + o) = true
  reads : s.farReads = []

/-! ## Completion -/

/-- A context past an instruction of n bytes. -/
def Ctx.past (n : Nat) (c : Ctx) : Ctx :=
  { c with pc := c.pc + BitVec.ofNat 64 n, wait := none, waitTarget := none, issued := c.issued + 1 }

/-- A context that has jumped to t. -/
def Ctx.jumped (t : Word) (c : Ctx) : Ctx := { c with pc := t, wait := none, waitTarget := none, issued := c.issued + 1 }

/-- The focus context changed by f and past an instruction of n bytes: the whole effect of an instruction that touches
nothing but its own context. -/
def State.done (s : State) (n : Nat) (f : Ctx → Ctx) : State := s.modF fun c => (f c).past n

/-- The focus context takes a trap, at once (R297). -/
def State.trapped (s : State) (c : BitVec 8) (v : Word) : State := s.takeTrap s.focusCore s.focusCtx c v

/-- The focus context has a handler and is not in it (R404). -/
def State.CanTrap (s : State) : Prop := s.fctx.ih = false ∧ s.fctx.tvec ≠ 0

/-! ## Messages and engine commands -/

/-- A message whose acceptance sets nothing else off: hardware built it, another module sent it, or its sender's queues hold
no other message. -/
def State.Alone (s : State) (m : Message) : Prop :=
  m.side.hardware = true ∨ m.side.endpoint = 0 ∧ (m.smod ≠ s.module ∨
    ∀ v, v < 3 → ∀ e ∈ (s.core (senderOf m)).sq v, v = m.vn ∧ e.msg.seq = m.seq)

/-- A local range at an own-core address of an alignment (R65). -/
def ownSpan (va : Word) (align n : Nat) : Prop :=
  va.extractLsb' 16 48 = 0xFC0000000000 ∧ va.toNat % align = 0 ∧ va.toNat % 65536 + n ≤ 65536

/-- A command issued to an engine context from a state r (R118): numbered, queued, its number in x[d], J counted (R381);
nothing else of the focus context and no memory changed. -/
structure Issued (r t : State) (n : Eng) (d : Reg) (cmd : Cmd) : Prop where
  queued : ∃ o, (t.fcore.engine n).queue = (r.fcore.engine n).queue ++ [o] ∧ o.num = (r.fcore.engine n).i + 1
    ∧ o.cmd = cmd ∧ o.started = false ∧ o.owner.ctx = r.focusCtx
  number : (t.fcore.engine n).i = (r.fcore.engine n).i + 1
  timeline : (t.fcore.engine n).c = (r.fcore.engine n).c
  ctx : t.fctx = (({ r.fctx with dordJ := r.fctx.dordJ + 1 } : Ctx).result d
    (BitVec.ofNat 64 ((r.fcore.engine n).i + 1))).past 4
  mem : t.mem = r.mem

/-! ## Groups -/

/-- The state after the focus context takes the reply that a group's entry has sent it. -/
def State.replied (s : State) : State := s.modF fun c => { c with groupReply := none }

/-- A local range of a core without a poisoned word, n words from a key. -/
def State.Sound (s : State) (key n : Nat) : Prop := ∀ j, j < n → s.poisoned (key + 8 * j) = false

/-- The n words from a key. -/
def State.wordsAt (s : State) (key n : Nat) : List Word := (List.range n).map fun j => s.word (key + 8 * j)

/-- The focus context asks the home of a group's entry, and waits: nothing else of it and no memory changes. -/
def Asks (r t : State) (g : Nat) (ask : GroupAsk) : Prop :=
  ∃ id, t.fctx = { r.fctx with mode := .waiting, req := some (.group id) } ∧ t.mem = r.mem
    ∧ t.flights = r.flights ++ [⟨r.focusCore, portPlace (portOf (r.fpart.groupKey g)), 0,
        .groupEntryUpdate ⟨⟨r.module, r.focusCore, r.focusCtx, id⟩, r.pidOf r.focusCore, g, ask⟩, [], false⟩]

/-! ## Waits -/

/-- The focus context's launch neither records nor replays (R380). -/
def State.Unlogged (s : State) : Prop :=
  s.fctx.lmode ≠ 2 ∧ s.fctx.lmode ≠ 3 ∧ s.recMode (s.pidOf s.focusCore) s.fctx.lnum.toNat ≠ 3

/-- A wait of the focus context of state s has ended: from a state r it has gone on, with TO as given, k events counted,
and registers changed by f. -/
def State.waited (s r : State) (tmo : Bool) (k : BitVec 32) (f : Ctx → Ctx) : State :=
  r.done 4 fun c => f { c with waitBack := s.fctx.streams, tmo := tmo, dordE := c.dordE + k }

/-- The focus context waits on: its pc and its registers are as they were. -/
def State.StillWaits (s t : State) : Prop :=
  t.fctx.mode ≠ .ready ∧ t.fctx.pc = s.fctx.pc ∧ t.fctx.x = s.fctx.x ∧ t.fctx.wait ≠ none ∧ t.mem = s.mem

/-- A message of the partition's own key that nothing holds back at its core, and that no table refuses. -/
structure Welcome (s : State) (core : Nat) (m : Message) : Prop where
  free : s.heldBack core (s.msgPid m) (.messageAcceptance core m) = none
  open' : m.vn = 0 → s.heldStop core (.messageAcceptance core m) = none
  key : s.keyOk core m = true
  inner : s.forHost core m = false
  named : m.kind = 1 → (s.core core).hosts m.dest = true
  still : (s.core core).exch = none
  table : tableRefuses (s.core core).refTab m = false
  order : s.behindBuilt m = false
  next : overtakes (s.core core).refused m = false
  last : s.holdBehind core m (.messageAcceptance core m) = none
  mode : s.recMode (s.pidOf core) m.launch ≠ 3
  alone : s.Alone m

/-! ## Homes -/

/-- The request of a context of the own module to a word that is free at its home, in a launch that neither records nor
replays. -/
structure State.Serves (s : State) (key pid launch : Nat) (e : Event) (w : Who) (k : Nat) : Prop where
  arrives : s.Arrives key pid e k
  own : w.module = s.module
  plain : s.recMode pid launch = 0

/-! ## Launches -/

/-- A message of class 0x0B for a core is on its way with a payload. -/
def State.Reports (t : State) (core : Nat) (words : List Word) : Prop :=
  ∃ f ∈ t.flights, ∃ m, eventMessage f.ev = some m ∧ m.cls = 0x0B ∧ m.dest = core ∧ m.payload = words

/-! ## Control registers -/

/-- The focus core belongs to a partition, and its number and registers are p's. -/
def State.InPart (s : State) (pid : Nat) (p : Partition) : Prop := s.partOf s.focusCore = some (pid, p) ∧ s.part pid = some p

/-- The plain control registers: the number, and the mask of its RW bits; the other bits of these are RO or reserved. -/
def plainCtl : List (Nat × Word) :=
  [(0x000, 0x14), (0x001, 0xFF), (0x002, 0xFFFFFFFFFFFFFFFF), (0x003, 0xFFFFFFFFFFFFFFFF), (0x004, 0x3FFE),
    (0x020, 0xFF), (0x021, 0xFFFFFFFFFFFFFFFF), (0x022, 0x3FFFF), (0x033, 0), (0x040, 0), (0x041, 0), (0x042, 0), (0x043, 0),
    (0x050, 0), (0x051, 0), (0x070, 0), (0x071, 0), (0x078, 0), (0x079, 0), (0x07C, 0), (0xC10, 0x7FF),
    (0xC20, 0xFFFFFFFF0001), (0xC30, 0xFFFFFFFF1FFF), (0xC40, 0xFFFFFFFF0001), (0xC60, 0xFFFFFFFF0F01),
    (0xC71, 0xFFFFFFFF00000000), (0xC75, 0xFFFFFFFF0000), (0xC80, 0x77777), (0xC81, 0xFFFF0000FFFF), (0xC82, 0), (0xC91, 0),
    (0xC92, 0), (0xCA0, 0), (0xCA7, 0), (0xCC1, 0xFFFFFFFF0FFF)]

/-- A register that CRR reads as it stands: no value of time (R218). -/
def untimed (n : BitVec 12) : Prop := n ≠ 0x030 ∧ n ≠ 0x031 ∧ n ≠ 0x032

/-! ## Umber -/

/-- Umber's answer to a command: its OP and tag, a status, flags, and up to seven result words (R457). -/
def answer (k : Command) (status flags : Nat) (results : List Word) : HostOut :=
  let w : Word := k.words.getD 0 0
  .answer ((w.extractLsb' 32 32 ++ BitVec.ofNat 8 0 ++ BitVec.ofNat 8 flags ++ BitVec.ofNat 8 status ++ w.extractLsb' 0 8)
    :: (results ++ List.replicate 7 0).take 7)

/-- A command whose first word is of an OP, with no reserved bit set. -/
def asksOp (op : BitVec 8) (k : Command) : Prop :=
  (k.words.getD 0 0).extractLsb' 0 8 = op ∧ (k.words.getD 0 0).extractLsb' 8 24 = 0

/-- The state with one more thing sent to the host. -/
def State.tells (s : State) (o : HostOut) : State := { s with hostOut := s.hostOut ++ [o] }

end Sys2Proof.Machine
end

