-- ==== Sys2Proof/Certificates/Slice0/Obligations.lean ====
section
/-! DEFINITION. The statements for the provers, in the order of the families of the opcode table; the last ones are about
registers, memory, the step and the encoding as a whole. -/

open Sys2Proof Sys2Proof.Machine

/-- Integer arithmetic: every operation writes its table's value to x[rd] and changes nothing else.
R209, the two-operand operations: each writes the table's value to x[rd] and goes on, with no trap and nothing else
changed but what reading its sources pops.
R209, the one-operand operations: counts of zeros and ones, byte reversal and extensions.
R210: the operations on a sign-extended immediate, the shifts by a constant, LUI and ADDPC. -/
def Obligations.IntegerOperationsGiveTheTableValues : Prop :=
  (∀ (d a b : Reg) (s s1 s2 : State) (x y : Word), Reads s a x s1 → Reads s1 b y s2 →
      let gives (i : Instr) (v : Word) : Prop := exec i s = .next (s2.done 4 fun c => c.result d v)
      let product (p : Int) : Word := BitVec.ofInt 64 (p / 2 ^ 64)
      gives (.add d a b) (x + y) ∧ gives (.sub d a b) (x - y)
      ∧ gives (.and d a b) (x &&& y) ∧ gives (.or d a b) (x ||| y) ∧ gives (.xor d a b) (x ^^^ y)
      ∧ gives (.andn d a b) (x &&& ~~~y) ∧ gives (.orn d a b) (x ||| ~~~y) ∧ gives (.xnor d a b) (~~~(x ^^^ y))
      ∧ gives (.sll d a b) (x <<< (y.extractLsb' 0 6).toNat) ∧ gives (.srl d a b) (x >>> (y.extractLsb' 0 6).toNat)
      ∧ gives (.sra d a b) (x.sshiftRight (y.extractLsb' 0 6).toNat)
      ∧ gives (.rol d a b) (x.rotateLeft (y.extractLsb' 0 6).toNat)
      ∧ gives (.ror d a b) (x.rotateRight (y.extractLsb' 0 6).toNat)
      ∧ gives (.slt d a b) (if x.toInt < y.toInt then 1 else 0) ∧ gives (.sltu d a b) (if x.toNat < y.toNat then 1 else 0)
      ∧ gives (.min d a b) (if x.toInt ≤ y.toInt then x else y) ∧ gives (.max d a b) (if x.toInt ≤ y.toInt then y else x)
      ∧ gives (.minu d a b) (if x.toNat ≤ y.toNat then x else y) ∧ gives (.maxu d a b) (if x.toNat ≤ y.toNat then y else x)
      ∧ gives (.addw d a b) (((x + y).extractLsb' 0 32).signExtend 64)
      ∧ gives (.subw d a b) (((x - y).extractLsb' 0 32).signExtend 64)
      ∧ gives (.sllw d a b) ((x.extractLsb' 0 32 <<< (y.extractLsb' 0 5).toNat).signExtend 64)
      ∧ gives (.srlw d a b) ((x.extractLsb' 0 32 >>> (y.extractLsb' 0 5).toNat).signExtend 64)
      ∧ gives (.sraw d a b) (((x.extractLsb' 0 32).sshiftRight (y.extractLsb' 0 5).toNat).signExtend 64)
      ∧ gives (.mul d a b) (BitVec.ofInt 64 (x.toInt * y.toInt)) ∧ gives (.mulh d a b) (product (x.toInt * y.toInt))
      ∧ gives (.mulhu d a b) (product (x.toNat * y.toNat)) ∧ gives (.mulhsu d a b) (product (x.toInt * y.toNat))
      ∧ gives (.div d a b) (if y = 0 then BitVec.ofInt 64 (-1) else if x.toInt = -2 ^ 63 ∧ y.toInt = -1 then x
          else BitVec.ofInt 64 (x.toInt.tdiv y.toInt))
      ∧ gives (.divu d a b) (if y = 0 then BitVec.ofInt 64 (-1) else BitVec.ofNat 64 (x.toNat / y.toNat))
      ∧ gives (.rem d a b) (if y = 0 then x else if x.toInt = -2 ^ 63 ∧ y.toInt = -1 then 0
          else BitVec.ofInt 64 (x.toInt - y.toInt * x.toInt.tdiv y.toInt))
      ∧ gives (.remu d a b) (if y = 0 then x else BitVec.ofNat 64 (x.toNat - y.toNat * (x.toNat / y.toNat))))
  ∧ (∀ (d a : Reg) (s s1 : State) (x : Word), Reads s a x s1 →
      let gives (i : Instr) (v : Word) : Prop := exec i s = .next (s1.done 4 fun c => c.result d v)
      (∃ n, n ≤ 64 ∧ gives (.clz d a) (BitVec.ofNat 64 n) ∧ (∀ j, j < n → x.getLsbD (63 - j) = false)
        ∧ (n < 64 → x.getLsbD (63 - n) = true))
      ∧ (∃ n, n ≤ 64 ∧ gives (.ctz d a) (BitVec.ofNat 64 n) ∧ (∀ j, j < n → x.getLsbD j = false)
        ∧ (n < 64 → x.getLsbD n = true))
      ∧ gives (.popc d a) (BitVec.ofNat 64 ((List.range 64).filter fun j => x.getLsbD j).length)
      ∧ (∃ v, gives (.bswap d a) v ∧ ∀ k, k < 8 → v.extractLsb' (8 * k) 8 = x.extractLsb' (8 * (7 - k)) 8)
      ∧ gives (.sextb d a) ((x.extractLsb' 0 8).signExtend 64) ∧ gives (.sexth d a) ((x.extractLsb' 0 16).signExtend 64)
      ∧ gives (.zextw d a) ((x.extractLsb' 0 32).setWidth 64))
  ∧ (∀ (d a : Reg) (i : BitVec 15) (h : BitVec 6) (u : BitVec 20) (s s1 : State) (x : Word), Reads s a x s1 →
      let k : Word := i.signExtend 64
      let gives (i : Instr) (v : Word) : Prop := exec i s = .next (s1.done 4 fun c => c.result d v)
      gives (.addi d a i) (x + k) ∧ gives (.andi d a i) (x &&& k) ∧ gives (.ori d a i) (x ||| k)
      ∧ gives (.xori d a i) (x ^^^ k) ∧ gives (.slti d a i) (if x.toInt < i.toInt then 1 else 0)
      ∧ gives (.sltiu d a i) (if x.toNat < k.toNat then 1 else 0)
      ∧ gives (.addiw d a i) (((x + k).extractLsb' 0 32).signExtend 64)
      ∧ gives (.slli d a h) (x <<< h.toNat) ∧ gives (.srli d a h) (x >>> h.toNat)
      ∧ gives (.srai d a h) (x.sshiftRight h.toNat)
      ∧ exec (.lui d u) s = .next (s.done 4 fun c => c.result d (BitVec.ofInt 64 (u.toInt * 4096)))
      ∧ exec (.addpc d u) s = .next (s.done 4 fun c => c.result d (s.fctx.pc + BitVec.ofInt 64 (u.toInt * 4096))))

/-- ADDX2, ADDX4, ADDX8, LCA, LCR and LCX form and convert addresses, or trap ACCESS.
R211 and R212: scaled index addition never traps; LCA forms an own-core address from an offset below 65,536, and traps
ACCESS with the offset otherwise.
R213: LCR converts a core-form address that passes R65's checks into the own-core, relative or absolute form, LCX takes it
apart; what is no such address, or a form that cannot be, traps ACCESS. -/
def Obligations.AddressesAreFormedAndConverted : Prop :=
  ((∀ (d a b : Reg) (s s1 s2 : State) (x y : Word), Reads s a x s1 → Reads s1 b y s2 →
      let gives (i : Instr) (v : Word) : Prop := exec i s = .next (s2.done 4 fun c => c.result d v)
      gives (.addx2 d a b) (x * 2 + y) ∧ gives (.addx4 d a b) (x * 4 + y) ∧ gives (.addx8 d a b) (x * 8 + y))
    ∧ (∀ (d a : Reg) (i : BitVec 14) (s s1 : State) (x : Word), Reads s a x s1 →
      let o : Word := x + i.setWidth 64
      (o.toNat < 65536 → exec (.lca d a i) s = .next (s1.done 4 fun c => c.result d (0xFC00000000000000 + o)))
      ∧ (65536 ≤ o.toNat → exec (.lca d a i) s = .next (s.trapped 0x05 o))))
  ∧ (∀ (d a b : Reg) (s s1 s2 : State) (x y : Word), Reads s a x s1 → Reads s1 b y s2 →
      (∀ (n o : Nat), coreForm s.fpart s.focusCore x = some (n, o) →
        let dx : Int := (n % 192 : Nat) - ((s.focusCore % 192 : Nat) : Int)
        let dy : Int := (n / 192 : Nat) - ((s.focusCore / 192 : Nat) : Int)
        let near : Prop := -128 ≤ dx ∧ dx ≤ 127 ∧ -128 ≤ dy ∧ dy ≤ 127
        let gives (v : Nat) : Prop := exec (.lcr d a b) s = .next (s2.done 4 fun c => c.result d (BitVec.ofNat 64 v))
        (y = 0 → n = s.focusCore → gives (0xFC00000000000000 + o))
        ∧ (y = 0 → n ≠ s.focusCore → exec (.lcr d a b) s = .next (s.trapped 0x05 x))
        ∧ (y = 1 → near → gives (0xFD00000000000000 + (dy % 256).toNat * 2 ^ 48 + (dx % 256).toNat * 2 ^ 40 + o))
        ∧ (y = 1 → ¬ near → exec (.lcr d a b) s = .next (s.trapped 0x05 x))
        ∧ (y = 2 → gives (0xFE00000000000000 + n / 192 * 2 ^ 48 + n % 192 * 2 ^ 40 + o))
        ∧ (2 < y.toNat → exec (.lcr d a b) s = .next (s.trapped 0x05 y))
        ∧ exec (.lcx d a) s = .next (s1.done 4 fun c => c.result d
            (BitVec.ofNat 64 (o + n % 192 * 2 ^ 16 + n / 192 * 2 ^ 24 + if n = s.focusCore then 2 ^ 32 else 0))))
      ∧ (coreForm s.fpart s.focusCore x = none → exec (.lcr d a b) s = .next (s.trapped 0x05 x) ∧ exec (.lcx d a) s = .next (s.trapped 0x05 x)))

/-- Branches test and transfer, JAL and JALR link and transfer, and a target they cannot take traps.
R214 and R216: a branch whose condition holds goes to pc + 2 × disp12 inside the code store and traps ACCESS with the
target outside it; one whose condition fails goes on. It changes no register and no flag.
R215 and R216: JAL and JALR write the next pc to x[rd] and go to their target; an odd JALR target traps MISALIGN, a target
outside the code store ACCESS, both with the target and with x[rd] unwritten. -/
def Obligations.BranchesAndJumpsTransfer : Prop :=
  ((∀ (a b : Reg) (i : BitVec 12) (s s1 s2 : State) (x y : Word), Reads s a x s1 → Reads s1 b y s2 →
      let t : Word := s.fctx.pc + i.signExtend 64 * 2
      let tests (j : Instr) (p : Prop) : Prop :=
        (p → t.toNat < 16384 → exec j s = .next (s2.modF fun c => c.jumped t))
        ∧ (p → 16384 ≤ t.toNat → exec j s = .next (s.trapped 0x05 t))
        ∧ (¬ p → exec j s = .next (s2.done 4 id))
      tests (.beq a b i) (x = y) ∧ tests (.bne a b i) (x ≠ y)
      ∧ tests (.blt a b i) (x.toInt < y.toInt) ∧ tests (.bge a b i) (y.toInt ≤ x.toInt)
      ∧ tests (.bltu a b i) (x.toNat < y.toNat) ∧ tests (.bgeu a b i) (y.toNat ≤ x.toNat))
    ∧ (∀ (i : BitVec 12) (s : State),
      let t : Word := s.fctx.pc + i.signExtend 64 * 2
      let tests (j : Instr) (p : Prop) : Prop :=
        (p → t.toNat < 16384 → exec j s = .next (s.modF fun c => c.jumped t))
        ∧ (p → 16384 ≤ t.toNat → exec j s = .next (s.trapped 0x05 t))
        ∧ (¬ p → exec j s = .next (s.done 4 id))
      tests (.bto i) (s.fctx.tmo = true) ∧ tests (.bnto i) (s.fctx.tmo = false)))
  ∧ ((∀ (d : Reg) (i : BitVec 20) (s : State),
      let t : Word := s.fctx.pc + i.signExtend 64 * 2
      (t.toNat < 16384 → exec (.jal d i) s = .next (s.modF fun c => (c.result d (c.pc + 4)).jumped t))
      ∧ (16384 ≤ t.toNat → exec (.jal d i) s = .next (s.trapped 0x05 t)))
    ∧ (∀ (d a : Reg) (i : BitVec 15) (s s1 : State) (x : Word), Reads s a x s1 →
      let t : Word := x + i.signExtend 64
      (t.toNat % 2 = 0 → t.toNat < 16384 →
        exec (.jalr d a i) s = .next (s1.modF fun c => (c.result d (c.pc + 4)).jumped t))
      ∧ (t.toNat % 2 = 1 → exec (.jalr d a i) s = .next (s.trapped 0x04 t))
      ∧ (t.toNat % 2 = 0 → 16384 ≤ t.toNat → exec (.jalr d a i) s = .next (s.trapped 0x05 t))))

/-- The 16-bit forms have the effect of the 32-bit instructions they stand for, with length 2.
R54: with C16 enabled, each 16-bit arithmetic or control form has the effect of the 32-bit instruction it stands for, with
an instruction length of 2.
R54 and R197: H.LDS loads the 8-byte word at x2 + 8 × its offset into xA.
R54 and R198: H.SDS stores xA at x2 + 8 × its offset as SD does. -/
def Obligations.HalfwordFormsActAsTheirEquivalents : Prop :=
  (∀ (a b : Reg) (i : BitVec 6) (j : BitVec 11) (s s1 s2 : State) (x y : Word), s.fpart.enabled .c16 = true →
      Reads s a x s1 → Reads s1 b y s2 →
      let gives (k : Instr) (t : State) (v : Word) : Prop := exec k s = .next (t.done 2 fun c => c.result a v)
      let goes (k : Instr) (p : Prop) : Prop :=
        let t : Word := s.fctx.pc + i.signExtend 64 * 2
        (p → t.toNat < 16384 → exec k s = .next (s1.modF fun c => c.jumped t)) ∧ (¬ p → exec k s = .next (s1.done 2 id))
      gives (.hAddi a i) s1 (x + i.signExtend 64) ∧ gives (.hSeti a i) s (i.signExtend 64)
      ∧ (∀ (t : State) (z : Word), Reads s b z t → gives (.hCopy a b) t z)
      ∧ gives (.hAdd a b) s2 (x + y) ∧ gives (.hSub a b) s2 (x - y) ∧ gives (.hAnd a b) s2 (x &&& y)
      ∧ gives (.hShl a i) s1 (x <<< i.toNat) ∧ gives (.hShr a i) s1 (x >>> i.toNat)
      ∧ goes (.hBz a i) (x = 0) ∧ goes (.hBnz a i) (x ≠ 0)
      ∧ (let t : Word := s.fctx.pc + j.signExtend 64 * 2
        t.toNat < 16384 → exec (.hJmp j) s = .next (s.modF fun c => c.jumped t))
      ∧ (x.toNat % 2 = 0 → x.toNat < 16384 → exec (.hJreg a) s = .next (s1.modF fun c => c.jumped x)
        ∧ exec (.hCallr a) s = .next (s1.modF fun c => (c.result 1 (c.pc + 2)).jumped x)))
  ∧ (∀ (a : Reg) (o : BitVec 6) (s s1 : State) (x : Word) (off : Nat), s.Clear → s.fpart.enabled .c16 = true → Reads s 2 x s1 →
      let va : Word := x + BitVec.ofNat 64 (8 * o.toNat)
      target s.fpart s.focusCore va = some (.here s.focusCore off) → va.toNat % 8 = 0 →
      s.poisoned (localKey s.focusCore off) = false →
        exec (.hLds a o) s = .next (s1.done 2 fun c => c.result a (s.word (localKey s.focusCore off))))
  ∧ (∀ (a : Reg) (o : BitVec 6) (s s2 : State) (x v : Word) (dst : Dest), s.Clear → s.fpart.enabled .c16 = true →
      ReadsAll s [2, a] [x, v] s2 →
      let va : Word := x + BitVec.ofNat 64 (8 * o.toNat)
      Resolves s va 8 .write dst → dst.module = s.module →
        ∃ t e, exec (.hSds a o) s = .next t ∧ t.fcore.sb = [e] ∧ e.req.op = .bytes dst.key 8 v ∧ e.ctx = s.focusCtx
          ∧ t.flights = s2.flights ++ [⟨s.focusCore, homePlace dst.key, 0, .remoteStore e.req, [], false⟩]
          ∧ t.fctx = ({ s2.fctx with digest := if dst.exempt then s.fctx.digest else foldStore s.fctx.digest va v 8 0 0 }).past 2
          ∧ t.mem = s.mem ∧ t.tags = s.tags)

/-- A memory access traps ACCESS, MISALIGN or PERM, or waits for a walk, with no other effect.
R65 and R66: an access whose address R65 does not allow traps ACCESS, one that is not a multiple of its width MISALIGN,
both with the address and with no effect of the instruction; the form is checked first.
R77 and R78: an access that the page's entry denies, in the DTLB and in the page table, traps PERM with the address, with
the entry read afresh in the DTLB.
R72, R74 and R76: a translated access that misses in the DTLB and in the cluster's TLB changes nothing but to make its
context wait for a page-table walk of its page, which starts at once where its cluster has none under way. -/
def Obligations.AccessesAreCheckedAndTranslated : Prop :=
  (∀ (i : Instr) (rs : List Reg) (off : Word) (w : Nat) (k : Access) (s t : State) (x : Word) (vs : List Word),
      memForm i = some (rs, off, w, k) → ReadsAll s rs (x :: vs) t → (target s.fpart s.focusCore (x + off) = none → exec i s = .next (s.trapped 0x05 (x + off)))
      ∧ (target s.fpart s.focusCore (x + off) ≠ none → (x + off).toNat % w ≠ 0 →
        exec i s = .next (s.trapped 0x04 (x + off))))
  ∧ (∀ (i : Instr) (rs : List Reg) (off : Word) (w : Nat) (k : Access) (s t : State) (x : Word) (vs : List Word)
      (old pte : Word) (b big : Bool) (key : Nat),
      memForm i = some (rs, off, w, k) → ReadsAll s rs (x :: vs) t → let va : Word := x + off
      target s.fpart s.focusCore va = some (.virt va) → va.toNat % w = 0 → s.fpart.ptEn = true →
      tlbFind (s.pidOf s.focusCore) va s.fcore.dtlb = some (old, b) → permits old k = false →
      s.walk s.fpart va = .leaf pte big key → permits pte k = false →
        ∃ u : State, exec i s = .next (u.trapped 0x07 va) ∧ u.fctx = s.fctx ∧ u.mem = s.mem ∧ u.flights = s.flights
          ∧ tlbFind (s.pidOf s.focusCore) va u.fcore.dtlb = some (pte, big))
  ∧ (∀ (i : Instr) (rs : List Reg) (off : Word) (w : Nat) (k : Access) (s t : State) (x : Word) (vs : List Word),
      memForm i = some (rs, off, w, k) → ReadsAll s rs (x :: vs) t →
      let va : Word := x + off
      target s.fpart s.focusCore va = some (.virt va) → va.toNat % w = 0 → s.fpart.ptEn = true →
      tlbFind (s.pidOf s.focusCore) va s.fcore.dtlb = none →
      tlbFind (s.pidOf s.focusCore) va (s.clusterTlb s.focusCore) = none →
        let me : WalkReq := ⟨s.focusCore, s.focusCtx, va, k, false⟩
        let c : Nat := clusterOf s.focusCore
        ∃ u : State, exec i s = .next u ∧ u.fctx = { s.fctx with mode := .walking va k } ∧ u.mem = s.mem ∧ u.tags = s.tags
          ∧ (∃ j ∈ mapGet [] u.walkers c, j.pid = s.pidOf s.focusCore ∧ j.page = pageOf va ∧ me ∈ j.waiters)
          ∧ (mapGet [] s.walkers c = [] → ∃ f ∈ u.flights, f.ev = .pageTableWalk me))

/-- Loads give the bytes at their address, trap POISON, or send their request to the word's home.
R196 and R197: a load of the core's own local memory writes x[rd] with the bytes at its address, least significant first,
extended as its form says; memory and every other register are unchanged.
R93 and R186: a load of a poisoned word of the own local memory traps POISON with its address.
R90, R197 and R295: a load whose home is another place of the module sends its request there and goes on; its register is
outstanding until the reply comes, and no register and no byte of memory has changed. -/
def Obligations.LoadsGiveTheBytesOfTheirHome : Prop :=
  (∀ (d a : Reg) (i : BitVec 12) (s s1 : State) (x : Word) (o : Nat), s.Clear → Reads s a x s1 →
      let va : Word := x + i.signExtend 64
      target s.fpart s.focusCore va = some (.here s.focusCore o) → s.poisoned (localKey s.focusCore o) = false →
      let raw (w : Nat) : Nat := s.read (localKey s.focusCore o) w
      let loads (k : Instr) (w : Nat) (v : Word) : Prop :=
        va.toNat % w = 0 → exec k s = .next (s1.done 4 fun c => c.result d v)
      loads (.lb d a i) 1 ((BitVec.ofNat 8 (raw 1)).signExtend 64)
      ∧ loads (.lh d a i) 2 ((BitVec.ofNat 16 (raw 2)).signExtend 64)
      ∧ loads (.lw d a i) 4 ((BitVec.ofNat 32 (raw 4)).signExtend 64)
      ∧ loads (.ld d a i) 8 (BitVec.ofNat 64 (raw 8)) ∧ loads (.lbu d a i) 1 (BitVec.ofNat 64 (raw 1))
      ∧ loads (.lhu d a i) 2 (BitVec.ofNat 64 (raw 2)) ∧ loads (.lwu d a i) 4 (BitVec.ofNat 64 (raw 4))
      ∧ loads (.ldacq d a i) 8 (BitVec.ofNat 64 (raw 8)))
  ∧ (∀ (d a : Reg) (i : BitVec 12) (s s1 : State) (x : Word) (o : Nat), s.Clear → Reads s a x s1 →
      let va : Word := x + i.signExtend 64
      target s.fpart s.focusCore va = some (.here s.focusCore o) → s.poisoned (localKey s.focusCore o) = true →
      ∀ k ∈ [Instr.lb d a i, .lh d a i, .lw d a i, .ld d a i, .lbu d a i, .lhu d a i, .lwu d a i, .ldacq d a i],
        (∀ f, memForm k = some f → va.toNat % f.2.2.1 = 0) → exec k s = .next (s.trapped 0x08 va))
  ∧ (∀ (d a : Reg) (i : BitVec 12) (s s1 : State) (x : Word) (dst : Dest), s.Clear → Reads s a x s1 →
      let va : Word := x + i.signExtend 64
      ∀ (k : Instr) (w : Nat), k ∈ [Instr.lb d a i, .lh d a i, .lw d a i, .ld d a i, .lbu d a i, .lhu d a i, .lwu d a i,
        .ldacq d a i] → memForm k = some ([a], i.signExtend 64, w, .read) →
      Resolves s va w .read dst → dst.module = s.module → s.isHere dst = false →
        ∃ t r, exec k s = .next t ∧ t.fctx.pc = s.fctx.pc + 4 ∧ (∀ n, t.fctx.getX n = s1.fctx.getX n) ∧ t.mem = s.mem
          ∧ (d ≠ 0 → s1.fctx.bound (xSlot d) = none → t.fctx.pending d = true)
          ∧ t.flights = s1.flights ++ [⟨s.focusCore, homePlace dst.key, 0, .remoteLoad r, [], false⟩] ∧ r.key = dst.key
          ∧ r.width = w ∧ r.who.core = s.focusCore ∧ r.who.ctx = s.focusCtx)

/-- Stores and REDs go to their home and go on at once; a FENCE records its barrier set.
R198 and R385: a store of an own-module address goes on at once: its low bytes enter the store buffer and go to the home
of the address, the digest folds the store unless its page is exempt, and no byte of memory has changed yet.
R115, R381 and R385: a RED goes on at once: its operation enters the store buffer and goes to the home of its word, the
digest folds it, and E counts it.
R302 and R303: a FENCE with a class in each mask records its barrier set, of the classes its first mask names, and goes
on; one with an empty mask goes on and orders nothing. -/
def Obligations.StoresReductionsAndFencesGoOn : Prop :=
  (∀ (d a : Reg) (i : BitVec 12) (s s2 : State) (x v : Word) (dst : Dest), s.Clear → ReadsAll s [a, d] [x, v] s2 →
      let va : Word := x + i.signExtend 64
      let stores (k : Instr) (w : Nat) : Prop := Resolves s va w .write dst → dst.module = s.module →
        let low : Word := BitVec.ofNat 64 (v.toNat % 256 ^ w)
        ∃ t e, exec k s = .next t ∧ t.fcore.sb = [e] ∧ e.req.op = .bytes dst.key w low ∧ e.ctx = s.focusCtx
          ∧ t.flights = s2.flights ++ [⟨s.focusCore, homePlace dst.key, 0, .remoteStore e.req, [], false⟩]
          ∧ t.fctx = ({ s2.fctx with digest := if dst.exempt then s.fctx.digest else foldStore s.fctx.digest va low w 0 0 }).past 4
          ∧ t.mem = s.mem ∧ t.tags = s.tags
      stores (.sb d a i) 1 ∧ stores (.sh d a i) 2 ∧ stores (.sw d a i) 4 ∧ stores (.sd d a i) 8 ∧ stores (.sdrel d a i) 8)
  ∧ (∀ (a b : Reg) (w32 : Bool) (s s2 : State) (va v : Word) (dst : Dest), s.Clear → ReadsAll s [a, b] [va, v] s2 →
      let w : Nat := if w32 then 4 else 8
      Resolves s va w .amo dst → dst.module = s.module →
      let low : Word := BitVec.ofNat 64 (v.toNat % 256 ^ w)
      let reduces (k : Instr) (op : AmoOp) (n : Nat) : Prop :=
        ∃ t e, exec k s = .next t ∧ t.fcore.sb = [e] ∧ e.req.op = .red dst.key w op low ∧ e.ctx = s.focusCtx
          ∧ t.flights = s2.flights ++ [⟨s.focusCore, homePlace dst.key, 0, .remoteStore e.req, [], false⟩]
          ∧ t.fctx.dordE = s.fctx.dordE + 1 ∧ t.fctx.x = s2.fctx.x ∧ t.fctx.pc = s.fctx.pc + 4
          ∧ t.fctx.digest = (if dst.exempt then s.fctx.digest else foldStore s.fctx.digest va low w 1 n)
          ∧ t.mem = s.mem
      reduces (.redadd w32 a b) .add 0 ∧ reduces (.redand w32 a b) .and 1 ∧ reduces (.redor w32 a b) .or 2
      ∧ reduces (.redxor w32 a b) .xor 3 ∧ reduces (.redmin w32 a b) .min 4 ∧ reduces (.redmax w32 a b) .max 5
      ∧ reduces (.redminu w32 a b) .minu 6 ∧ reduces (.redmaxu w32 a b) .maxu 7)
  ∧ (∀ (p n : BitVec 8) (s : State),
      (p.extractLsb' 0 7 = 0 ∨ n.extractLsb' 0 7 = 0 → exec (.fence p n) s = .next (s.done 4 id))
      ∧ (p.extractLsb' 0 7 ≠ 0 → n.extractLsb' 0 7 ≠ 0 →
        ∃ f : Fence, exec (.fence p n) s = .next (s.done 4 fun c => { c with fences := c.fences ++ [f] })
          ∧ f.succ = n ∧ f.scope = p.getLsbD 7
          ∧ f.stores = (if p.getLsbD 1 then (s.fcore.sb.filter fun e => e.ctx == s.focusCtx).map (·.id) else [])
          ∧ f.loads = (if p.getLsbD 0 then s.fctx.pend.map (·.id) else [])))

/-- An AMO on a local word reads, computes and stores in one step.
R109 and R110: outside RECORD and REPLAY, an AMO on a word of the own local memory reads the old value, stores the
operation's result in the same step, and gives the old value to x[rd], sign-extended at 32 bits; a CAS that fails stores
nothing. Bytes outside the word are unchanged. -/
def Obligations.LocalAmosActInOneStep : Prop :=
  ∀ (d a b c : Reg) (w32 : Bool) (s s2 s3 : State) (va y z : Word) (o : Nat), s.Clear → s.fctx.lmode ≠ 2 → s.fctx.lmode ≠ 3 →
    ReadsAll s [a, b] [va, y] s2 → Reads s2 c z s3 →
    target s.fpart s.focusCore va = some (.here s.focusCore o) → s.poisoned (localKey s.focusCore o) = false →
    let key : Nat := localKey s.focusCore o
    let w : Nat := if w32 then 4 else 8
    va.toNat % w = 0 →
    let old : Word := BitVec.ofNat 64 (s.read key w)
    let acts (k : Instr) (r : State) (new64 : Word) (new32 : BitVec 32) : Prop :=
      ∃ t, exec k s = .next t
        ∧ (∃ g : Word, t.fctx = ({ r.fctx.result d (if w32 then (old.extractLsb' 0 32).signExtend 64 else old) with
            digest := g, dordE := s.fctx.dordE + 1 } : Ctx).past 4)
        ∧ t.read key w = (if w32 then new32.toNat else new64.toNat)
        ∧ (∀ n, n < key ∨ key + w ≤ n → t.byte n = s.byte n)
        ∧ t.tags = s.tags ∧ t.flights = r.flights
    let l (v : Word) : BitVec 32 := v.extractLsb' 0 32
    acts (.amoadd w32 d a b) s2 (old + y) (l old + l y) ∧ acts (.amoand w32 d a b) s2 (old &&& y) (l old &&& l y)
    ∧ acts (.amoor w32 d a b) s2 (old ||| y) (l old ||| l y) ∧ acts (.amoxor w32 d a b) s2 (old ^^^ y) (l old ^^^ l y)
    ∧ acts (.amomin w32 d a b) s2 (if old.toInt < y.toInt then old else y) (if (l old).toInt < (l y).toInt then l old else l y)
    ∧ acts (.amomax w32 d a b) s2 (if old.toInt < y.toInt then y else old) (if (l old).toInt < (l y).toInt then l y else l old)
    ∧ acts (.amominu w32 d a b) s2 (if old.toNat < y.toNat then old else y) (if (l old).toNat < (l y).toNat then l old else l y)
    ∧ acts (.amomaxu w32 d a b) s2 (if old.toNat < y.toNat then y else old) (if (l old).toNat < (l y).toNat then l y else l old)
    ∧ acts (.amoswap w32 d a b) s2 y (l y)
    ∧ acts (.amocas w32 d a b c) s3 (if old = z then y else old) (if l old = l z then l y else l old)

/-- Full/empty operations on a local word act where their condition holds, time out, or wait.
R189 and R202: outside RECORD and REPLAY and with nothing held at the core, a full/empty operation on a word of the own
local memory whose condition holds acts at once: what it reads, what it stores and the tag it leaves. PROBE reads the tag
and changes nothing.
R192 and R193: a timed full/empty operation whose deadline has come, or an STF, LDF or LDFE whose condition fails, does
not act at once: the first sets TO and goes on with no other effect on registers or memory, the second sends its request
to the home and waits. -/
def Obligations.LocalFullEmptyOperationsActOrWait : Prop :=
  (∀ (d a b : Reg) (i : BitVec 12) (o7 : BitVec 7) (s s1 s2 s3 : State) (x y z : Word) (o : Nat), s.Clear →
      s.fctx.lmode ≠ 2 → s.fctx.lmode ≠ 3 → s.fcore.waitTab = [] → s.focusCore < 12288 → Reads s a x s1 →
      let here (va : Word) : Prop := target s.fpart s.focusCore va = some (.here s.focusCore o) ∧ va.toNat % 8 = 0
      let key : Nat := localKey s.focusCore o
      s.poisoned key = false →
      let acts (k : Instr) (r : State) (res : Option Word) (word : Word) (full timed : Bool) : Prop :=
        ∃ t, exec k s = .next t ∧ t.word key = word ∧ t.tag key = full ∧ (∀ n, n < key ∨ key + 8 ≤ n → t.byte n = s.byte n)
          ∧ ∃ g : Word, t.fctx = ({ (match res with | some v => r.fctx.result d v | none => r.fctx) with
              digest := g, dordE := s.fctx.dordE + 1, tmo := if timed then false else s.fctx.tmo } : Ctx).past 4
      let va7 : Word := x + o7.signExtend 64 * 8
      let va12 : Word := x + i.signExtend 64
      (here va7 → Reads s1 b y s2 → (y = 0 ∨ s.wallUnits < y.toNat * 1600000) →
        (s.tag key = true → acts (.ldf d a o7 b) s2 (some (s.word key)) (s.word key) true true
          ∧ acts (.ldfe d a o7 b) s2 (some (s.word key)) (s.word key) false true)
        ∧ (s.tag key = false → Reads s2 d z s3 → acts (.stf d a o7 b) s3 none z true true))
      ∧ (here va12 →
        acts (.probe d a i) s1 (some (if s.tag key then 1 else 0)) (s.word key) (s.tag key) false
        ∧ acts (.sete a i) s1 none (s.word key) false false
        ∧ (Reads s1 d z s2 → acts (.ste d a i) s2 none z false false)))
  ∧ (∀ (d a b : Reg) (o7 : BitVec 7) (s s1 s2 s3 : State) (x y z : Word) (o : Nat), s.Clear → s.fctx.lmode ≠ 2 → s.fctx.lmode ≠ 3 →
      Reads s a x s1 → Reads s1 b y s2 → Reads s2 d z s3 →
      let va : Word := x + o7.signExtend 64 * 8
      target s.fpart s.focusCore va = some (.here s.focusCore o) → va.toNat % 8 = 0 →
      let key : Nat := localKey s.focusCore o
      let out (k : Instr) (r : State) : Prop := y ≠ 0 → y.toNat * 1600000 ≤ s.wallUnits →
        exec k s = .next (r.done 4 fun c => { c with tmo := true, dordE := c.dordE + 1 })
      let waits (k : Instr) (r : State) (full : Bool) : Prop := (y = 0 ∨ s.wallUnits < y.toNat * 1600000) →
        s.tag key = full → s.poisoned key = false →
        ∃ t q, exec k s = .next t ∧ t.fctx.mode ≠ .ready ∧ t.fctx.pc = s.fctx.pc ∧ t.mem = s.mem ∧ t.tags = s.tags
          ∧ t.flights = r.flights ++ [⟨s.focusCore, s.focusCore, 0, .fullEmptyRequest q, [], false⟩] ∧ q.key = key ∧ q.deadline = y
      out (.ldf d a o7 b) s2 ∧ out (.ldfe d a o7 b) s2 ∧ out (.stf d a o7 b) s3
      ∧ waits (.ldf d a o7 b) s2 false ∧ waits (.ldfe d a o7 b) s2 false ∧ waits (.stf d a o7 b) s3 true)

/-- Scalar float operations compute exactly, round once, box, and OR their exceptions into the flags.
R251 to R253, R255 and R256: each float operation unboxes its sources, computes exactly, rounds once under its mode,
writes the boxed result and ORs the exceptions it raises into the context's flags; a comparison and FCLASS write an
integer. -/
def Obligations.FloatOperationsRoundOnceAndAccrue : Prop :=
  ∀ (f : FFmt) (r : Rm) (d a b c : Reg) (s s1 s2 s3 : State) (x y z : Word), s.fpart.enabled .fp = true →
    Reads s a x s1 → Reads s1 b y s2 → Reads s2 c z s3 →
    let g : Fmt := ffmt f
    let m : RMode := rmOf r s.fctx.frm
    let u : Nat := unbox g x
    let v : Nat := unbox g y
    let w : Nat := unbox g z
    let puts (i : Instr) (t : State) (res : Word) (e : Exc) : Prop :=
      exec i s = .next (t.done 4 fun c => ({ c with fflags := c.fflags ||| e } : Ctx).result d res)
    let gives (i : Instr) (t : State) (q : Nat × Exc) : Prop := puts i t (box g q.1) q.2
    let tests (i : Instr) (q : Bool × Exc) : Prop := puts i s2 (if q.1 then 1 else 0) q.2
    gives (.fadd f r d a b) s2 (finish g m ((g.val u).add m (g.val v)))
    ∧ gives (.fsub f r d a b) s2 (finish g m ((g.val u).add m (g.val v).neg))
    ∧ gives (.fmul f r d a b) s2 (finish g m ((g.val u).mul (g.val v)))
    ∧ gives (.fdiv f r d a b) s2 (finish g m ((g.val u).div g (g.val v)))
    ∧ gives (.fsqrt f r d a) s1 (finish g m ((g.val u).sqrt g))
    ∧ gives (.fmin f d a b) s2 (fMin g u v) ∧ gives (.fmax f d a b) s2 (fMax g u v)
    ∧ gives (.fsgcpy f d a b) s2 (g.withSign u (g.signBit v), 0)
    ∧ gives (.fsgneg f d a b) s2 (g.withSign u !(g.signBit v), 0)
    ∧ gives (.fsgxor f d a b) s2 (g.withSign u (g.signBit u ^^ g.signBit v), 0)
    ∧ tests (.feq f d a b) (fEq g u v) ∧ tests (.flt f d a b) (fLt g u v) ∧ tests (.fle f d a b) (fLe g u v)
    ∧ exec (.fclass f d a) s = .next (s1.done 4 fun c => c.result d (BitVec.ofNat 64 (fClass g u)))
    ∧ gives (.frcpe f d a) s1 (fRcpe g u) ∧ gives (.frsqe f d a) s1 (fRsqe g u)
    ∧ (let n : RMode := frmMode s.fctx.frm
      gives (.fma f d a b c) s3 (finish g n ((g.val u).fma n (g.val v) (g.val w)))
      ∧ gives (.fms f d a b c) s3 (finish g n ((g.val u).fma n (g.val v) (g.val w).neg))
      ∧ gives (.fnma f d a b c) s3 (finish g n ((g.val u).neg.fma n (g.val v) (g.val w)))
      ∧ gives (.fnms f d a b c) s3 (finish g n ((g.val u).neg.fma n (g.val v) (g.val w).neg)))

/-- Rounding follows its mode, boxed values read back, and conversions round and clamp.
R228: rounding a magnitude m × 2^e to a multiple of 2^q is exact where 2^q divides it; else it gives one of the two
neighbouring multiples, which one by the mode, and is inexact just where the value is no multiple.
R251: a boxed result reads back as itself; a register value whose bits above the width are not all one reads as the
canonical NaN of the format.
R229, R230 and R254: FCVT between integers and formats, under its mode; a value outside the integer type's range gives the
nearest bound and raises invalid and inexact, a NaN gives 0 and raises invalid.
That a conversion which clamps raises inexact beside invalid is the model's reading (log entry 32). -/
def Obligations.RoundingBoxingAndConversions : Prop :=
  (∀ (r : RMode) (neg : Bool) (m : Nat) (e q : Int),
      let p : Nat × Bool := roundMul r neg m e q
      (q ≤ e → p.2 = false ∧ (p.1 : Int) = m * 2 ^ (e - q).toNat)
      ∧ (e < q →
        let u : Nat := 2 ^ (q - e).toNat
        let up : Prop := p.1 = m / u + 1
        let down : Prop := p.1 = m / u
        (p.2 = true ↔ m % u ≠ 0) ∧ (m % u = 0 → down) ∧ (up ∨ down)
        ∧ (m % u ≠ 0 → match r with
          | .rtz => down
          | .rdn => if neg then up else down
          | .rup => if neg then down else up
          | .rne => (2 * (m % u) < u → down) ∧ (u < 2 * (m % u) → up) ∧ (2 * (m % u) = u → p.1 % 2 = 0)
          | .rmm => (2 * (m % u) < u → down) ∧ (u ≤ 2 * (m % u) → up))))
  ∧ (∀ (f : Fmt), f ∈ [fmtH, fmtBf, fmtS, fmtD] → ∀ (b : Nat) (v : Word),
      unbox f (box f b) = b % 2 ^ f.width
      ∧ (v.toNat < 2 ^ 64 - 2 ^ f.width → unbox f v = f.nan)
      ∧ (f.val f.nan = .nan false))
  ∧ (∀ (r : Rm) (t u : CvtTy) (k : IntTy) (d a : Reg) (s s1 : State) (x : Word), s.fpart.enabled .fp = true →
      Reads s a x s1 →
      let m : RMode := rmOf r s.fctx.frm
      let v : FVal := (cvtFmt t).val (unbox (cvtFmt t) x)
      let puts (i : Instr) (res : Word) (e : Exc) : Prop :=
        exec i s = .next (s1.done 4 fun c => ({ c with fflags := c.fflags ||| e } : Ctx).result d res)
      let lo : Int := match k with | .w => -2 ^ 31 | .wu => 0 | .l => -2 ^ 63 | .lu => 0
      let hi : Int := match k with | .w => 2 ^ 31 - 1 | .wu => 2 ^ 32 - 1 | .l => 2 ^ 63 - 1 | .lu => 2 ^ 64 - 1
      let n : Int := match k with
        | .w => (x.extractLsb' 0 32).toInt | .wu => (x.extractLsb' 0 32).toNat | .l => x.toInt | .lu => x.toNat
      (match v with
        | .nan _ => puts (.fcvtI r t k d a) 0 excIV
        | .inf sg => puts (.fcvtI r t k d a) (BitVec.ofInt 64 (if sg then lo else hi)) (excIV ||| excIX)
        | .fin sg mg e =>
          let q : Nat × Bool := roundMul m sg mg e 0
          let i : Int := if sg then -(q.1 : Int) else q.1
          (i < lo → puts (.fcvtI r t k d a) (BitVec.ofInt 64 lo) (excIV ||| excIX))
          ∧ (hi < i → puts (.fcvtI r t k d a) (BitVec.ofInt 64 hi) (excIV ||| excIX))
          ∧ (lo ≤ i → i ≤ hi → puts (.fcvtI r t k d a) (BitVec.ofInt 64 i) (if q.2 then excIX else 0)))
      ∧ (let q : Nat × Exc := (FVal.fin (n < 0) n.natAbs 0).to (cvtFmt t) m
        puts (.fcvtF r k t d a) (box (cvtFmt t) q.1) q.2)
      ∧ (let q : Nat × Exc := v.to (cvtFmt u) m
        puts (.fcvtFf r t u d a) (box (cvtFmt u) q.1) q.2))

/-- Vector arithmetic acts on each lane as the integer or scalar float operation does.
R258, the integer forms of VARITH: each lane of v[rd] is the operation on the same lanes of the sources, modulo the lane's
width; a shift is by the low bits of its lane.
R250, R255, R256 and R258, the float forms of VARITH and VFMA: each lane is the scalar operation of its format under FRM
on the same lanes, and the exceptions of all lanes are ORed into the flags. -/
def Obligations.VectorArithmeticActsByLane : Prop :=
  (∀ (t : IType) (d a b : VReg) (s s1 s2 : State) (x y : VWord), s.fpart.enabled .vec = true →
      ReadsV s a x s1 → ReadsV s1 b y s2 →
      let w : Nat := match t with | .b => 8 | .h => 16 | .w => 32 | .d => 64
      let acts (i : Instr) (op : BitVec w → BitVec w → BitVec w) : Prop :=
        ∃ v : VWord, exec i s = .next (s2.done 4 fun c => c.resultV d v)
          ∧ ∀ k, k < 512 / w → lane w k v = op (lane w k x) (lane w k y)
      acts (.vadd t d a b) (fun p q => p + q) ∧ acts (.vsub t d a b) (fun p q => p - q)
      ∧ acts (.vmul t d a b) (fun p q => p * q) ∧ acts (.vand t d a b) (fun p q => p &&& q)
      ∧ acts (.vor t d a b) (fun p q => p ||| q) ∧ acts (.vxor t d a b) (fun p q => p ^^^ q)
      ∧ acts (.vsll t d a b) (fun p q => p <<< (q.toNat % w)) ∧ acts (.vsrl t d a b) (fun p q => p >>> (q.toNat % w))
      ∧ acts (.vsra t d a b) (fun p q => p.sshiftRight (q.toNat % w)))
  ∧ (∀ (t : FType) (d a b c : VReg) (s s1 s2 s3 : State) (x y z : VWord), s.fpart.enabled .vec = true →
      ReadsV s a x s1 → ReadsV s1 b y s2 → ReadsV s2 c z s3 →
      let m : RMode := frmMode s.fctx.frm
      let acts (i : Instr) (r : State) (f : Fmt) (op : Nat → Nat → Nat → Nat × Exc) : Prop :=
        let w : Nat := f.width
        let each (k : Nat) : Nat × Exc := op (lane w k x).toNat (lane w k y).toNat (lane w k z).toNat
        ∃ v : VWord, exec i s = .next (r.done 4 fun c =>
            ({ c with fflags := c.fflags ||| (List.range (512 / w)).foldl (fun e k => e ||| (each k).2) 0 } : Ctx).resultV d v)
          ∧ ∀ k, k < 512 / w → lane w k v = BitVec.ofNat w (each k).1
      let f : Fmt := match t with | .h => fmtH | .bf => fmtBf | .s => fmtS | .d => fmtD
      acts (.vfadd t d a b) s2 f (fun p q _ => fAdd f m p q) ∧ acts (.vfsub t d a b) s2 f (fun p q _ => fSub f m p q)
      ∧ acts (.vfmul t d a b) s2 f (fun p q _ => fMul f m p q) ∧ acts (.vfdiv t d a b) s2 f (fun p q _ => fDiv f m p q)
      ∧ acts (.vfmin t d a b) s2 f (fun p q _ => fMin f p q) ∧ acts (.vfmax t d a b) s2 f (fun p q _ => fMax f p q)
      ∧ acts (.vrcpe d a) s1 fmtS (fun p _ _ => fRcpe fmtS p) ∧ acts (.vrsqe d a) s1 fmtS (fun p _ _ => fRsqe fmtS p)
      ∧ acts (.vfma t d a b c) s3 f (fun p q r => fFma f m false false p q r)
      ∧ acts (.vfnma t d a b c) s3 f (fun p q r => fFma f m true false p q r))

/-- Vector loads read, and vector stores buffer, the elements at their own-core addresses, or trap.
R259, R260 and R295: VLD, VLDS and VGATH read the 8-byte words of their elements one at each issue, ascending in lane
order, so that what arrives between two is seen by the later one; with the last word they write v[rd] with the elements as
their words were read. Memory and every other register are unchanged.
R259 and R260: VST, VSTS and VSCAT go on at once with one store-buffer entry of their elements in lane order, on its way
to the core's own memory, of which no byte has changed yet.
R259: the first element address, in lane order, that is no own-core address traps ACCESS, one that is misaligned MISALIGN,
before any effect. -/
def Obligations.VectorMemoryFormsMoveTheirElements : Prop :=
  (∀ (d : VReg) (a : Reg) (i : BitVec 12) (w : VReg) (s s1 s2 : State) (x : Word) (y : VWord), s.Clear →
      s.fpart.enabled .vec = true → Reads s a x s1 →
      let loads (k : Instr) (r : State) (n : Nat) (addr : Nat → Word) : Prop :=
        let off (j : Nat) : Nat := (addr j).toNat % 65536
        let words : List Nat := wordOffs ((List.range (512 / n)).map off)
        let ends (read : List (Nat × Word)) : Prop :=
          ∃ v : VWord, exec k s = .next (r.done 4 fun c => ({ c with vread := [] } : Ctx).resultV d v)
            ∧ ∀ j, j < 512 / n → ∃ q, mapFind read (off j / 8 * 8) = some q
              ∧ (lane n j v).toNat = q.toNat / 256 ^ (off j % 8) % 2 ^ n
        match words.filter fun q => (mapFind s.fctx.vread q).isNone with
        | [] => ends s.fctx.vread
        | [q] => ends (s.fctx.vread ++ [(q, s.word (localKey s.focusCore q))])
        | q :: _ =>
          exec k s = .next (s.modF fun c => { c with vread := c.vread ++ [(q, s.word (localKey s.focusCore q))] })
      let strip : Word := x + i.signExtend 64
      (s.VecOk strip 64 → (∀ j, j < 8 → s.poisoned (s.ownKey strip + 8 * j) = false) →
        loads (.vld d a i) s1 64 fun j => strip + BitVec.ofNat 64 (8 * j))
      ∧ (let addr (j : Nat) : Word := x + BitVec.ofNat 64 j * i.signExtend 64
        (∀ j, j < 16 → s.VecOk (addr j) 4) → loads (.vlds d a i) s1 32 addr)
      ∧ (ReadsV s1 w y s2 →
        let addr (j : Nat) : Word := x + (lane 32 j y).setWidth 64
        (∀ j, j < 16 → s.VecOk (addr j) 4) → loads (.vgath d a w) s2 32 addr))
  ∧ (∀ (d : VReg) (a : Reg) (i : BitVec 12) (w : VReg) (s s1 s2 s3 : State) (x : Word) (y v : VWord), s.Clear →
      s.fpart.enabled .vec = true → s.focusCore < 12288 → Reads s a x s1 →
      let stores (k : Instr) (r : State) (n : Nat) (addr : Nat → Word) : Prop :=
        ∃ t e, exec k s = .next t ∧ t.fcore.sb = [e] ∧ e.ctx = s.focusCtx
          ∧ e.req.op = .lanes ((List.range (512 / n)).map fun j => (s.ownKey (addr j), n / 8, (lane n j v).setWidth 64))
          ∧ t.flights = r.flights ++ [⟨s.focusCore, s.focusCore, 0, .remoteStore e.req, [], false⟩]
          ∧ (∃ g : Word, t.fctx = ({ r.fctx with digest := g }).past 4) ∧ t.mem = s.mem ∧ t.tags = s.tags
      (ReadsV s1 d v s2 →
        (let strip : Word := x + i.signExtend 64
        s.VecOk strip 64 → stores (.vst d a i) s2 64 fun j => strip + BitVec.ofNat 64 (8 * j))
        ∧ (let addr (j : Nat) : Word := x + BitVec.ofNat 64 j * i.signExtend 64
          (∀ j, j < 16 → s.VecOk (addr j) 4) → stores (.vsts d a i) s2 32 addr))
      ∧ (ReadsV s1 w y s2 → ReadsV s2 d v s3 →
        let addr (j : Nat) : Word := x + (lane 32 j y).setWidth 64
        (∀ j, j < 16 → s.VecOk (addr j) 4) → stores (.vscat d a w) s3 32 addr))
  ∧ (∀ (d : VReg) (a : Reg) (i : BitVec 12) (s s1 s2 : State) (x : Word) (v : VWord), s.fpart.enabled .vec = true → Reads s a x s1 → ReadsV s1 d v s2 →
      let good (va : Word) (n : Nat) : Prop := va.extractLsb' 16 48 = 0xFC0000000000 ∧ va.toNat % n = 0
      let fails (k : Instr) (va : Word) (n : Nat) : Prop :=
        (va.extractLsb' 16 48 ≠ 0xFC0000000000 → exec k s = .next (s.trapped 0x05 va))
        ∧ (va.extractLsb' 16 48 = 0xFC0000000000 → va.toNat % n ≠ 0 → exec k s = .next (s.trapped 0x04 va))
      fails (.vld d a i) (x + i.signExtend 64) 64 ∧ fails (.vst d a i) (x + i.signExtend 64) 64
      ∧ (let addr (j : Nat) : Word := x + BitVec.ofNat 64 j * i.signExtend 64
        ∀ j, j < 16 → (∀ k, k < j → good (addr k) 4) →
          fails (.vlds d a i) (addr j) 4 ∧ fails (.vsts d a i) (addr j) 4))

/-- Broadcasts, selects, permutes, compares, reductions, conversions and block packing act by lane.
R262: broadcasts, extracts, inserts, selects, permutes and compares act by lane; a lane index at or beyond the lanes
extracts or permutes 0 and inserts nothing.
R263 to R265: VRED reduces the lanes of v[rs1] by the tree of lane pairs and writes x[rd]; VCVT converts each lane,
zeroing the rest of v[rd]; VPACK and VUNPK, with BXF enabled, quantise sixteen binary32 lanes into a block and expand it.
None changes memory. -/
def Obligations.VectorMovesReductionsAndConversions : Prop :=
  (∀ (t : IType) (o : VCmpOp) (d a b : VReg) (e : Reg) (p q : Reg) (s s1 s2 r1 r2 u2 : State) (x y : VWord) (m k n : Word),
      s.fpart.enabled .vec = true → ReadsV s a x s1 → ReadsV s1 b y s2 → Reads s p m r1 → Reads r1 q k r2 →
      Reads s1 q n u2 →
      let w : Nat := itypeW t
      let acts (i : Instr) (r : State) (f : Nat → BitVec w) : Prop :=
        ∃ v : VWord, exec i s = .next (r.done 4 fun c => c.resultV d v) ∧ ∀ j, j < 512 / w → lane w j v = f j
      acts (.vbcast t d p) r1 (fun _ => m.setWidth w)
      ∧ exec (.vext t e a q) s = .next (u2.done 4 fun c => c.result e
          (if n.toNat < 512 / w then (lane w n.toNat x).signExtend 64 else 0))
      ∧ acts (.vins t d p q) r2 (fun j => if j = k.toNat then m.setWidth w else lane w j (r2.fctx.getV d))
      ∧ acts (.vsel t d a b) s2 (fun j => if lane w j (s2.fctx.getV d) = 0 then lane w j y else lane w j x)
      ∧ acts (.vperm t d a b) s2 (fun j => if (lane w j y).toNat < 512 / w then lane w (lane w j y).toNat x else 0)
      ∧ (let r : Nat × List (Nat × Exc) := cmpLanes o x y
        ∃ v : VWord, exec (.vcmp o d a b) s = .next (s2.done 4 fun c =>
            ({ c with fflags := c.fflags ||| excAll r.2 } : Ctx).resultV d v)
          ∧ r.2.length = 512 / r.1
          ∧ ∀ j, j < 512 / r.1 → lane r.1 j v = 0 ∧ (r.2.getD j (0, 0)).1 = 0
              ∨ lane r.1 j v = BitVec.allOnes r.1 ∧ (r.2.getD j (0, 0)).1 = 2 ^ r.1 - 1))
  ∧ (∀ (o : VRedOp) (k : VCvt) (f : BxFmt) (d a : VReg) (e : Reg) (s s1 : State) (x : VWord), s.fpart.enabled .vec = true →
      ReadsV s a x s1 →
      let m : RMode := frmMode s.fctx.frm
      exec (.vred o e a) s = .next (s1.done 4 fun c =>
        ({ c with fflags := c.fflags ||| (vredResult o m x).2 } : Ctx).result e (vredResult o m x).1)
      ∧ (let c : Conv := vcvtConv k
        let each (j : Nat) : Nat × Exc := c.f m (lane c.from' j x).toNat
        ∃ v : VWord, exec (.vcvt k d a) s = .next (s1.done 4 fun q => ({ q with
            fflags := q.fflags ||| (List.range c.n).foldl (fun e j => e ||| (each j).2) 0 } : Ctx).resultV d v)
          ∧ (∀ j, j < c.n → lane c.to' j v = BitVec.ofNat c.to' (each j).1) ∧ v.toNat < 2 ^ (c.n * c.to'))
      ∧ (s.fpart.enabled .bxf = true →
        (let q : Nat × Nat := bxQuant (bxM f) ((List.range 16).map fun j => fmtS.val (lane 32 j x).toNat)
        exec (.vpack f d a) s = .next (s1.done 4 fun c => c.resultV d (BitVec.ofNat 512 (q.1 + 2 ^ 128 * q.2))))
        ∧ (let plane : Nat := (x.extractLsb' 0 (16 * (bxM f + 1))).toNat
          let scale : Nat := (x.extractLsb' 128 16).toNat
          ∃ v : VWord, exec (.vunpk f d a) s = .next (s1.done 4 fun c => c.resultV d v)
            ∧ ∀ j, j < 16 → (lane 32 j v).toNat = ((bxVal (bxM f) plane scale j).to fmtS .rne).1 % 2 ^ 32)))

/-- An instruction whose feature the partition has not enabled traps ILLFEAT with itself as value.
R31 and R57: an instruction that issues and needs a feature its partition has not enabled traps ILLFEAT with itself as
tval; VPACK and VUNPK need BXF in addition to VEC. -/
def Obligations.DisabledFeaturesTrapIllfeat : Prop :=
  ∀ (s : State), s.fctx.wait = none → s.fctx.midway = false →
    (∀ (i : Instr) (f : Feature), featureOf i = some f → s.fpart.enabled f = false →
      exec i s = .next (s.trapped 0x02 (encode i).toWord))
    ∧ (∀ (f : BxFmt) (d a : VReg), s.fpart.enabled .bxf = false →
      exec (.vpack f d a) s = .next (s.trapped 0x02 (encode (.vpack f d a)).toWord)
      ∧ exec (.vunpk f d a) s = .next (s.trapped 0x02 (encode (.vunpk f d a)).toWord))

/-- Matrix commands trap ENGARG or NDREAD with the code that fails first, and else take a number.
R280 and R286 to R288: with fewer than 4 operations in mx and the checks of R284 passed, each matrix command takes the
next number and writes it to x[rd], and a command that writes an accumulator notes the number as its W; a premature ACCST
is accepted in FREE and SERIAL launches.
R280, R284 and R286: a matrix instruction whose arguments fail a check traps ENGARG with the lowest failing code, and a
premature ACCST in CHECK, RECORD or REPLAY traps NDREAD with Wa. -/
def Obligations.MatrixCommandsAreCheckedAndNumbered : Prop :=
  (∀ (n : Acc) (d a b c : Reg) (s s1 s2 s3 : State) (x y z : Word), s.Clear → s.fpart.enabled .mat = true →
      (s.fcore.mx).queue.length < 4 → Reads s a x s1 → Reads s1 b y s2 → Reads s2 c z s3 →
      let issues (i : Instr) (r : State) (cmd : Cmd) (w : Option Acc) : Prop :=
        ∃ t, exec i s = .next t ∧ Issued r t .mx d cmd
          ∧ ∀ e, t.fcore.wOf e = if w = some e then (s.fcore.mx).i + 1 else s.fcore.wOf e
      (s.fpart.enabled (fmtFeature (afmt s.fctx.mfmt)) = true → s.fpart.enabled (fmtFeature (bfmt s.fctx.mfmt)) = true →
        mmaCode (afmt s.fctx.mfmt) (bfmt s.fctx.mfmt) x y z s.fctx.mascale s.fctx.mbscale.toNat = 0 →
        issues (.mma n d a b c) s3 (.mma n x y z) (some n))
      ∧ issues (.accz n d) s (.accz n) (some n) ∧ issues (.accmv n d) s (.accmv n) (some (otherAcc n))
      ∧ (ownSpan x 64 4096 → issues (.accld n d a) s1 (.accld n (x.toNat % 65536)) (some n)
        ∧ (s.fcore.wOf n ≤ s.fcore.mxq → issues (.accst n d a) s1 (.accst n (x.toNat % 65536) false) none)
        ∧ (s.fcore.mxq < s.fcore.wOf n → s.fctx.lmode = 0 ∨ s.fctx.lmode = 4 → (∀ o ∈ s.fcore.mx.queue, o.num ≤ s.fcore.mx.i) →
          issues (.accst n d a) s1 (.accst n (x.toNat % 65536) true) none))
      ∧ (x.toNat % 8 = 0 → z.toNat % 8 = 0 → 0 < z.toNat → z.toNat ≤ 65536 → x.toNat + z.toNat ≤ 262144 →
        ownSpan y 8 z.toNat ∨ y.toNat < 2 ^ 55 ∧ y.toNat % 8 = 0 →
        issues (.wbld d a b c) s3 (.wbld x.toNat y z.toNat) none))
  ∧ (∀ (n : Acc) (d a b c : Reg) (s s1 s2 s3 : State) (x y z : Word), s.fpart.enabled .mat = true →
      Reads s a x s1 → Reads s1 b y s2 → Reads s2 c z s3 →
      let af : Nat := afmt s.fctx.mfmt
      let bf : Nat := bfmt s.fctx.mfmt
      let k : Nat := z.toNat
      let bad (i : Instr) (code : Word) : Prop := exec i s = .next (s.trapped 0x09 code)
      let c28 : Prop := fmtRow af ≠ fmtRow bf
      let c29 : Prop := k = 0 ∨ 4096 < k ∨ k % fmtUnit af ≠ 0 ∨ k % fmtUnit bf ≠ 0
      let c30 : Prop := ¬ ownSpan x 8 (32 * fmtRowBytes af k)
      let c31 : Prop := fmtScale af ≠ 0 ∧ ¬ ownSpan s.fctx.mascale 1 (32 * fmtScaleBytes af k)
      let c32 : Prop := 262143 < y.toNat ∨ y.toNat % 8 ≠ 0 ∨ 262144 < y.toNat + (if bf = 2 then 16 else 32) * fmtRowBytes bf k
      let c33 : Prop := fmtScale bf ≠ 0 ∧
        262144 < s.fctx.mbscale.toNat + (if bf = 2 then 16 else 32) * fmtScaleBytes bf k
      let m : Instr := .mma n d a b c
      (s.fpart.enabled (fmtFeature af) = true → s.fpart.enabled (fmtFeature bf) = true →
        (c28 → bad m 28) ∧ (¬ c28 → c29 → bad m 29) ∧ (¬ c28 → ¬ c29 → c30 → bad m 30)
        ∧ (¬ c28 → ¬ c29 → ¬ c30 → c31 → bad m 31) ∧ (¬ c28 → ¬ c29 → ¬ c30 → ¬ c31 → c32 → bad m 32)
        ∧ (¬ c28 → ¬ c29 → ¬ c30 → ¬ c31 → ¬ c32 → c33 → bad m 33))
      ∧ (s.fctx.midway = false → s.fpart.enabled (fmtFeature af) = false ∨ s.fpart.enabled (fmtFeature bf) = false →
        exec m s = .next (s.trapped 0x02 (encode m).toWord))
      ∧ (¬ ownSpan x 64 4096 → bad (.accld n d a) 34 ∧ bad (.accst n d a) 34)
      ∧ (ownSpan x 64 4096 → s.fcore.mxq < s.fcore.wOf n → s.fctx.lmode = 1 ∨ s.fctx.lmode = 2 ∨ s.fctx.lmode = 3 →
        exec (.accst n d a) s = .next (s.trapped 0x0F (BitVec.ofNat 64 (s.fcore.wOf n))))
      ∧ (let c35 : Prop := x.toNat % 8 ≠ 0 ∨ k = 0 ∨ k % 8 ≠ 0 ∨ 65536 < k ∨ 262144 < x.toNat + k
        let c36 : Prop := ¬ (ownSpan y 8 k ∨ y.toNat < 2 ^ 55 ∧ y.toNat % 8 = 0)
        (c35 → bad (.wbld d a b c) 35) ∧ (¬ c35 → c36 → bad (.wbld d a b c) 36)))

/-- The array starts, completes and halts matrix commands, and recovery abandons the halted ones.
R269, R270, R278, R282 and R349: the free array starts the head command of the core that the arbiter chooses, which is none
whose ACCLD waits for an exchange of residents that holds what it reads; an MMA whose recheck fails halts mx with KIND 9 and
EIDX 0, one or an ACCLD that meets poison with KIND 5, and neither reads nor writes.
R278, R282, R286 and R287: when the running command of an octet's array completes, the accumulator that it writes takes
all its words at once (zero, the other accumulator, 4,096 bytes, or the tile), C becomes its number, and the array is
free; with nothing running the event changes nothing.
R271 and R280: recovery of a halted mx sets C and Q to I, drops the halted operations, and records the abandoned range; mx
that is not halted is left as it is.
That a faulted operation stays queued until recovery is the model's reading (log entry 22). -/
def Obligations.MatrixCommandsRunOnTheArray : Prop :=
  (∀ (oct core : Nat) (s u : State) (o : EngOp) (rest : List EngOp), (s.octet oct).array = none →
      s.arbiter oct = some (core, u) → (s.core core).mx.queue = o :: rest → (s.core core).mx.halt = none →
      let starts : Prop := ∃ t, exec (.matrixCommandStart oct false) s = .next t ∧ (t.octet oct).array = some (core, o.num)
        ∧ t.mem = s.mem
      let halts (kind e : Nat) : Prop := ∃ t, exec (.matrixCommandStart oct false) s = .next t
        ∧ (t.core core).mx.halt = some (kind, e, o.num, s.wallUnits) ∧ (t.octet oct).array = none ∧ t.mem = s.mem
      (∀ a, o.cmd = .accz a ∨ o.cmd = .accmv a → starts)
      ∧ (∀ a x early, o.cmd = .accst a x early → starts)
      ∧ (∀ a x, o.cmd = .accld a x → (s.rangePoison (localKey core x, 4096) = none → starts)
        ∧ ∀ e, s.rangePoison (localKey core x, 4096) = some e → halts 5 e)
      ∧ (∀ a x y k, o.cmd = .mma a x y k →
        (s.recheck core k (s.sampled core o) = false → halts 9 0)
        ∧ (s.recheck core k (s.sampled core o) = true →
          let l : List Nat := ((mmaRanges core x y k (s.sampled core o)).take 2).filterMap s.rangePoison
          (l = [] → starts) ∧ ∀ e r, l = e :: r → halts 5 e)))
  ∧ (∀ (oct core a : Nat) (n : Acc) (s : State) (o : EngOp) (rest : List EngOp), (s.octet oct).array = none →
      (s.core core).mx.queue = o :: rest → o.cmd = .accld n a → s.swapping core a 4096 = true →
      ∃ t, exec (.matrixCommandStart oct false) s = .next t ∧ (t.core core).mx = (s.core core).mx
        ∧ (t.octet oct).array.map (·.1) ≠ some core ∧ t.mem = s.mem)
  ∧ (∀ (oct n : Nat) (s : State),
      ((s.octet oct).array = none → exec (.matrixCommandComplete oct false n) s = .next s)
      ∧ ((s.octet oct).fill = none → exec (.matrixCommandComplete oct true n) s = .next s))
  ∧ (∀ (oct core num n : Nat) (s : State) (o : EngOp) (rest : List EngOp),
      (s.octet oct).array = some (core, num) → (s.core core).mx.queue = o :: rest → o.num = num →
      (s.core core).mx.barred num = false → o.reply = none →
      let ends (a : Acc) (l : List (BitVec 32)) : Prop :=
        ∃ t, exec (.matrixCommandComplete oct false n) s = .next t ∧ t.accWords core a = l
          ∧ t.accWords core (otherAcc a) = s.accWords core (otherAcc a)
          ∧ (t.core core).mx.c = Nat.max (s.core core).mx.c num ∧ (t.octet oct).array = none
      (∀ a, o.cmd = .accz a → ends a (List.replicate 1024 0))
      ∧ (∀ a, o.cmd = .accmv a → ends (otherAcc a) (s.accWords core a))
      ∧ (∀ a x, o.cmd = .accld a x → o.snap = s.snapRanges [(localKey core x, 4096)] → x % 8 = 0 →
        ends a ((List.range 1024).map fun i => BitVec.ofNat 32 (s.read (localKey core x + 4 * i) 4)))
      ∧ (∀ a x y k, o.cmd = .mma a x y k → o.snap = s.snapRanges (mmaRanges core x y k o.fmt) →
        fmtRow (afmt o.fmt.1) = fmtRow (bfmt o.fmt.1) →
        ends a (mmaResult s.mem core x y k o.fmt (s.accWords core a))))
  ∧ (∀ (core : Nat) (s : State),
      ((s.core core).mx.halt = none → exec (.mxstatRecover core) s = .next s)
      ∧ (∀ k e f w, (s.core core).mx.halt = some (k, e, f, w) → ∃ t, exec (.mxstatRecover core) s = .next t
        ∧ (t.core core).mx.halt = none ∧ (t.core core).mx.c = (s.core core).mx.i ∧ (t.core core).mxq = (s.core core).mx.i
        ∧ (t.core core).mx.aband = some (f, (s.core core).mx.i, e, s.wallUnits)
        ∧ (∀ o ∈ (t.core core).mx.queue, o.num < f) ∧ t.mem = s.mem))

/-- Copy commands trap ENGARG with the code that fails first, and else take a number; CSTAT recovers.
R141 and R142: a copy command whose checks pass takes the next number of a channel that holds fewer than 4, with the
record and the coordinate block as they are now.
R134: a copy instruction whose arguments fail a check traps ENGARG with the lowest failing code: 1 and 2 for the addresses
of CPYIN and CPYOUT, 8 to 10 for CPYLL.
R135 and R143: CSTAT writes C of a running channel, or the halt flag, KIND and EIDX of a halted one, which it recovers: C
becomes I and the range from F to I is abandoned. -/
def Obligations.CopyCommandsAreCheckedAndNumbered : Prop :=
  (∀ (h : Chan) (d a b c : Reg) (s s1 s2 s3 : State) (x y z : Word), s.Clear → s.fpart.enabled .cpy = true →
      (s.fcore.engine (chanEng h)).queue.length < 4 → Reads s a x s1 → Reads s1 b y s2 → Reads s2 c z s3 →
      let issues (i : Instr) (cmd : Cmd) : Prop := ∃ t, exec i s = .next t ∧ Issued s3 t (chanEng h) d cmd
      (ownSpan y 128 128 → ownSpan z 32 32 → (∀ j, j < 16 → s.poisoned (s.ownKey y + 8 * j) = false) →
        (∀ j, j < 4 → s.poisoned (s.ownKey z + 8 * j) = false) →
        let rcd : List Word := (List.range 16).map fun j => s.word (s.ownKey y + 8 * j)
        let crd : List Word := (List.range 4).map fun j => s.word (s.ownKey z + 8 * j)
        cpyCode s.fpart s.focusCore x rcd crd = 0 →
          issues (.cpyin h d a b c) (.cpyin (x.toNat % 65536) rcd crd)
          ∧ issues (.cpyout h d a b c) (.cpyout (x.toNat % 65536) rcd crd))
      ∧ (cpyllCode s.fpart s.focusCore x y z = 0 → issues (.cpyll h d a b c) (.cpyll x y z.toNat)))
  ∧ (∀ (h : Chan) (d a b c : Reg) (s s1 s2 s3 : State) (x y z : Word), s.fpart.enabled .cpy = true →
      Reads s a x s1 → Reads s1 b y s2 → Reads s2 c z s3 →
      let bad (i : Instr) (code : Word) : Prop := exec i s = .next (s.trapped 0x09 code)
      (¬ ownSpan y 128 128 → bad (.cpyin h d a b c) 1 ∧ bad (.cpyout h d a b c) 1)
      ∧ (ownSpan y 128 128 → ¬ ownSpan z 32 32 → bad (.cpyin h d a b c) 2 ∧ bad (.cpyout h d a b c) 2)
      ∧ (let m : Instr := .cpyll h d a b c
        let n : Nat := z.toNat
        (coreForm s.fpart s.focusCore x = none ∨ coreForm s.fpart s.focusCore y = none → bad m 8)
        ∧ ∀ p o q r, coreForm s.fpart s.focusCore x = some (p, o) → coreForm s.fpart s.focusCore y = some (q, r) →
          let c9 : Prop := n = 0 ∨ n % 8 ≠ 0 ∨ 65536 < n ∨ 65536 < o + n ∨ 65536 < r + n
          (o % 8 ≠ 0 ∨ r % 8 ≠ 0 → bad m 8) ∧ (o % 8 = 0 → r % 8 = 0 → c9 → bad m 9)
          ∧ (o % 8 = 0 → r % 8 = 0 → ¬ c9 → p = q → o < r + n → r < o + n → bad m 10)))
  ∧ (∀ (h : Chan) (d : Reg) (s : State), s.Clear → s.fpart.enabled .cpy = true →
      (s.octet (octetOf s.focusCore)).engInbox = [] →
      let g : Engine := s.fcore.engine (chanEng h)
      (g.halt = none → exec (.cstat h d) s = .next (s.done 4 fun c => c.result d (BitVec.ofNat 64 (g.c % 2 ^ 63))))
      ∧ (∀ kind eidx f w, g.halt = some (kind, eidx, f, w) → ∃ t, exec (.cstat h d) s = .next t
        ∧ t.fctx = (s.fctx.result d (BitVec.ofNat 64 (2 ^ 63 + kind * 2 ^ 32 + eidx))).past 4
        ∧ (t.fcore.engine (chanEng h)).halt = none ∧ (t.fcore.engine (chanEng h)).c = g.i
        ∧ (t.fcore.engine (chanEng h)).aband = some (f, g.i, eidx, s.wallUnits)
        ∧ (∀ o ∈ (t.fcore.engine (chanEng h)).queue, o.num < f)))

/-- SHPCHK seals records; channel operations start in order, copy words, halt on a fault; commands of messages.
R127 and R140: SHPCHK gives 1 for an address it cannot check; else the code of the record, whose SEAL it writes to match
(0) or not to match (2 to 12), and nothing else of memory.
R118 and R120: the oldest operation of a channel starts once the stores it waits for are performed, unless the channel has
halted at it or may not work; until then it does not start.
R118, R119 and R142: the last word of a running CPYLL is copied and the operation is complete: C takes its number.
R135: a fault of a running operation halts its context with the kind, the index and the operation's number; C, I and
memory are unchanged; the fault of an operation that has been dropped meanwhile halts nothing.
R122 and R314: a copy command of the partition's own key that passes its checks and finds room is accepted and queued
under the next number of the channel that it names.
R157: a class-0x08 or class-0x09 message of a SEND is accepted, takes no number of any engine context, and is answered
with status 0xFF if its bit 11 asks for an answer. -/
def Obligations.ChannelsRunTheirOperations : Prop :=
  (∀ (d a : Reg) (s s1 : State) (x : Word), s.Clear → s.fpart.enabled .cpy = true → Reads s a x s1 →
      (¬ ownSpan x 128 128 → exec (.shpchk d a) s = .next (s1.done 4 fun c => c.result d 1))
      ∧ (ownSpan x 128 128 → (∀ j, j < 16 → s.poisoned (s.ownKey x + 8 * j) = false) →
        let r : List Word := (List.range 16).map fun j => s.word (s.ownKey x + 8 * j)
        ∃ t, exec (.shpchk d a) s = .next t ∧ t.fctx = (s1.fctx.result d (BitVec.ofNat 64 (shapeCode r))).past 4
          ∧ t.read (s.ownKey x + 6) 2 = (recFold r ^^^ if shapeCode r = 0 then 0x5A5A else 0xA5A5).toNat
          ∧ ∀ k, k < s.ownKey x + 6 ∨ s.ownKey x + 8 ≤ k → t.byte k = s.byte k))
  ∧ (∀ (core : Nat) (h : Chan) (s : State) (o : EngOp) (rest : List EngOp),
      (s.engine core (chanEng h)).queue = o :: rest →
      let waits : Prop := (s.engine core (chanEng h)).barred o.num = true ∨ o.stores ≠ [] ∨ o.posted ≠ [] ∨
        s.channelGoes core o = false
      (waits → exec (.channelOperationStart core h) s = .next s)
      ∧ (¬ waits → ∃ t, exec (.channelOperationStart core h) s = .next t ∧ t.mem = s.mem
        ∧ (t.engine core (chanEng h)).queue = { o with started := true } :: rest
        ∧ ∃ f ∈ t.flights, f.ev = .channelOperationComplete core h (opUnits o.cmd)))
  ∧ (∀ (core : Nat) (h : Chan) (s : State) (o : EngOp) (rest : List EngOp) (x y : Word) (n dc dof sc sof : Nat),
      (s.engine core (chanEng h)).queue = o :: rest → o.cmd = .cpyll x y n → o.num = (s.engine core (chanEng h)).c + 1 →
      o.started = true → (s.engine core (chanEng h)).halt = none → o.posted = [] → o.snap = [] → o.got = 0 → o.reply = none →
      s.enginesRun core = true → (s.octet (octetOf core)).engInbox = [] → (∀ f ∈ s.flights, f.held = false) →
      coreForm (s.partAt core) core x = some (dc, dof) → coreForm (s.partAt core) core y = some (sc, sof) →
      8 * (o.next + 1) = n → dof % 8 = 0 → sof % 8 = 0 → dof + n ≤ 65536 → sof + n ≤ 65536 →
      (s.octet (octetOf dc)).power = .active → (s.octet (octetOf sc)).power = .active →
      (s.core dc).exch = none → (s.core sc).exch = none →
      let dst : Nat := localKey dc (dof + 8 * o.next)
      let src : Nat := localKey sc (sof + 8 * o.next)
      s.poisoned dst = false → s.poisoned src = false →
        ∃ t, exec (.channelOperationComplete core h 1) s = .next t ∧ t.word dst = s.word src
          ∧ (∀ k, k < dst ∨ dst + 8 ≤ k → t.byte k = s.byte k) ∧ (t.engine core (chanEng h)).c = o.num)
  ∧ (∀ (core kind : Nat) (op : OpPlace) (e : Eng) (s : State) (o : EngOp) (rest : List EngOp),
      (s.engine core e).queue = o :: rest → o.started = true → (s.engine core e).halt = none →
        (o.num = op.num → ∃ t, exec (.engineFault core e kind op) s = .next t ∧ t.mem = s.mem
          ∧ t.engine core e = { s.engine core e with halt := some (kind, op.eidx, o.num, s.wallUnits) })
        ∧ (o.num ≠ op.num → exec (.engineFault core e kind op) s = .next s))
  ∧ (∀ (m : Message) (s : State) (cmd : Cmd), s.heldBack m.dest (s.msgPid m) (.copyCommand m) = none →
      s.keyOk m.dest m = true → s.Alone m → (s.octet (octetOf m.dest)).engInbox = [] →
      let owner : Nat := octetCore (octetOf m.dest) (bits (m.payload.getD 0 0) 10 8)
      let h : Eng := if (m.payload.getD 0 0).getLsbD 3 then .cp1 else .cp0
      s.checkCommand owner m = .ok cmd → (s.core owner).exch = none → (s.engine owner h).queue.length < 4 →
        ∃ t o, exec (.copyCommand m) s = .next t ∧ t.mem = s.mem
          ∧ (t.engine owner h).queue = (s.engine owner h).queue ++ [o] ∧ o.cmd = cmd
          ∧ o.num = (s.engine owner h).i + 1 ∧ (t.engine owner h).i = (s.engine owner h).i + 1)
  ∧ (∀ (m : Message) (s : State), s.keyOk m.dest m = true → s.Alone m →
      let rejects (i : Instr) : Prop := ∃ t, exec i s = .next t ∧ (∀ core e, (t.engine core e).i = (s.engine core e).i)
        ∧ ((m.payload.getD 0 0).getLsbD 11 = false → t = s.accepted m)
        ∧ ((m.payload.getD 0 0).getLsbD 11 = true →
          t = (s.accepted m).completeTo m.dest m.smod (senderOf m) m.launch (fold m.side.tag 1) 0xFF 0 0)
      (s.heldBack m.dest (s.msgPid m) (.collectiveCommand m) = none → rejects (.collectiveCommand m))
      ∧ (s.heldBack m.dest (s.msgPid m) (.matrixCommand m) = none → rejects (.matrixCommand m)))

/-- Streams bind and unbind, their port reads ahead, and a read of a bound register pops.
R145 and R149: SBIND of a valid descriptor binds the register at position 0 and makes its ordinary value 0, SUNB unbinds
it, QCNT gives the positions left.
R147: the stream port appends to a bound stream the value of its next element, or its next strip, as it lies in the local
memory, or none for one outside it or in a poisoned word; it reads no further than 8 x elements or 4 strips ahead.
R146: reading a bound stream register pops the element its port has read; past the last element it traps ENGARG 13, with
no value read yet the context waits, and an element outside the local memory traps ENGFAULT with its position. -/
def Obligations.StreamsBindReadAheadAndPop : Prop :=
  (∀ (q : BitVec 2) (v : BitVec 1) (d a : Reg) (s s1 : State) (x : Word), s.Clear → s.fpart.enabled .cpy = true →
      Reads s a x s1 →
      let words : List Word := (List.range 8).map fun j => s.word (s.ownKey x + 8 * j)
      let binds (i : Instr) (vec : Bool) (slot : Fin 6) (zero : Ctx → Prop) : Prop :=
        ∀ t, streamOf vec words = some t → ∃ u, exec i s = .next u ∧ u.fctx.bound (some slot) = some t ∧ t.pos = 0
          ∧ t.ahead = [] ∧ zero u.fctx ∧ u.fctx.pc = s.fctx.pc + 4 ∧ u.mem = s.mem
          ∧ ∀ k : Fin 6, k ≠ slot → u.fctx.bound (some k) = s1.fctx.bound (some k)
      (ownSpan x 64 64 → (∀ j, j < 8 → s.poisoned (s.ownKey x + 8 * j) = false) →
        binds (.sbind q a) false (xStreamSlot q) (fun c => c.getX (xStreamReg q) = 0)
        ∧ binds (.sbindV v a) true (vStreamSlot v) (fun c => c.getV (vStreamReg v) = 0)
        ∧ (streamOf false words = none → exec (.sbind q a) s = .next (s.trapped 0x09 12))
        ∧ (streamOf true words = none → exec (.sbindV v a) s = .next (s.trapped 0x09 12)))
      ∧ (¬ ownSpan x 64 64 → exec (.sbind q a) s = .next (s.trapped 0x09 11)
        ∧ exec (.sbindV v a) s = .next (s.trapped 0x09 11))
      ∧ (∃ t, exec (.sunb q) s = .next t ∧ t.fctx.bound (some (xStreamSlot q)) = none ∧ t.fctx.getX (xStreamReg q) = 0
        ∧ t.mem = s.mem)
      ∧ (∃ t, exec (.sunbV v) s = .next t ∧ t.fctx.bound (some (vStreamSlot v)) = none ∧ t.fctx.getV (vStreamReg v) = 0
        ∧ t.mem = s.mem)
      ∧ (let left (slot : Fin 6) : Word := match s.fctx.bound (some slot) with
          | some t => BitVec.ofNat 64 (t.length - t.pos) | none => 0
        exec (.qcnt d q) s = .next (s.done 4 fun c => c.result d (left (xStreamSlot q)))
        ∧ exec (.qcntV d v) s = .next (s.done 4 fun c => c.result d (left (vStreamSlot v)))))
  ∧ (∀ (core k : Nat) (slot : Fin 6) (s : State) (t : Stream), (s.ctx core k).bound (some slot) = some t →
      s.enginesRun core = true →
      let put (v : Option VWord) : Prop := ∃ u, exec (.streamRefill core k slot.val) s = .next u ∧ u.mem = s.mem
        ∧ (u.ctx core k).bound (some slot) = some { t with ahead := t.ahead ++ [v] }
      let room : Prop := t.ahead.length < (if t.vec then 4 else 8) ∧ t.pos + t.ahead.length < t.length
      (¬ room → exec (.streamRefill core k slot.val) s = .next s)
      ∧ (room → t.place (t.pos + t.ahead.length) = none → put none)
      ∧ (∀ o, room → t.place (t.pos + t.ahead.length) = some o → (s.core core).exch = none →
        (t.vec = false → t.size ≤ 8 → o % t.size = 0 → 0 < t.size → s.poisoned (localKey core o) = false → 8 % t.size = 0 →
          put (some ((extend (s.read (localKey core o) t.size) t.size t.signed).setWidth 512)))
        ∧ (t.vec = true → (∀ j, j < t.size → s.poisoned (localKey core o + j) = false) →
          put (some (BitVec.ofNat 512 (s.read (localKey core o) 64))))
        ∧ ((∃ j, j < t.size ∧ s.poisoned (localKey core o + j) = true) → put none)))
  ∧ (∀ (q : BitVec 2) (d : Reg) (i : BitVec 15) (s : State) (t : Stream), s.fctx.bound (some (xStreamSlot q)) = some t →
      let reads : Instr := .addi d (xStreamReg q) i
      (∀ v rest, t.pos < t.length → t.ahead = some v :: rest →
        exec reads s = .next ((s.popped (xStreamSlot q) t).done 4 fun c => c.result d (v.setWidth 64 + i.signExtend 64)))
      ∧ (t.length ≤ t.pos → exec reads s = .next (s.trapped 0x09 13))
      ∧ (∀ rest, t.pos < t.length → t.ahead = none :: rest → t.place t.pos = none → exec reads s = .next (s.trapped 0x0A (BitVec.ofNat 64 t.pos)))
      ∧ (t.pos < t.length → t.ahead = [] → s.fctx.mode = .ready → ∃ u, exec reads s = .next u ∧ u.fctx.mode = .blocked
        ∧ u.fctx.x = s.fctx.x ∧ u.fctx.pc = s.fctx.pc))

/-- GJOIN, GLEAVE and GINFO refuse, ask the group's home, and write what it answers.
R163: GJOIN writes 1, 2, 5 or 6 for a request that its core can refuse, asks the home for any other, and writes the code
that the home has answered; GRPBUSY traps with the group.
R164 and R165: GLEAVE writes 1 for a core that is no member, 2 for one with work on the group, else asks the home and
writes its answer; GINFO writes the group's word, or the status of cl, which it recovers, and traps ENGARG 25 for any
other selector; the answer that the word is poisoned traps POISON. -/
def Obligations.GroupInstructionsFollowTheirSteps : Prop :=
  (∀ (d a b : Reg) (s s1 s2 : State) (g v : Word), s.Clear → s.fpart.enabled .coll = true → Reads s a g s1 → Reads s1 b v s2 →
      let n : Nat := (v.extractLsb' 0 14).toNat
      let rank : Nat := (v.extractLsb' 16 14).toNat
      let known : Prop := g.toNat ≤ 4095 ∧ g.toNat < s.fpart.grpLimit.toNat
      let shape : Prop := v.extractLsb' 30 34 = 0 ∧ v.extractLsb' 14 2 = 0 ∧ 0 < n ∧ n ≤ 16368 ∧ rank < n
      let gives (r : State) (k : Word) : Prop := exec (.gjoin d a b) s = .next (r.done 4 fun c => c.result d k)
      (s.fctx.groupReply = none → (¬ known → gives s2 1) ∧ (known → ¬ shape → gives s2 2))
      ∧ (known → shape → s.fctx.groupReply = none →
        (s.slot s.focusCore g.toNat ≠ none → gives s2 5)
        ∧ (s.slot s.focusCore g.toNat = none → 16 ≤ s.fcore.groups.length → gives s2 6)
        ∧ (s.slot s.focusCore g.toNat = none → s.fcore.groups.length < 16 →
          ∃ t, exec (.gjoin d a b) s = .next t ∧ Asks s t g.toNat (.join n rank)))
      ∧ (∀ k w, s.fctx.groupReply = some (k, w) →
        (k ≠ 99 → gives s2.replied (BitVec.ofNat 64 k))
        ∧ (k = 99 → exec (.gjoin d a b) s = .next (s.trapped 0x0C g))))
  ∧ (∀ (d a b : Reg) (s s1 s2 : State) (g v : Word), s.Clear → s.fpart.enabled .coll = true → Reads s a g s1 → Reads s1 b v s2 →
      let gives (i : Instr) (r : State) (k : Word) : Prop := exec i s = .next (r.done 4 fun c => c.result d k)
      let known : Prop := g.toNat ≤ 4095 ∧ g.toNat < s.fpart.grpLimit.toNat
      (s.fctx.groupReply = none →
        (s.slot s.focusCore g.toNat = none → gives (.gleave d a) s1 1)
        ∧ (∀ x, s.slot s.focusCore g.toNat = some x →
          let busy : Prop := s.fcore.clOn g.toNat = true ∨ x.a0 ≠ 0 ∨ x.a1 ≠ 0
          (busy → gives (.gleave d a) s1 2)
          ∧ (¬ busy → ∃ t, exec (.gleave d a) s = .next t ∧ Asks s t g.toNat .leave))
        ∧ (v = 0 → known → ∃ t, exec (.ginfo d a b) s = .next t ∧ Asks s t g.toNat .read))
      ∧ (∀ k w, s.fctx.groupReply = some (k, w) →
        (k ≠ 99 → gives (.gleave d a) s1.replied (BitVec.ofNat 64 k))
        ∧ (k = 99 → exec (.gleave d a) s = .next (s.trapped 0x0C g))
        ∧ (v = 0 →
          (k ≠ 98 → gives (.ginfo d a b) s2.replied (ginfoWord w (s.slot s.focusCore g.toNat)))
          ∧ (k = 98 → ∃ u, exec (.ginfo d a b) s = .next (s.trapped 0x08 u))))
      ∧ (v = 0 → ¬ known → s.fctx.groupReply = none → gives (.ginfo d a b) s2 0)
      ∧ (v = 1 → ∃ t, exec (.ginfo d a b) s = .next t ∧ t.fctx = (s2.fctx.result d (s.fcore.cl.status)).past 4
        ∧ t.fcore.cl.halt = none ∧ t.fcore.cl.c = if s.fcore.cl.halt = none then s.fcore.cl.c else s.fcore.cl.i)
      ∧ (2 ≤ v.toNat → exec (.ginfo d a b) s = .next (s.trapped 0x09 25)))

/-- Group entries and barriers: joins, leaves, arrivals and releases at the home and in the slots.
R162 to R165: a group's entry makes each update in one step. A join of a rank that is free counts the member, and a leave
uncounts it; a group operation raises DRAIN if the group is complete; a read gives word 0, unless it is poisoned; each
answers its context.
R167 and R168: GARR writes the token of the core's slot and counts one arrival, which it sends to the home unless the core
has arrived already; an unknown group traps ENGARG 17, a group whose member the core is not 19.
R166: an arrival raises BARR; the last of a generation makes BARR 0, raises BGEN modulo 2^32 and sends a release to every
member; a release sets BSEEN and clears ARR in the slot of a core of its partition.
That a group is complete only with JOINED above 0 is the model's reading (log entry 23). -/
def Obligations.GroupEntriesCountMembersAndArrivals : Prop :=
  (∀ (r : GroupReq) (s u : State) (p : Partition), s.part r.pid = some p → r.who.ctx < 8 → s.module < 4096 → r.who.core < 12288 →
      (s.ctx r.who.core r.who.ctx).awaits r.who.id = true →
      let key : Nat := p.groupKey r.group
      rangeOk key 65536 = true → s.heldStop (homePlace key) (.groupEntryUpdate r) = none → s.queueLine key = some u →
      s.Settled key 65536 →
      let core : Nat := r.who.core
      let runs (code : Nat) (w : Word) (f : State → Prop) : Prop := ∃ t, exec (.groupEntryUpdate r) s = .next t
        ∧ (t.ctx core r.who.ctx).groupReply = some (code, w) ∧ (t.ctx core r.who.ctx).mode = .ready ∧ f t
      (∀ n rank, r.ask = .join n rank → s.slot core r.group = none → (s.core core).groups.length < 16 →
        grpDrain s key = 0 → s.member key rank = none → rank < n → n ≤ 16368 → grpJoined s key < n →
        grpJoined s key = 0 ∨ grpNmem s key = n →
        runs 0 0 fun t => grpJoined t key = grpJoined s key + 1 ∧ grpNmem t key = n ∧ t.member key rank = some (s.module, core)
          ∧ ∃ x, t.slot core r.group = some x ∧ x.rank = rank ∧ x.arr = false ∧ x.xep = 0 ∧ x.xc = 0)
      ∧ (∀ x, r.ask = .leave → s.slot core r.group = some x → grpDrain s key = 0 → grpBarr s key = 0 → x.rank < 16368 →
        0 < grpJoined s key →
        runs 0 0 fun t => grpJoined t key = grpJoined s key - 1 ∧ t.member key x.rank = none ∧ t.slot core r.group = none)
      ∧ (∀ x, r.ask = .leave → s.slot core r.group = some x → grpDrain s key ≠ 0 ∨ grpBarr s key ≠ 0 →
        runs 99 0 fun t => t.mem = s.mem)
      ∧ (r.ask = .drainUp → grpComplete s key = true → grpDrain s key + 1 < 2 ^ 32 →
        runs 2 (BitVec.ofNat 64 (r.group + grpNmem s key * 2 ^ 16)) fun t => grpDrain t key = grpDrain s key + 1)
      ∧ (r.ask = .drainUp → grpComplete s key = false → runs 1 0 fun t => t.mem = s.mem)
      ∧ (r.ask = .read → s.poisoned key = false → runs 0 (s.word key) fun t => t.mem = s.mem)
      ∧ (r.ask = .read → s.poisoned key = true → runs 98 0 fun t => t.mem = s.mem))
  ∧ (∀ (d a : Reg) (s s1 : State) (g : Word), s.Clear → s.fpart.enabled .coll = true → Reads s a g s1 →
      let known : Prop := g.toNat ≤ 4095 ∧ g.toNat < s.fpart.grpLimit.toNat
      (¬ known → exec (.garr d a) s = .next (s.trapped 0x09 17))
      ∧ (known → s.slot s.focusCore g.toNat = none → exec (.garr d a) s = .next (s.trapped 0x09 19))
      ∧ (∀ x, known → s.slot s.focusCore g.toNat = some x →
        let token : Word := g + x.bseen.setWidth 64 * 65536
        (x.arr = true → exec (.garr d a) s = .next (s1.done 4 fun c => { c.result d token with dordE := c.dordE + 1 }))
        ∧ (x.arr = false → s.fcore.arrivals = [] → ∃ t y, exec (.garr d a) s = .next t ∧ t.mem = s.mem
          ∧ t.fctx = ({ s1.fctx.result d token with dordE := s.fctx.dordE + 1 } : Ctx).past 4
          ∧ t.slot s.focusCore g.toNat = some y ∧ y = { x with arr := true }
          ∧ t.flights = s1.flights ++ [⟨s.focusCore, portPlace (portOf (s.fpart.groupKey g.toNat)), 0,
              .barrierArrival (s.pidOf s.focusCore) g.toNat s.focusCore, [], false⟩])))
  ∧ ((∀ (pid g core : Nat) (s u : State) (p : Partition), s.part pid = some p →
      let key : Nat := p.groupKey g
      rangeOk key 65536 = true → s.heldStop (homePlace key) (.barrierArrival pid g core) = none → s.queueLine key = some u →
      s.Settled key 65536 → grpNmem s key ≤ 16368 →
      (grpBarr s key + 1 < grpNmem s key → ∃ t, exec (.barrierArrival pid g core) s = .next t
        ∧ grpBarr t key = grpBarr s key + 1 ∧ grpBgen t key = grpBgen s key)
      ∧ (grpBarr s key + 1 = grpNmem s key → ∃ t, exec (.barrierArrival pid g core) s = .next t ∧ grpBarr t key = 0
        ∧ grpBgen t key = (grpBgen s key + 1) % 2 ^ 32
        ∧ ∀ r c, r < grpNmem s key → s.member key r = some (s.module, c) →
          ∃ f ∈ t.flights, f.dst = c ∧ f.ev = .barrierRelease c ⟨pid, g⟩ (grpBgen t key)))
    ∧ (∀ (pid core g bgen : Nat) (s : State), s.heldBack core pid (.barrierRelease core ⟨pid, g⟩ bgen) = none →
      (s.pidOf core ≠ pid → exec (.barrierRelease core ⟨pid, g⟩ bgen) s = .next s)
      ∧ ∀ x, s.pidOf core = pid → s.slot core g = some x →
        ∃ t y, exec (.barrierRelease core ⟨pid, g⟩ bgen) s = .next t ∧ t.slot core g = some y
        ∧ y.arr = false ∧ y.bseen = BitVec.ofNat 32 bgen ∧ y.rank = x.rank ∧ y.xep = x.xep ∧ y.xc = x.xc ∧ t.mem = s.mem))

/-- Collective commands trap ENGARG with the code that fails first, ask the group's home, and take a number.
R154, R173, R176 and R177: a collective instruction whose checks pass takes the next number of cl. XCHG, MCAST to a group
and REDUCE first raise DRAIN at the group's home, whose reply (2) says that the group is complete; an XCHG that has waited
for room goes on with the map and the epoch that it copied before.
R151, R154, R173, R176 to R179: a collective instruction traps ENGARG with the lowest failing code; MCAST to a window with
an octet outside its partition traps CONTAIN with its index; a group that is known asks its home first; an XCHG whose cl
is full has copied its map and counted XEP before it waits. -/
def Obligations.CollectiveCommandsAreCheckedAndNumbered : Prop :=
  (∀ (o : RedOp) (nl : Bool) (d a b c : Reg) (s s1 s2 s3 : State) (x y z w : Word), s.Clear → s.fpart.enabled .coll = true →
      s.fcore.cl.queue.length < 4 → Reads s a x s1 → Reads s1 b y s2 → Reads s2 c z s3 →
      let issues (i : Instr) (r : State) (cmd : Cmd) : Prop := ∃ t, exec i s = .next t ∧ Issued r t .cl d cmd
      let n : Nat := w.toNat / 65536
      let full (g : Word) : Prop := s.fpart.groupOk g = true ∧ s.fctx.groupReply = some (2, w)
      let own : Nat × Nat := (s.module, s.focusCore)
      let aims (l : List (Nat × Nat)) : List (Nat × Nat) := if nl then l.filter (· != own) else l
      let apart (l : List (Nat × Nat)) (k : Nat) : Prop := own ∉ l ∨ overlaps (x.toNat % 65536) (specOff y) k = false
      (ownSpan x 32 32 → s.Sound (s.ownKey x) 4 → haloOk (s.wordsAt (s.ownKey x) 4) = true → y.toNat < 16 →
        issues (.halo d a b) s2 (.halo (s.wordsAt (s.ownKey x) 4) y.toNat))
      ∧ (∀ sl m e, full y → s.slot s.focusCore y.toNat = some sl → s.fctx.mapCopy = some (m, e) →
        issues (.xchg d a b) (s2.replied.modF fun c => { c with mapCopy := none }) (.xchg y.toNat m sl.rank n e))
      ∧ (∀ sl, full y → s.slot s.focusCore y.toNat = some sl → s.fctx.mapCopy = none → ownSpan x 128 128 →
        s.Sound (s.ownKey x) 16 →
        let m : List Word := s.wordsAt (s.ownKey x) 16
        mapOk m = true → mapProd m (mapP m) = n → mapProd m (mapQ m) = n →
          issues (.xchg d a b) s2.replied (.xchg y.toNat m sl.rank n (sl.xep + 1)))
      ∧ (full z → misplaced x (specOff y) (8 * specCount y) 8 = false → specOk y = true →
        let l : List (Nat × Nat) := aims (s.members (s.fpart.groupKey z.toNat) n)
        apart l (8 * specCount y) → issues (.mcast nl d a b c) s3.replied
          (.mcast (some z.toNat) l (x.toNat % 65536) (specOff y) (specCount y) (y.getLsbD 32)))
      ∧ (misplaced x (specOff y) (8 * specCount y) 8 = false → specOk y = true → ownSpan z 64 64 → s.Sound (s.ownKey z) 8 →
        let desc : List Word := s.wordsAt (s.ownKey z) 8
        let spots : List (Nat × Nat × Nat) := windowOctets desc
        let idx : Nat := bits (recW desc 0) 18 16
        let l : List (Nat × Nat) := aims (spots.map fun t => (s.module, octetCore (t.2.2 * 48 + t.2.1) idx))
        windowOk desc = true → (∀ t ∈ spots, t.2.1 ≤ 47 ∧ t.2.2 ≤ 31 ∧ s.fpart.hasOctet (t.2.2 * 48 + t.2.1) = true) →
        apart l (8 * specCount y) → issues (.mcastWin nl d a b c) s3
          (.mcast none l (x.toNat % 65536) (specOff y) (specCount y) (y.getLsbD 32)))
      ∧ (∀ sl, full z → s.slot s.focusCore z.toNat = some sl → specOk y = true →
        let k : Nat := (if y.getLsbD 32 then 4 else 8) * specCount y
        misplaced x (specOff y) k (if y.getLsbD 32 then 4 else 8) = false → (o = .fadd → y.getLsbD 32 = true) →
        overlaps (x.toNat % 65536) (specOff y) k = false → issues (.reduce o d a b c) s3.replied
          (.reduce z.toNat sl.rank n o (y.getLsbD 32) (x.toNat % 65536) (specOff y) (specCount y))))
  ∧ (∀ (o : RedOp) (nl : Bool) (d a b c : Reg) (s s1 s2 s3 : State) (x y z : Word), s.Clear → s.fpart.enabled .coll = true →
      Reads s a x s1 → Reads s1 b y s2 → Reads s2 c z s3 →
      let bad (i : Instr) (code : Word) : Prop := exec i s = .next (s.trapped 0x09 code)
      (¬ ownSpan x 32 32 → bad (.halo d a b) 14)
      ∧ (ownSpan x 32 32 → s.Sound (s.ownKey x) 4 →
        (haloOk (s.wordsAt (s.ownKey x) 4) = false → bad (.halo d a b) 14)
        ∧ (haloOk (s.wordsAt (s.ownKey x) 4) = true → 16 ≤ y.toNat → bad (.halo d a b) 15))
      ∧ (s.fpart.groupOk y = false → bad (.xchg d a b) 17)
      ∧ (s.fpart.groupOk z = false → bad (.mcast nl d a b c) 17 ∧ bad (.reduce o d a b c) 17)
      ∧ (s.fctx.groupReply = none →
        (s.fpart.groupOk y = true → ∃ t, exec (.xchg d a b) s = .next t ∧ Asks s t y.toNat .drainUp)
        ∧ (s.fpart.groupOk z = true → (∃ t, exec (.mcast nl d a b c) s = .next t ∧ Asks s t z.toNat .drainUp)
          ∧ ∃ t, exec (.reduce o d a b c) s = .next t ∧ Asks s t z.toNat .drainUp))
      ∧ (∀ k w, s.fctx.groupReply = some (k, w) →
        (k ≠ 2 → (s.fpart.groupOk y = true → bad (.xchg d a b) 18)
          ∧ (s.fpart.groupOk z = true → bad (.mcast nl d a b c) 18 ∧ bad (.reduce o d a b c) 18))
        ∧ (k = 2 → (s.fpart.groupOk y = true → s.slot s.focusCore y.toNat = none → bad (.xchg d a b) 19)
          ∧ (s.fpart.groupOk z = true → s.slot s.focusCore z.toNat = none → bad (.reduce o d a b c) 19)))
      ∧ (∀ w sl, s.fctx.groupReply = some (2, w) → s.fpart.groupOk y = true → s.slot s.focusCore y.toNat = some sl →
        s.fctx.mapCopy = none →
        let i : Instr := .xchg d a b
        (¬ ownSpan x 128 128 → bad i 20)
        ∧ (ownSpan x 128 128 → s.Sound (s.ownKey x) 16 →
          let m : List Word := s.wordsAt (s.ownKey x) 16
          let fits : Prop := mapProd m (mapP m) = w.toNat / 65536 ∧ mapProd m (mapQ m) = w.toNat / 65536
          (mapOk m = false → bad i 21) ∧ (mapOk m = true → ¬ fits → bad i 22)
          ∧ (mapOk m = true → fits → 4 ≤ s.fcore.cl.queue.length → ∃ t r, exec i s = .next t ∧ t.fctx.pc = s.fctx.pc
            ∧ t.fctx.mapCopy = some (m, sl.xep + 1) ∧ t.slot s.focusCore y.toNat = some r ∧ r.xep = sl.xep + 1)))
      ∧ (let off : Nat := x.toNat % 65536
        let dst : Nat := specOff y
        let k8 : Nat := 8 * specCount y
        let kr : Nat := (if y.getLsbD 32 then 4 else 8) * specCount y
        let own : Nat × Nat := (s.module, s.focusCore)
        let aims (l : List (Nat × Nat)) : List (Nat × Nat) := if nl then l.filter (· != own) else l
        (∀ w, s.fctx.groupReply = some (2, w) → s.fpart.groupOk z = true →
          let i : Instr := .mcast nl d a b c
          (misplaced x dst k8 8 = true → bad i 23)
          ∧ (misplaced x dst k8 8 = false → (specOk y = false → bad i 25)
            ∧ (specOk y = true → own ∈ aims (s.members (s.fpart.groupKey z.toNat) (w.toNat / 65536)) →
              overlaps off dst k8 = true → bad i 26)))
        ∧ (∀ w sl, s.fctx.groupReply = some (2, w) → s.fpart.groupOk z = true → s.slot s.focusCore z.toNat = some sl →
          let i : Instr := .reduce o d a b c
          let wrong : Prop := specOk y = false ∨ o = .fadd ∧ y.getLsbD 32 = false
          (misplaced x dst kr (if y.getLsbD 32 then 4 else 8) = true → bad i 23)
          ∧ (misplaced x dst kr (if y.getLsbD 32 then 4 else 8) = false → (wrong → bad i 25)
            ∧ (¬ wrong → overlaps off dst kr = true → bad i 26)))
        ∧ (let i : Instr := .mcastWin nl d a b c
          let desc : List Word := s.wordsAt (s.ownKey z) 8
          let inside (t : Nat × Nat × Nat) : Bool := t.2.1 ≤ 47 && t.2.2 ≤ 31 && s.fpart.hasOctet (t.2.2 * 48 + t.2.1)
          let l : List (Nat × Nat) := aims (((windowOctets desc).filter inside).map fun t =>
            (s.module, octetCore (t.2.2 * 48 + t.2.1) (bits (recW desc 0) 18 16)))
          (misplaced x dst k8 8 = true → bad i 23)
          ∧ (misplaced x dst k8 8 = false → (¬ ownSpan z 64 64 → bad i 24)
            ∧ (ownSpan z 64 64 → s.Sound (s.ownKey z) 8 →
              (windowOk desc = false → bad i 24)
              ∧ (windowOk desc = true → (specOk y = false → bad i 25)
                ∧ (specOk y = true → (own ∈ l → overlaps off dst k8 = true → bad i 26)
                  ∧ (own ∉ l ∨ overlaps off dst k8 = false → ∀ t, (windowOctets desc).find? (fun t => !inside t) = some t →
                    exec i s = .next (s.trapped 0x0D (BitVec.ofNat 64 t.1))))))))))

/-- Pushes, deposits and deliveries are written at their core, counted and acknowledged, or refused.
R152, R153, R174 and R176: what a core's engine receives is written into its local memory, unless it is a deposit for an
epoch too far ahead, or for a group of which the core is no member; a push raises its side's counter, a deposit its
epoch's, and each is acknowledged to its sender.
That a deposit of a differing digest is written and not counted is the model's reading (log entry 23). -/
def Obligations.EnginesReceiveTheirTraffic : Prop :=
  (∀ (p : Push) (s : State), (∀ off n, s.heldEngine p.dstCore (s.pidOf p.srcCore) off n (.haloPush p) = none) →
    p.size ∈ [1, 2, 4, 8] → (∀ c ∈ p.cells, s.poisoned (localKey p.dstCore c.1) = false) →
    p.cells.Pairwise (fun c e => c.1 + p.size ≤ e.1 ∨ e.1 + p.size ≤ c.1) →
    let count (t : State) : Dir → Nat
      | .n => (t.core p.dstCore).haloN.count | .e => (t.core p.dstCore).haloE.count
      | .s => (t.core p.dstCore).haloS.count | .w => (t.core p.dstCore).haloW.count
    ∃ t, exec (.haloPush p) s = .next t ∧ count t p.side = count s p.side + 1
      ∧ (∀ e, e ≠ p.side → count t e = count s e)
      ∧ (∀ c ∈ p.cells, t.read (localKey p.dstCore c.1) p.size = c.2.toNat % 256 ^ p.size)
      ∧ ∃ f ∈ t.flights, f.dst = p.srcCore ∧ f.ev = .engineAcknowledgement p.srcCore p.op)
  ∧ (∀ (d : Deposit) (s : State), s.heldEngine d.dstCore (s.pidOf d.srcCore) d.off d.size (.deposit d) = none →
    d.module = s.module → s.poisoned (localKey d.dstCore d.off) = false → d.size ∈ [1, 2, 4, 8] →
    (s.slot d.dstCore d.group = none → ∃ t, exec (.deposit d) s = .next t ∧ t.mem = s.mem
      ∧ ∃ f ∈ t.flights, f.ev = .engineAcknowledgement d.srcCore d.op)
    ∧ (∀ x, s.slot d.dstCore d.group = some x →
      (x.xc + 2 < d.epoch → ∃ t, exec (.deposit d) s = .next t ∧ t.mem = s.mem ∧ t.cores = s.cores
        ∧ (s.wallUnits + 1000 * unitsPerNs, Event.depositResend d) ∈ t.timers)
      ∧ (d.epoch ≤ x.xc + 2 →
        ∃ t, exec (.deposit d) s = .next t ∧ t.read (localKey d.dstCore d.off) d.size = d.v.toNat % 256 ^ d.size
          ∧ (∀ k, k < localKey d.dstCore d.off ∨ localKey d.dstCore d.off + d.size ≤ k → t.byte k = s.byte k)
          ∧ (∃ f ∈ t.flights, f.ev = .engineAcknowledgement d.srcCore d.op)
          ∧ (x.xc < d.epoch → x.digest d.epoch = none ∨ x.digest d.epoch = some d.digest →
            ∃ y, t.slot d.dstCore d.group = some y ∧ y.count d.epoch = x.count d.epoch + 1
              ∧ y.digest d.epoch = some d.digest)
          ∧ (d.epoch ≤ x.xc → (s.core d.dstCore).cl.halt = none →
            ∃ e w, (t.core d.dstCore).cl.halt = some (8, e, (s.core d.dstCore).cl.c + 1, w)))))
  ∧ (∀ (d : Delivery) (s : State), s.heldEngine d.dstCore (s.pidOf d.srcCore) d.off (8 * d.words.length)
      (.multicastDelivery d) = none → d.module = s.module → d.words ≠ [] → d.off % 8 = 0 →
    s.Sound (localKey d.dstCore d.off) d.words.length → s.waitTab d.dstCore = [] →
    ∃ t, exec (.multicastDelivery d) s = .next t ∧ t.wordsAt (localKey d.dstCore d.off) d.words.length = d.words
      ∧ t.tag (localKey d.dstCore (d.off + 8 * (d.words.length - 1)))
        = (d.fe || s.tag (localKey d.dstCore (d.off + 8 * (d.words.length - 1))))
      ∧ ∃ f ∈ t.flights, f.ev = .engineAcknowledgement d.srcCore d.op)

/-- Collective operations start, send, reduce, are owed acknowledgements, retry and complete.
R120, R156, R172 and R173: a collective operation starts when the stores it releases are performed; a running XCHG sends
the deposit of its next element where the map puts it; an acknowledgement counts down what an operation is owed; an MCAST
owed nothing more, and an XCHG that has received all its elements, complete: C takes the number.
R158 and R178: a partial is staged in its octet if it finds room among 262,144 bytes, and else sent again after 1 wall µs;
the result is written at each member's destination, and completes the member's running REDUCE.
R158 and R174: a refused deposit or partial goes out again to the module and core it names, unless its sender's partition
does not run, when it waits another wall µs.
That an exchange sends one element at a time is the model's choice (log entry 10). -/
def Obligations.CollectiveOperationsRunAndComplete : Prop :=
  (∀ (core : Nat) (s : State) (o : EngOp) (rest : List EngOp), (s.core core).cl.queue = o :: rest →
      (s.core core).cl.halt = none → o.reply = none → (∀ q ∈ rest, q.num ≠ o.num) →
      (s.enginesRun core = true → o.stores = [] → o.posted = [] →
        (o.started = false → ∃ t q, exec (.collectiveOperationStart core) s = .next t ∧ t.mem = s.mem
          ∧ (t.core core).cl.queue = q :: rest ∧ q = { o with started := true })
        ∧ (∀ g m rank n e c v, o.started = true → o.cmd = .xchg g m rank n e → o.next < mapCount m rank →
          (s.core core).exch = none →
          let x : Nat × Nat × Nat := mapElement m rank o.next
          s.member ((s.partAt core).groupKey g) x.2.1 = some (s.module, c) → s.localValue core x.1 (mapSize m) = some v →
          ∃ t q, exec (.collectiveOperationStart core) s = .next t ∧ (t.core core).cl.queue = q :: rest
            ∧ q.next = o.next + 1 ∧ q.out = o.out + 1
            ∧ ∃ f ∈ t.flights, f.dst = c ∧ f.ev = .deposit
              ⟨(s.partAt core).key, core, o.num, s.module, s.module, c, g, e, foldWords m, x.2.2, mapSize m, v⟩))
      ∧ (∃ t, exec (.engineAcknowledgement core o.num) s = .next t
        ∧ (t.core core).cl.queue = { o with out := o.out - 1 } :: rest ∧ t.mem = s.mem)
      ∧ (s.enginesRun core = true → o.started = true → o.out = 0 → o.num = (s.core core).cl.c + 1 →
        (∀ g l a b n fe, o.cmd = .mcast g l a b n fe → l.length ≤ o.next →
          ∃ t, exec (.collectiveOperationComplete core) s = .next t ∧ (t.core core).cl.c = o.num
            ∧ (t.core core).cl.queue = rest)
        ∧ (∀ g m rank n e x, o.cmd = .xchg g m rank n e → mapCount m rank ≤ o.next → s.slot core g = some x →
          x.count e = mapExpected m rank → x.xc + 1 = e →
          ∃ t y, exec (.collectiveOperationComplete core) s = .next t ∧ (t.core core).cl.c = o.num
            ∧ t.slot core g = some y ∧ y.xc = e ∧ y.count e = 0)))
  ∧ (∀ (p : Partial) (s : State), p.module = s.module →
      let used : Nat := ((s.octet (octetOf p.dstCore)).staging.map fun x => partialBytes x.p).sum
      (s.heldBack p.dstCore (s.pidOf p.srcCore) (.reducePartial p) = none →
        (used + partialBytes p ≤ 262144 → ∃ t, exec (.reducePartial p) s = .next t ∧ t.mem = s.mem
          ∧ (t.octet (octetOf p.dstCore)).staging = (s.octet (octetOf p.dstCore)).staging ++ [⟨p⟩]
          ∧ ∃ f ∈ t.flights, f.ev = .engineAcknowledgement p.srcCore p.op)
        ∧ (262144 < used + partialBytes p → ∃ t, exec (.reducePartial p) s = .next t ∧ t.mem = s.mem ∧ t.octets = s.octets
          ∧ (s.wallUnits + 1000 * unitsPerNs, Event.partialResend p) ∈ t.timers))
      ∧ (s.heldEngine p.dstCore (s.pidOf p.srcCore) p.off (partialBytes p) (.reduceResult p) = none → p.w32 = false →
        p.off % 8 = 0 → s.Sound (localKey p.dstCore p.off) p.values.length →
        ∃ t, exec (.reduceResult p) s = .next t ∧ t.wordsAt (localKey p.dstCore p.off) p.values.length = p.values
          ∧ ∀ o rest, (s.core p.dstCore).cl.queue = o :: rest → (s.core p.dstCore).cl.runningReduce p.group = true →
            ∃ q, (t.core p.dstCore).cl.queue = q :: rest ∧ q.result = true ∧ q.num = o.num))
  ∧ (∀ (d : Deposit) (p : Partial) (s : State),
      (s.partRuns d.srcCore = false → ∃ t, exec (.depositResend d) s = .next t ∧ t.flights = s.flights
        ∧ (s.wallUnits + 1000 * unitsPerNs, Event.depositResend d) ∈ t.timers)
      ∧ (s.partRuns d.srcCore = true →
        (d.dstModule = s.module → exec (.depositResend d) s = .next (s.fly d.srcCore d.dstCore 2 (.deposit d)))
        ∧ (d.dstModule ≠ s.module → exec (.depositResend d) s = .next (s.toModule d.dstModule 2 (.deposit d))))
      ∧ (s.partRuns p.srcCore = false → ∃ t, exec (.partialResend p) s = .next t ∧ t.flights = s.flights
        ∧ (s.wallUnits + 1000 * unitsPerNs, Event.partialResend p) ∈ t.timers)
      ∧ (s.partRuns p.srcCore = true →
        (p.dstModule = s.module → exec (.partialResend p) s = .next (s.fly p.srcCore p.dstCore 2 (.reducePartial p)))
        ∧ (p.dstModule ≠ s.module → exec (.partialResend p) s = .next (s.toModule p.dstModule 2 (.partialRed p)))))

/-- CWAIT, HWAIT, GWAIT, GBAR and JOIN go on, time out, trap or wait as stated.
R144 and R370: CWAIT traps ENGARG 16 for a number above I and ENGFAULT with EIDX for a number in an abandoned range or at
a halt; it succeeds with TO = 0 once C has reached the number, times out with TO = 1 at its deadline, and waits otherwise;
with a deadline only what is stamped before it counts. A success on mx raises Q.
R155, R168 and R370: HWAIT, GWAIT and a GBAR that has arrived go on with TO = 0 when their counter or generation is past
what they wait for, with TO = 1 at their deadline, and wait otherwise.
R168: a GBAR that has not arrived arrives as GARR does, keeps the generation and sets AP, and waits.
R337: JOIN of slots that are all full empties them in one step and writes their number with TO = 0; at its deadline it
writes how many are full from slot 0 up, with TO = 1; a poisoned slot traps POISON, a range outside the local memory or
above 256 slots traps ACCESS.
That a JOIN's timeout counts slots filled before its deadline is the model's reading (log entry 16), and that a GWAIT's
reserved bits trap before its group does is its choice (log entry 38). -/
def Obligations.EngineAndBarrierWaitsEndAsStated : Prop :=
  (∀ (e : Eng) (a b : Reg) (s s1 s2 : State) (n t : Word), s.Clear → s.Unlogged → s.fctx.mode = .ready → s.fctx.wait = none →
      Reads s a n s1 → Reads s1 b t s2 →
      let g : Engine := s.fcore.engine e
      let i : Instr := .cwait e a b
      let k : BitVec 32 := if t = 0 then 0 else 1
      let counted (stamp : Nat) : Prop := t = 0 ∨ stamp < t.toNat * 1600000
      let lost (eidx : Nat) : Prop := (∃ f l w, g.aband = some (f, l, eidx, w) ∧ f ≤ n.toNat ∧ n.toNat ≤ l ∧ counted w)
        ∨ (∃ c f w, g.halt = some (c, eidx, f, w) ∧ f ≤ n.toNat ∧ counted w)
      let come : Prop := n = 0 ∨ ∃ p ∈ g.hist, n.toNat ≤ p.1 ∧ counted p.2
      (g.i < n.toNat → exec i s = .next (s.trapped 0x09 16))
      ∧ (n.toNat ≤ g.i →
        (∀ eidx, (∀ x, lost x → x = eidx) → lost eidx → exec i s = .next (s.trapped 0x0A (BitVec.ofNat 64 eidx)))
        ∧ ((∀ x, ¬ lost x) → come → ∃ u, exec i s = .next u ∧ u.fctx = (s.waited s2 false k id).fctx ∧ u.mem = s.mem
          ∧ u.fcore.mxq = if e = .mx then Nat.max s.fcore.mxq n.toNat else s.fcore.mxq)
        ∧ ((∀ x, ¬ lost x) → ¬ come → t ≠ 0 → t.toNat * 1600000 ≤ s.wallUnits →
          exec i s = .next (s.waited s2 true 1 id))
        ∧ ((∀ x, ¬ lost x) → ¬ come → t = 0 ∨ s.wallUnits < t.toNat * 1600000 → ∃ u, exec i s = .next u ∧ s.StillWaits u)))
  ∧ (∀ (d : Dir) (a b : Reg) (s s1 s2 : State) (n t : Word), s.Clear → s.Unlogged → s.fctx.mode = .ready → s.fctx.wait = none →
      Reads s a n s1 → Reads s1 b t s2 →
      let counted (stamp : Nat) : Prop := t = 0 ∨ stamp < t.toNat * 1600000
      let coll : Prop := s.fpart.enabled .coll = true
      let ends (i : Instr) (come : Prop) (k : BitVec 32) (f : Ctx → Ctx) : Prop :=
        (come → exec i s = .next (s.waited s2 false k f))
        ∧ (¬ come → t ≠ 0 → t.toNat * 1600000 ≤ s.wallUnits → exec i s = .next (s.waited s2 true k f))
        ∧ (¬ come → t = 0 ∨ s.wallUnits < t.toNat * 1600000 → ∃ u, exec i s = .next u ∧ s.StillWaits u)
      ends (.hwait d a b) (n = 0 ∨ ∃ p ∈ (s.fcore.halo d).hist, n.toNat ≤ p.1 ∧ counted p.2) (if t = 0 then 0 else 1) id
      ∧ (coll → n.extractLsb' 48 16 ≠ 0 ∨ n.extractLsb' 12 4 ≠ 0 → exec (.gwait a b) s = .next (s.trapped 0x09 27))
      ∧ (coll → n.extractLsb' 48 16 = 0 → n.extractLsb' 12 4 = 0 →
        let g : Nat := (n.extractLsb' 0 12).toNat
        (s.slot s.focusCore g = none → exec (.gwait a b) s = .next (s.trapped 0x09 19))
        ∧ (∀ x, s.slot s.focusCore g = some x →
          ends (.gwait a b) (x.seen (n.extractLsb' 16 32) t = true) 1 id))
      ∧ (∀ x, coll → s.fctx.ap = true → s.slot s.focusCore n.toNat = some x →
        ends (.gbar a b) (x.seen s.fctx.waitGen t = true) 1 fun c => { c with ap := false }))
  ∧ (∀ (a b : Reg) (s s1 s2 : State) (n t : Word) (x : GroupSlot), s.Clear → s.Unlogged → s.fctx.mode = .ready →
      s.fctx.wait = none → s.fpart.enabled .coll = true → Reads s a n s1 → Reads s1 b t s2 → s.fctx.ap = false →
      s.fpart.groupOk n = true → s.slot s.focusCore n.toNat = some x → x.arr = false → s.fcore.arrivals = [] →
      t = 0 ∨ s.wallUnits < t.toNat * 1600000 → x.seen x.bseen t = false →
      ∃ u, exec (.gbar a b) s = .next u ∧ u.fctx.ap = true ∧ u.fctx.waitGen = x.bseen ∧ u.fctx.pc = s.fctx.pc
        ∧ (∃ y, u.slot s.focusCore n.toNat = some y ∧ y.arr = true)
        ∧ ∃ f ∈ u.flights, f.ev = .barrierArrival (s.pidOf s.focusCore) n.toNat s.focusCore)
  ∧ (∀ (d a b : Reg) (s s1 s2 : State) (n t : Word), s.Clear → s.Unlogged → s.fctx.mode = .ready → s.fctx.wait = none →
      Reads s a n s1 → Reads s1 b t s2 →
      let i : Instr := .join d a b
      let base : Nat := s.fctx.joinBase.toNat * 16
      let full (j : Nat) : Bool := s.slotFull s.focusCore base t j
      (256 < n.toNat ∨ 65536 < base + 16 * n.toNat → exec i s = .next (s.trapped 0x05 n))
      ∧ (n.toNat ≤ 256 → base + 16 * n.toNat ≤ 65536 →
        (∀ j, j < n.toNat → s.poisoned (joinKey s.focusCore base j) = true →
          (∀ k, k < j → s.poisoned (joinKey s.focusCore base k) = false) →
          exec i s = .next (s.trapped 0x08 (BitVec.ofNat 64 (0xFC00000000000000 + base + 16 * j + 8))))
        ∧ ((∀ j, j < n.toNat → s.poisoned (joinKey s.focusCore base j) = false) →
          ((∀ j, j < n.toNat → full j = true) → s.waitTab s.focusCore = [] → ∃ u, exec i s = .next u ∧ u.mem = s.mem
            ∧ u.fctx = (s.waited s2 false 1 fun c => c.result d n).fctx
            ∧ ∀ j, j < n.toNat → u.tag (joinKey s.focusCore base j) = false)
          ∧ (∀ j, j < n.toNat → full j = false → (∀ k, k < j → full k = true) → t ≠ 0 → t.toNat * 1600000 ≤ s.wallUnits →
            exec i s = .next (s.waited s2 true 1 fun c => c.result d (BitVec.ofNat 64 j)))
          ∧ (∀ j, j < n.toNat → full j = false → t = 0 ∨ s.wallUnits < t.toNat * 1600000 →
            ∃ u, exec i s = .next u ∧ s.StillWaits u))))

/-- WAITC, WAITW and WAITA go on, time out or wait as stated, at their instruction and at their events.
R362: WAITC waits n run cycles, at least one, and then goes on; WAITW goes on with TO = 0 once wall has reached its time
before its deadline, and with TO = 1 at the deadline.
R362: WAITA writes 2 with no slot armed or fired; the slot of the lowest stamp, a tie giving slot 0, which becomes idle; 3
with TO = 1 at its deadline; and waits otherwise.
R362, R370 and R418: a registered WAITC whose cycles have passed, or a WAITW whose time has come, ends at its event with
TO = 0; a WAITW whose deadline has come first ends with TO = 1; nothing ends where nothing waits, or while the partition
does not run. The focus returns to the context it was at. -/
def Obligations.TimeAndAlarmWaitsEndAsStated : Prop :=
  (∀ (a b : Reg) (s s1 s2 : State) (n t : Word), s.Clear → s.Unlogged → s.fctx.mode = .ready →
      Reads s a n s1 → Reads s1 b t s2 →
      (s.fctx.wait = none →
        (2 ^ 48 ≤ n.toNat → exec (.waitc a) s = .next (s.trapped 0x05 n))
        ∧ (n.toNat < 2 ^ 48 → ∃ u, exec (.waitc a) s = .next u ∧ s.StillWaits u
          ∧ u.fctx.waitTarget = some (s.cycle s.focusCore + Nat.max 1 n.toNat))
        ∧ (let k : BitVec 32 := if t = 0 then 0 else 1
          let come : Prop := n.toNat * 1600000 ≤ s.wallUnits ∧ (t = 0 ∨ n.toNat < t.toNat)
          (come → exec (.waitw a b) s = .next (s.waited s2 false k id))
          ∧ (¬ come → t ≠ 0 → t.toNat * 1600000 ≤ s.wallUnits → exec (.waitw a b) s = .next (s.waited s2 true k id))
          ∧ (¬ come → t = 0 ∨ s.wallUnits < t.toNat * 1600000 → ∃ u, exec (.waitw a b) s = .next u ∧ s.StillWaits u)))
      ∧ (∀ m k, s.fctx.wait = some (.cycles m) → s.fctx.waitTarget = some k → k ≤ s.cycle s.focusCore →
        exec (.waitc a) s = .next (s.done 4 fun c => { c with tmo := false })))
  ∧ (∀ (d b : Reg) (s s1 : State) (t : Word), s.Clear → s.Unlogged → s.fctx.mode = .ready → s.fctx.wait = none →
      Reads s b t s1 →
      let i : Instr := .waita d b
      let counted (stamp : Nat) : Prop := t = 0 ∨ stamp < t.toNat * 1600000
      let first (x y : Alarm) (tie : Bool) : Prop := ∃ n, x = .fired n ∧ counted n ∧
        ∀ m, y = .fired m → counted m → n < m ∨ tie = true ∧ n = m
      let a0 : Alarm := s.fctx.alarm0
      let a1 : Alarm := s.fctx.alarm1
      (a0 = .idle → a1 = .idle → exec i s = .next (s.waited s1 false 1 fun c => c.result d 2))
      ∧ (first a0 a1 true → exec i s = .next (s.waited s1 false 1 fun c => ({ c with alarm0 := .idle } : Ctx).result d 0))
      ∧ (first a1 a0 false → exec i s = .next (s.waited s1 false 1 fun c => ({ c with alarm1 := .idle } : Ctx).result d 1))
      ∧ (¬ first a0 a1 true → ¬ first a1 a0 false → ¬ (a0 = .idle ∧ a1 = .idle) →
        (t ≠ 0 → t.toNat * 1600000 ≤ s.wallUnits → exec i s = .next (s.waited s1 true 1 fun c => c.result d 3))
        ∧ (t = 0 ∨ s.wallUnits < t.toNat * 1600000 → ∃ u, exec i s = .next u ∧ s.StillWaits u)))
  ∧ (∀ (core k : Nat) (s : State), k < 8 → (s.ctx core k).mode = .blocked → (s.ctx core k).dlDue = none →
      ({ s with focusCore := core, focusCtx := k } : State).Unlogged →
      let ends (i : Instr) (tmo : Bool) : Prop := ∃ u, exec i s = .next u ∧ (u.ctx core k).tmo = tmo
        ∧ (u.ctx core k).pc = (s.ctx core k).pc + 4 ∧ (u.ctx core k).wait = none ∧ u.focusCore = s.focusCore
        ∧ u.focusCtx = s.focusCtx ∧ u.mem = s.mem
      (∀ n m, s.partRuns core = true → (s.ctx core k).wait = some (.cycles n) → (s.ctx core k).waitTarget = some m → m ≤ s.cycle core →
        ends (.waitTargetReached core k) false)
      ∧ (∀ t d, s.partRuns core = true → (s.ctx core k).wait = some (.wall t d) →
        (t.toNat * 1600000 ≤ s.wallUnits → d = 0 ∨ t.toNat < d.toNat → ends (.waitTargetReached core k) false)
        ∧ (d ≠ 0 → d.toNat ≤ t.toNat → d.toNat * 1600000 ≤ s.wallUnits → ends (.waitDeadlineExpiry core k) true))
      ∧ ((s.ctx core k).wait = none ∨ s.partRuns core = false → exec (.waitTargetReached core k) s = .next s
        ∧ exec (.waitDeadlineExpiry core k) s = .next s))

/-- Time instructions read and arm; alarms, deadlines, windows and wall discipline act at their events.
R364, R366 and R368: the time reads write the cycle count and wall; ALC arms a slot for a count of cycles or fires it for
0, ALW arms it for a time or fires it if that has come, ALX makes it idle; DLARM and DLCLR write the deadline.
R2, R3, R358, R359, R364, R366 and R367: at its time an armed alarm slot is fired, stamped with the wall time of its cycle
or with its time, and an armed deadline falls due and becomes 0; the ratio of a core's window is the cycles counted in it;
wall's rate stays within 100 parts per million, and the clocks on rails without an emergency within 0.70 to 1.50 cycles
per wall ns. -/
def Obligations.TimeIsReadAlarmsAndDeadlinesFire : Prop :=
  (∀ (d b : Reg) (a : BitVec 1) (s s1 : State) (n : Word), s.Unlogged → Reads s b n s1 →
      let sets (c : Ctx) (v : Alarm) : Ctx := if a = 0 then { c with alarm0 := v } else { c with alarm1 := v }
      exec (.rdcyc d) s = .next (s.done 4 fun c =>
        ({ c with dordE := c.dordE + 1 } : Ctx).result d (BitVec.ofNat 64 (s.cycle s.focusCore)))
      ∧ exec (.rdwall d) s = .next (s.done 4 fun c =>
        ({ c with dordE := c.dordE + 1 } : Ctx).result d (BitVec.ofNat 64 (s.wallUnits / 1600000)))
      ∧ (n = 0 → exec (.alc a b) s = .next (s1.done 4 fun c => sets c (.fired s.wallUnits)))
      ∧ (0 < n.toNat → n.toNat < 2 ^ 48 →
        exec (.alc a b) s = .next (s1.done 4 fun c => sets c (.cycle (s.cycle s.focusCore + n.toNat))))
      ∧ (2 ^ 48 ≤ n.toNat → exec (.alc a b) s = .next (s.trapped 0x05 n))
      ∧ (n.toNat * 1600000 ≤ s.wallUnits → exec (.alw a b) s = .next (s1.done 4 fun c => sets c (.fired s.wallUnits)))
      ∧ (s.wallUnits < n.toNat * 1600000 → ∃ u, exec (.alw a b) s = .next u ∧ u.fctx = (sets s1.fctx (.wall n)).past 4
        ∧ (n.toNat * 1600000, Event.alarmFire s.focusCore s.focusCtx a.toNat) ∈ u.timers ∧ u.mem = s.mem)
      ∧ exec (.alx a) s = .next (s.done 4 fun c => sets c .idle)
      ∧ (∃ u, exec (.dlarm b) s = .next u ∧ u.fctx = ({ s1.fctx with deadline := n } : Ctx).past 4 ∧ u.mem = s.mem
        ∧ (n ≠ 0 → (n.toNat * 1600000, Event.deadlineTrap s.focusCore s.focusCtx) ∈ u.timers))
      ∧ (∃ u, exec .dlclr s = .next u ∧ u.fctx = ({ s.fctx with deadline := 0 } : Ctx).past 4 ∧ u.mem = s.mem
        ∧ ∀ n, (n, Event.deadlineTrap s.focusCore s.focusCtx) ∉ u.timers))
  ∧ ((∀ (core k slot : Nat) (s : State), k < 8 → slot < 2 →
      let a : Alarm := if slot = 0 then (s.ctx core k).alarm0 else (s.ctx core k).alarm1
      let fires (stamp : Nat) : Prop := ∃ u, exec (.alarmFire core k slot) s = .next u ∧ u.mem = s.mem
        ∧ u.ctx core k = if slot = 0 then { s.ctx core k with alarm0 := .fired stamp }
          else { s.ctx core k with alarm1 := .fired stamp }
      (∀ n, a = .cycle n → (n ≤ s.cycle core → fires (s.stampOfCycle core n))
        ∧ (s.cycle core < n → exec (.alarmFire core k slot) s = .next s))
      ∧ (∀ t, a = .wall t → (t.toNat * 1600000 ≤ s.wallUnits → fires (t.toNat * 1600000))
        ∧ (s.wallUnits < t.toNat * 1600000 → exec (.alarmFire core k slot) s = .next s)))
    ∧ (∀ (core k : Nat) (s : State), k < 8 → (s.ctx core k).run ≠ .none → (s.ctx core k).deadline ≠ 0 →
      (s.ctx core k).deadline.toNat * 1600000 ≤ s.wallUnits → s.recMode (s.pidOf core) (s.ctx core k).lnum.toNat ≠ 3 →
      ∃ u, exec (.deadlineTrap core k) s = .next u ∧ (u.ctx core k).dlDue = some (s.ctx core k).deadline
        ∧ (u.ctx core k).deadline = 0 ∧ (u.ctx core k).pc = (s.ctx core k).pc ∧ (u.ctx core k).x = (s.ctx core k).x
        ∧ u.mem = s.mem)
    ∧ (∀ (o i : Nat) (hi : i < 8) (s : State), o < 1536 → (s.octet o).power = .active → (s.octet o).winWhole = true →
      ∃ u, exec (.ratioWindowEnd o) s = .next u ∧ u.mem = s.mem ∧ (u.octet o).winIdx = (s.octet o).winIdx + 1
        ∧ (u.octet o).ratio[i] = BitVec.ofNat 10
          (s.cyclesWhen (s.octet o) (((s.octet o).winIdx + 1) * 256 * 1600000) i - (s.octet o).winBase[i]))
    ∧ (∀ (ppm : Int) (s : State), ∃ u, exec (.wallDiscipline ppm) s = .next u ∧ u.mem = s.mem ∧ u.cores = s.cores
      ∧ u.ppm = (if -100 ≤ ppm ∧ ppm ≤ 100 then ppm else s.ppm)
      ∧ (-100 ≤ ppm → ppm ≤ 100 → ∀ p ∈ u.octets, ∀ i, i < 9 → 2 * (p.2.clock i).khz ≤ 3 * u.rate
        ∧ ((s.rails[railOf p.1 % 16]'(Nat.mod_lt _ (by decide))).emerg = false → 7 * u.rate ≤ 10 * (p.2.clock i).khz))))

/-- SEND, SENDR and SPAWN post a message with their context's words, or trap, or wait.
R308 and R333 to R336: a send whose checks pass, with room in its queue, goes on at once: a message with the launch, the
key, the SEQ and the payload of its context is counted by SEQ and E; if its queue was empty and it goes by no name, it has
left the core for its receiver. SPAWN writes the child's index to x[rd] and counts it.
R317 and R333 to R336: a send to a place that its word does not name, or with its payload outside the local memory, traps
ACCESS, with a misaligned payload MISALIGN; with its queue full it traps SQFULL or waits, as sqctl says. -/
def Obligations.SendsPostTheirMessageOrTrap : Prop :=
  (∀ (d a b : Reg) (k : BitVec 8) (s s1 s2 : State) (x y : Word), s.Clear → Reads s a x s1 → Reads s1 b y s2 →
      let posts (i : Instr) (r : State) (v : Nat) (g : Goal) (child : Bool) (tag : Word) (payload : List Word)
          (f : Ctx → Ctx) : Prop :=
        (s.fcore.sq v).length < 8 → ∃ t, exec i s = .next t ∧ t.mem = s.mem
          ∧ t.fctx = (f { r.fctx with dordE := r.fctx.dordE + 1 }).past 4 ∧ t.fcore.seq v = (s.fcore.seq v + 1) % 2 ^ 24
          ∧ (s.fcore.sq0 = [] → s.fcore.sq1 = [] → s.fcore.sq2 = [] → g.kind ≠ 1 → ∃ e m, t.fcore.sq v = [e] ∧ e.msg = m
            ∧ e.mode = .sent ∧ m.key = s.fpart.key ∧ m.launch = s.fctx.lnum.toNat ∧ m.cls = k ∧ m.kind = g.kind
            ∧ m.module = g.module ∧ m.dest = g.dest ∧ m.seq = s.fcore.seq v ∧ m.s = child ∧ m.payload = payload
            ∧ m.side.tag = tag ∧ coreAt m.sx m.sy = s.focusCore ∧ m.smod = s.module
            ∧ (g.module = s.module → g.kind ≠ 3 → s.forHost g.dest m = false →
              ∃ f ∈ t.flights, f.dst = g.dest ∧ f.ev = messageEvent g.dest m))
      (ownSpan y 8 48 → s.Sound (s.ownKey y) 6 →
        let words : List Word := s.wordsAt (s.ownKey y) 6
        (∀ g, sendGoal s s.focusCore k x = some g →
          posts (.send a b k) s2 (if 7 ≤ k.toNat ∧ k.toNat ≤ 9 then 2 else 0) g false s.fctx.tag words id)
        ∧ (∀ g, replyGoal s s.focusCore x = some g → posts (.sendr a b k) s2 1 g false s.fctx.tag words id))
      ∧ (let n : Nat := s.fctx.joinNext
        let slot : Nat := s.fctx.joinBase.toNat * 16 + 16 * n
        let child : Word := childPath s.fctx.path n
        ownSpan x 8 32 → s.Sound (s.ownKey x) 4 → s.fctx.lnum ≠ 0 → pathDepth s.fctx.path ≠ 6 → n ≠ 256 → slot + 16 ≤ 65536 →
        posts (.spawn d a k) s1 0 ⟨0, s.module, s.fpart.placed child⟩ true child
          (s.wordsAt (s.ownKey x) 4 ++ [child, absForm s.focusCore slot])
          fun c => ({ c with joinNext := n + 1 } : Ctx).result d (BitVec.ofNat 64 n)))
  ∧ (∀ (d a b : Reg) (k : BitVec 8) (s s1 s2 : State) (x y : Word), s.Clear → Reads s a x s1 → Reads s1 b y s2 →
      let traps (i : Instr) (c : BitVec 8) (v : Word) : Prop := exec i s = .next (s.trapped c v)
      let inside (p : Word) (n : Nat) : Prop := p.extractLsb' 16 48 = 0xFC0000000000 ∧ p.toNat % 65536 + n ≤ 65536
      let body (i : Instr) (v : Nat) (mode : Bool) : Prop :=
        (¬ inside y 48 → traps i 0x05 y) ∧ (inside y 48 → y.toNat % 8 ≠ 0 → traps i 0x04 y)
        ∧ (ownSpan y 8 48 → 8 ≤ (s.fcore.sq v).length →
          (mode = true → traps i 0x0B (BitVec.ofNat 64 v))
          ∧ (mode = false → s.fctx.mode = .ready → exec i s = .next (s.modF fun c => { c with mode := .blocked })))
      (sendGoal s s.focusCore k x = none → traps (.send a b k) 0x05 x)
      ∧ (replyGoal s s.focusCore x = none → traps (.sendr a b k) 0x05 x)
      ∧ (∀ g, replyGoal s s.focusCore x = some g → body (.sendr a b k) 1 s.fcore.mode1)
      ∧ (∀ g, sendGoal s s.focusCore k x = some g →
        (7 ≤ k.toNat → k.toNat ≤ 9 → body (.send a b k) 2 s.fcore.mode2)
        ∧ (k.toNat < 7 ∨ 9 < k.toNat → body (.send a b k) 0 s.fcore.mode0))
      ∧ (s.fctx.lnum = 0 ∨ pathDepth s.fctx.path = 6 ∨ s.fctx.joinNext = 256 → traps (.spawn d a k) 0x05 s.fctx.path))

/-- A message enters an inbox, a port or the hold of its core, leaves for the host, or is refused.
R312, R313, R319, R324 and R325: a message is accepted into the inbox when its class is bound to a task, into a port's
ring when it is bound to one, into the hold, with H set, when it is bound to neither, each while there is room and no held
message of its class, nor before a port one in the inbox, goes first.
R314 and R315: a message without room is refused: its sender's entry is in the table, and it goes back to its sender; a
message of another key is never let in.
R449: a message of the class HCLS at its proxy core leaves for the host; any other goes to its core as usual.
What passes a hold's own order, and what the host's class needs, are the model's readings (log entries 17 to 19). -/
def Obligations.MessagesEnterOrAreRefused : Prop :=
  (∀ (core : Nat) (m : Message) (s : State), Welcome s core m →
      let q : Core := s.core core
      let first : Bool := q.hold.any fun e => e.msg.cls == m.cls
      (∀ pc prio, q.binding m.cls = some (.task pc prio) → q.inbox.length < 32 → q.latch = none → first = false →
        ∃ t x, exec (.messageAcceptance core m) s = .next t ∧ (t.core core).inbox = q.inbox ++ [x] ∧ x.msg = m
          ∧ x.stamp = s.wallUnits ∧ t.mem = s.mem)
      ∧ (∀ p r ring, q.binding m.cls = some (.port p) → (∀ e ∈ q.inbox, e.msg.cls ≠ m.cls) → q.resident = some r → r.ports[p]? = some ring → ring.count < 16 →
        first = false →
        let key : Nat := localKey core (r.base + 1024 * p + 64 * ((ring.head + ring.count) % 16))
        ∃ t u ring', exec (.messageAcceptance core m) s = .next t ∧ (t.core core).resident = some u
          ∧ u.ports[p]? = some ring' ∧ ring'.head = ring.head ∧ ring'.count = ring.count + 1
          ∧ ring'.tags = ring.tags ++ [m.side.tag]
          ∧ (s.Sound key 8 → key % 8 = 0 → t.word key = messageHeader { m with r := true }))
      ∧ (q.binding m.cls = none → q.hold.length < 4 →
        ∃ t x, exec (.messageAcceptance core m) s = .next t ∧ (t.core core).hold = q.hold ++ [x]
          ∧ x.msg = { m with h := true } ∧ x.stamp = s.wallUnits ∧ t.mem = s.mem))
  ∧ (∀ (core : Nat) (m : Message) (s : State), s.heldBack core (s.msgPid m) (.messageAcceptance core m) = none →
      (m.vn = 0 → s.heldStop core (.messageAcceptance core m) = none) →
      (s.keyOk core m = true → s.forHost core m = false → m.kind = 0 → (s.core core).exch = none →
        (s.core core).messageRoom m = false → s.recMode (s.pidOf core) m.launch = 0 → m.smod = s.module →
        m.side.endpoint = 0 → m.side.hardware = false → (s.core core).refTab.length < 16 →
        findRef m (s.core core).refTab = none → (∀ x ∈ (s.core core).refused, (refOf m).same x = false) →
        s.holdBehind core m (.messageAcceptance core m) = none →
        ∃ t, exec (.messageAcceptance core m) s = .next t ∧ t.mem = s.mem ∧ (t.core core).inbox = (s.core core).inbox
          ∧ (t.core core).hold = (s.core core).hold
          ∧ (t.core core).refTab = (s.core core).refTab ++ [⟨m.smod, senderOf m, 0, m.vn, m.seq⟩]
          ∧ t.flights = s.flights ++ [⟨core, senderOf m, 1,
            .refused (senderOf m) { m with side := { m.side with via := core + 1 } } false, [], false⟩])
      ∧ (s.keyOk core m = false → s.Alone m → ∃ t, exec (.messageAcceptance core m) s = .next t
        ∧ (t.core core).inbox = (s.core core).inbox ∧ (t.core core).hold = (s.core core).hold
        ∧ (t.core core).resident = (s.core core).resident))
  ∧ (∀ (m : Message) (s : State),
      (s.forHost m.dest m = true → s.keyOk m.dest m = true → s.Alone m →
        ∃ t, exec (.hostClassMessage m) s = .next t ∧ t.mem = s.mem
          ∧ t.hostOut = s.hostOut ++ [.send (s.pidOf m.dest) (s.partAt m.dest).lastEth (messageWords m)])
      ∧ (s.forHost m.dest m = false →
        exec (.hostClassMessage m) s = exec (.messageAcceptance m.dest m) s))

/-- Refused messages go out again; withdrawals, drain messages, corrections and notices take effect.
R315 and R480: a refused message stays in its queue and goes out again 250 wall ns later, in order of SEQ to one receiver;
what hardware built is sent again by its unit; a withdrawal takes its entry out of the receiver's table.
R317 and R352: with ARM set, OCC1 at or below LOW and the latch empty, ARM is cleared and a drain message of a user class
enters the own inbox, or the latch while that is full; a correction puts a name's core into the octet's locator cache.
R408: a notice that reaches the supervisor core goes into its port, as an entry of class 0x0D with the kind and the core;
with the port full it is sent again after 250 wall ns, and with no such port it is dropped and counted. -/
def Obligations.MessagesAreSentAgainAndNoticesArrive : Prop :=
  (∀ (core : Nat) (m : Message) (s : State) (e : SqEntry),
      let due (ev : Event) (t : State) : Prop := (s.wallUnits + 250 * 1600000, ev) ∈ t.timers
      (m.side.hardware = true → ∀ n, ∃ t, exec (.refused core m n) s = .next t ∧ due (.hardwareMessageResend m) t
        ∧ t.flights = s.flights)
      ∧ (m.side.hardware = false → m.side.endpoint = 0 → s.heldBack core (s.pidOf core) (.refused core m false) = none → m.vn < 3 →
        (s.core core).sq m.vn = [e] → e.msg.seq = m.seq →
        ∃ t, exec (.refused core m false) s = .next t ∧ due (.refusedMessageResend core m.vn m.seq) t
          ∧ (t.core core).sq m.vn = [{ e with mode := .refused, bounced := some (m.module, m.side.via - 1) }])
      ∧ (s.partRuns core = true → m.vn < 3 → (s.core core).sq m.vn = [e] → e.msg = m → e.mode = .refused → m.kind ≠ 3 → e.name = none →
        resendWaits (s.core core).queued e = false → e.target = (s.module, m.dest) → s.forHost m.dest m = false →
        ∃ t, exec (.refusedMessageResend core m.vn m.seq) s = .next t ∧ (t.core core).sq m.vn = [{ e with mode := .sent }]
          ∧ t.flights = s.flights ++ [⟨core, m.dest, m.vn, messageEvent m.dest m, [], false⟩])
      ∧ (∀ module sender vn seq endpoint, ∃ t, exec (.withdrawal core module sender vn seq endpoint) s = .next t
        ∧ (∀ x ∈ (t.core core).refTab, ¬ (x.module = module ∧ x.core = sender ∧ x.endpoint = endpoint ∧ x.vn = vn ∧ x.seq = seq))
        ∧ (∀ x ∈ (s.core core).refTab, ¬ (x.module = module ∧ x.core = sender ∧ x.endpoint = endpoint ∧ x.vn = vn ∧ x.seq = seq)
          → x ∈ (t.core core).refTab))
      ∧ (m.side.endpoint = 0 → m.module = s.module → m.kind ≠ 3 → s.forHost m.dest m = false →
        exec (.hardwareMessageResend m) s = .next (s.fly m.side.unit.2 m.dest m.vn (messageEvent m.dest m))))
  ∧ (∀ (core : Nat) (s : State),
      (let q : Core := s.core core
      (¬ (q.arm = true ∧ q.latch = none ∧ q.sq1.length ≤ q.low.toNat) → exec (.drainMessagePost core) s = .next s)
      ∧ (q.arm = true → q.latch = none → q.sq1.length ≤ q.low.toNat → 0x10 ≤ q.drainCls.toNat →
        ∃ t, exec (.drainMessagePost core) s = .next t ∧ (t.core core).arm = false ∧ t.mem = s.mem
          ∧ (q.inbox.length < 32 → ∃ x, (t.core core).inbox = q.inbox ++ [x] ∧ x.msg.cls = q.drainCls
            ∧ x.msg.key = (s.partAt core).key ∧ x.msg.side.tag = q.drainTag ∧ (t.core core).latch = none)
          ∧ (32 ≤ q.inbox.length → (t.core core).inbox = q.inbox ∧ ∃ m, (t.core core).latch = some m ∧ m.cls = q.drainCls)))
      ∧ (∀ oct name module, ∃ t, exec (.locatorCorrection oct name module core) s = .next t
        ∧ findLocator name (t.octet oct).locators = some ⟨name, module, core⟩ ∧ (t.octet oct).locators.length ≤ 64))
  ∧ (∀ (n : Notice) (s : State) (p : Partition), s.part n.pid = some p →
      let core : Nat := p.svCore.toNat
      let port : Nat := p.svPort.toNat
      (∃ t, exec (.noticeResend n) s = .next t ∧ t.mem = s.mem
        ∧ t.flights = s.flights ++ [⟨octetPlace n.octet, core, 3, .supervisorNotice n, [], false⟩])
      ∧ (s.heldBack core n.pid (.supervisorNotice n) = none →
        (∀ r ring, p.svEn = true → (s.core core).resident = some r → r.ports[port]? = some ring → (s.core core).exch = none →
          (ring.count < 16 → s.noticeBehind n = false →
            let key : Nat := localKey core (r.base + 1024 * port + 64 * ((ring.head + ring.count) % 16))
            ∃ t u ring', exec (.supervisorNotice n) s = .next t ∧ (t.core core).resident = some u
              ∧ u.ports[port]? = some ring' ∧ ring'.count = ring.count + 1 ∧ ring'.head = ring.head
              ∧ (s.Sound key 8 → key % 8 = 0 →
                t.word key = BitVec.ofNat 64 (0x0D * 2 ^ 56 + n.core / 192 * 2 ^ 48 + n.core % 192 * 2 ^ 40 + s.module * 2 ^ 28 + 2 ^ 27)
                  ∧ t.word (key + 8) = BitVec.ofNat 64 (n.kind % 256 + n.core % 2 ^ 14 * 256)))
          ∧ (16 ≤ ring.count → ∃ t, exec (.supervisorNotice n) s = .next t ∧ t.mem = s.mem
            ∧ (s.wallUnits + 250 * 1600000, Event.noticeResend n) ∈ t.timers))
        ∧ ((s.core core).resident = none → p.svNdrop ≠ 0xFFFF → ∃ t u, exec (.supervisorNotice n) s = .next t ∧ t.mem = s.mem
          ∧ t.part n.pid = some u ∧ u.svNdrop = p.svNdrop + 1)))

/-- Tasks and firings start with their registers set, DONE ends them, and a child's result is delivered.
R321, R322 and R326: the chosen message starts as a task in the lowest free context: its pc the handler's offset, x2 its
stack's top, x9 the header, x10 to x15 the payload; the first ready rule starts a firing with its ports' oldest entries
and counts.
R222 and R223: DONE ends its task: the context is free with its streams unbound, its alarms and its deadline cleared; a
SPAWN child's x10 and x11 go to its join slot; a firing releases its entries. H.DONE does the same.
R223: a child's delivery writes both words of its join slot and makes the tag full, if that is empty; it is held while the
tag is full.
That it is held whatever the wait table holds is the model's choice (log entry 38). -/
def Obligations.TasksStartEndAndDeliver : Prop :=
  (∀ (core k : Nat) (s : State), (s.core core).freeCtx = some k →
      (∀ e pc prio, s.choice core = some (.task e pc prio) → s.recMode (s.pidOf core) e.msg.launch = 0 → e.msg.s = false →
        e.msg.payload.length = 6 → ∃ t, exec (.taskStart core) s = .next t ∧ t.mem = s.mem
          ∧ (t.ctx core k).run = .task e.msg.cls prio none (isRoot e.msg) ∧ (t.ctx core k).pc = pc
          ∧ (t.ctx core k).getX 2 = (s.core core).stackTop k ∧ (t.ctx core k).getX 9 = messageHeader e.msg
          ∧ (∀ j : Fin 6, (t.ctx core k).getX (10 + BitVec.ofNat 5 j.val) = e.msg.payload.getD j.val 0)
          ∧ (t.ctx core k).mode = .ready ∧ (t.ctx core k).ih = false ∧ (t.ctx core k).tmo = false
          ∧ ((s.core core).latch = none → (t.core core).inbox = (s.core core).inbox.filter fun x => x.order != e.order))
      ∧ (∀ u r, s.choice core = some (.fire u) → (s.core core).resident = some r → ∃ t, exec (.firingStart core) s = .next t
        ∧ t.mem = s.mem ∧ (t.ctx core k).run = .firing r.name u.prio u.counts ∧ (t.ctx core k).pc = u.pc
        ∧ (t.ctx core k).getX 2 = (s.core core).stackTop k
        ∧ (∀ p n rest, u.counts = (p, n) :: rest → rest.length ≤ 2 → (t.ctx core k).getX 10 = ownForm (r.oldest p)
          ∧ (t.ctx core k).getX 11 = BitVec.ofNat 64 n ∧ (t.ctx core k).getX 9 = s.word (localKey core (r.oldest p)))
        ∧ ∃ v, (t.core core).resident = some v ∧ v.firing = true ∧ v.ports = r.ports))
  ∧ (∀ (s : State) (i : Instr), s.Clear → s.fcore.joins = [] → s.fctx.groupReply = none → s.fctx.lmode = 0 →
      i = .taskDone ∨ i = .hDone ∧ s.fpart.enabled .c16 = true →
      let freed (t : State) : Prop := t.fctx.run = .none ∧ t.fctx.streams = Vector.replicate 6 none ∧ t.fctx.alarm0 = .idle
        ∧ t.fctx.alarm1 = .idle ∧ t.fctx.deadline = 0 ∧ t.fctx.ih = false ∧ t.fctx.x = s.fctx.x ∧ t.mem = s.mem
      (∀ cls prio root, s.fctx.run = .task cls prio none root → ∃ t, exec i s = .next t ∧ freed t ∧ t.flights = s.flights)
      ∧ (∀ cls prio root module core off, s.fctx.run = .task cls prio (some (module, core, off)) root →
        s.fcore.taskOps s.focusCtx s.fctx.task = [] → ∃ t, exec i s = .next t ∧ freed t
          ∧ t.flights = s.flights ++ [⟨s.focusCore, core, 0,
            .joinDelivery ⟨core, off, s.fctx.getX 10, s.fctx.getX 11, s.fctx.tag, s.fctx.lnum.toNat⟩, [], false⟩])
      ∧ (∀ name prio p n r ring, s.fctx.run = .firing name prio [(p, n)] → s.fcore.resident = some r →
        r.ports[p]? = some ring → ∃ t u ring', exec i s = .next t ∧ freed t ∧ t.fcore.resident = some u ∧ u.firing = false
          ∧ u.ports[p]? = some ring' ∧ ring'.head = (ring.head + n) % 16 ∧ ring'.count = ring.count - n))
  ∧ (∀ (j : JoinDel) (s : State), j.off % 16 = 0 → s.arriveAt (localKey j.core (j.off + 8)) (s.pidOf j.core) (.joinDelivery j) = none →
      let key : Nat := localKey j.core j.off
      s.poisoned (key + 8) = false →
      (s.tag (key + 8) = false → s.waitTab j.core = [] → s.recMode (s.pidOf j.core) j.launch = 0 → ∃ t, exec (.joinDelivery j) s = .next t ∧ t.word key = j.x10
        ∧ t.word (key + 8) = j.x11 ∧ t.tag (key + 8) = true ∧ (∀ k, k < key ∨ key + 16 ≤ k → t.byte k = s.byte k))
      ∧ (s.tag (key + 8) = true → ∃ t, exec (.joinDelivery j) s = .next t ∧ t.mem = s.mem ∧ t.tags = s.tags
        ∧ (t.waitTab j.core).length = (s.waitTab j.core).length + 1))

/-- BIND, UNBIND, RESIDE and RULE write their status and take effect only on success.
R338 to R340: BIND, UNBIND, RESIDE and RULE write their status, 0 for success; only then do they bind the class, unbind
it, make or dissolve the resident with its directory entry, or set or clear the rule. -/
def Obligations.BindingsAndResidentsChangeOnSuccess : Prop :=
  ∀ (d a b : Reg) (s s1 s2 : State) (x y : Word), s.Clear → Reads s a x s1 → Reads s1 b y s2 →
    let fails (i : Instr) (r : State) (n : Nat) : Prop := exec i s = .next (r.done 4 fun c => c.result d (BitVec.ofNat 64 n))
    let works (i : Instr) (r : State) (f : State → Prop) : Prop :=
      ∃ t, exec i s = .next t ∧ t.fctx = (r.fctx.result d 0).past 4 ∧ f t
    let cls : Nat := (x.extractLsb' 0 8).toNat
    let n : Nat := bindStatus s.fcore x y
    (n ≠ 0 → fails (.bind d a b) s2 n)
    ∧ (n = 0 → works (.bind d a b) s2 fun t => mapFind t.fcore.binds cls =
        some (if x.getLsbD 10 then .port (x.extractLsb' 11 2).toNat else .task y (x.extractLsb' 8 2).toNat))
    ∧ (256 ≤ x.toNat ∨ bindable cls = false → fails (.unbind d a) s1 1)
    ∧ (x.toNat < 256 → bindable cls = true →
      works (.unbind d a) s1 fun t => mapFind t.fcore.binds cls = none ∧ t.mem = s.mem)
    ∧ (let m : Nat := resideStatus s x y
      (s.homeNow (s.fpart.dirKey x.toNat)).1 = s.module →
      (m ≠ 0 → fails (.reside d a b) s2 m)
      ∧ (m = 0 → paOk (s.fpart.dirKey x.toNat) = true →
        (y = 0xF0000 → works (.reside d a b) s2 fun t => t.fcore.resident = none)
        ∧ (y ≠ 0xF0000 → s.steady (s.fpart.dirKey x.toNat) = true → ∀ p, s.part (s.pidOf s.focusCore) = some p → p = s.fpart →
          works (.reside d a b) s2 fun t => t.word (s.settle (s.fpart.dirKey x.toNat)) = dirEntry s.module s.focusCore
            ∧ ∃ r, t.fcore.resident = some r ∧ r.name = x.toNat ∧ r.base = (y.extractLsb' 0 16).toNat
              ∧ r.cls = (y.extractLsb' 16 4).toNat ∧ r.ports.length = (y.extractLsb' 20 2).toNat + 1 ∧ r.rules = []
              ∧ ∀ g ∈ r.ports, g.count = 0)))
    ∧ (let m : Nat := ruleStatus s.fcore x y
      (m ≠ 0 → fails (.rule d a b) s2 m)
      ∧ (m = 0 → works (.rule d a b) s2 fun t => t.mem = s.mem ∧ ∃ r, t.fcore.resident = some r
        ∧ mapFind r.rules (x.extractLsb' 20 2).toNat = if ruleCounts x = [] then none
          else some ⟨ruleCounts x, (x.extractLsb' 22 2).toNat, y, none⟩))

/-- CODELD copies an image into a code store, word by word, after its header passes.
R77 and R341: CODELD at supervisor privilege copies an image through a page that permits E: it first reads the header,
whose status it writes if that is not 0, and then the code, into the code store of the core that it names; its last part
writes 0 to x[rd]. At task privilege it traps PRIV.
That it copies one word each time it issues is the model's choice (log entry 21). -/
def Obligations.CodeLoadsCopyTheirImage : Prop :=
  ∀ (d a b : Reg) (s s1 s2 : State) (x y : Word), s.Clear → Reads s a x s1 → Reads s1 b y s2 →
    let i : Instr := .codeld d a b
    (s.fctx.prv = false → exec i s = .next (s.trapped 0x03 (encode i).toWord))
    ∧ (s.fctx.prv = true → s.fctx.copy = none →
      (2 ^ 55 ≤ x.toNat → exec i s = .next (s.trapped 0x05 x))
      ∧ (x.toNat < 2 ^ 55 → x.toNat % 8 ≠ 0 → exec i s = .next (s.trapped 0x04 x))
      ∧ (x.toNat < 2 ^ 55 → x.toNat % 8 = 0 → coreForm s.fpart s.focusCore y = none → exec i s = .next (s.trapped 0x05 y))
      ∧ (∀ onto o, x.toNat < 2 ^ 55 → x.toNat % 8 = 0 → coreForm s.fpart s.focusCore y = some (onto, o) →
        ∃ t p, exec i s = .next t ∧ t.fctx.copy = some p ∧ p.va = x ∧ p.target = onto ∧ p.header = [] ∧ p.pos = 0
          ∧ t.fctx.pc = s.fctx.pc ∧ t.mem = s.mem))
    ∧ (∀ p pte big, s.fctx.prv = true → s.fctx.copy = some p → s.fpart.ptEn = true →
      let at' (va : Word) : Prop := tlbFind (s.pidOf s.focusCore) va s.fcore.dtlb = some (pte, big) ∧ permits pte .codeSource = true
        ∧ (leafDest pte big va).module = s.module ∧ s.forward (leafDest pte big va).key = none
        ∧ s.poisoned (leafDest pte big va).key = false
      let word (va : Word) : Word := s.word (leafDest pte big va).key
      (p.header = [] → at' p.va → ∃ t, exec i s = .next t ∧ t.fctx.copy = some { p with header := [word p.va] }
        ∧ t.fctx.pc = s.fctx.pc ∧ t.mem = s.mem)
      ∧ (∀ h, p.header = [h] → at' (p.va + 8) →
        let n : Nat := imageStatus s.fpart [h, word (p.va + 8)]
        (n ≠ 0 → ∃ t, exec i s = .next t ∧ t.fctx = (({ s.fctx with copy := none } : Ctx).result d (BitVec.ofNat 64 n)).past 4)
        ∧ (n = 0 → ∃ t, exec i s = .next t ∧ t.fctx.copy = some { p with header := [h, word (p.va + 8)], reached := true }))
      ∧ (∀ h k, p.header = [h, k] → (s.octet (octetOf p.target)).power = .active →
        let va : Word := p.va + BitVec.ofNat 64 (16 + 8 * p.pos)
        let off : Nat := imageDest [h, k] + 8 * p.pos
        let left : Nat := imageLen [h, k] - 8 * p.pos
        at' va → 0 < left → ∃ t, exec i s = .next t
          ∧ t.read (codeKey p.target off) (Nat.min 8 left) = (word va).toNat % 256 ^ Nat.min 8 left
          ∧ (∀ key, key < codeKey p.target off ∨ codeKey p.target off + Nat.min 8 left ≤ key → t.byte key = s.byte key)
          ∧ (left ≤ 8 → t.fctx = (({ s.fctx with copy := none } : Ctx).result d 0).past 4)
          ∧ (8 < left → t.fctx.pc = s.fctx.pc
            ∧ t.fctx.copy = some { p with pos := p.pos + 1, code := p.code ++ (wordBytes (word va)).take (Nat.min 8 left) })))

/-- Loads, stores, REDs and AMOs are performed at their home in one step, forwarded, or wait for the queue.
R79, R90, R93, R94, R110, R198 and R260: at its home, or where a page move has taken its line, a store writes its bytes
and leaves tags alone, a RED or AMO its new value, in one step, and the acknowledgement, or the old value, goes back on
network 1 from the home; of a vector store each element is a step of its own; a poisoned word takes a whole-word store
alone, a RED on it is a machine check, and a load or AMO of it answers that it is poisoned.
R79, R81 and R92: the source port of a page move performs a request for a copied line at its new place, sends one for a
line of another module there and its answer back, and holds what follows of the same requester; a write that finds the
port's 64 write-queue entries in use waits, and comes on in order when an entry is freed.
What a narrower store or a RED does to a poisoned word rests on log entry 32. -/
def Obligations.AccessesArePerformedAtTheirHome : Prop :=
  ((∀ (r : StoreReq) (w : Who) (s u : State) (key k n : Nat) (v : Word), r.reply = .ctx w →
      s.Serves key r.pid r.launch (.remoteStore r) w k → s.queueLine k = some u →
      let place : Nat := homePlace key
      let ends (mem : List Host.Cell) (tags : SMap Nat) (bad : Bool) (checks : Nat) (l : List Flight) : Prop :=
        ∃ t, exec (.remoteStore r) s = .next t ∧ t.mem = mem ∧ t.tags = tags ∧ t.poisoned k = bad ∧ t.mchecks = checks
          ∧ t.flights = l
      let acked : List Flight := u.flights ++ [⟨place, w.core, 1, .storeAcknowledgement w.core w.id, [], false⟩]
      let stores (l : List Flight) : Prop :=
        (s.poisoned k = false → ends (memWrite s.mem k n v.toNat) s.tags false s.mchecks l)
        ∧ (s.poisoned k = true → n ≠ 8 → ends s.mem s.tags true s.mchecks l)
        ∧ (s.poisoned k = true → n = 8 → s.waitTab (homePlace k) = [] →
          ends (memWrite s.mem k 8 v.toNat) (mapDel s.tags (wordKey k)) false s.mchecks l)
      (r.op = .bytes key n v → stores acked)
      ∧ (∀ x l, r.op = .lanes ((key, n, v) :: x :: l) → k = key →
        stores (⟨w.core, place, 0, .remoteStore { r with op := .lanes (x :: l) }, [], false⟩ :: u.flights))
      ∧ (∀ op, r.op = .red key n op v →
        (s.poisoned k = false →
          ends (memWrite s.mem k n (amoNew op (n == 4) (BitVec.ofNat 64 (s.read k n)) v 0).toNat) s.tags false s.mchecks acked)
        ∧ (s.poisoned k = true → ends s.mem s.tags true (s.mchecks + 1) acked)))
    ∧ (∀ (r : LoadReq) (s : State) (k : Nat), s.Arrives r.key r.pid (.remoteLoad r) k → r.who.module = s.module →
      0 < r.width → k % 8 + r.width ≤ 8 →
      exec (.remoteLoad r) s = .next ((s.bufferMiss k).fly (homePlace r.key) r.who.core 1 (.loadReply ⟨r.who,
        if s.poisoned k then .poisoned else .value (BitVec.ofNat 64 (s.read k r.width))⟩)))
    ∧ (∀ (r : AmoReq) (w : Who) (s u : State) (k : Nat), r.reply = .ctx w →
      s.Serves r.key r.pid r.launch (.amoRequest r) w k → s.queueLine k = some u →
      let n : Nat := if r.w32 then 4 else 8
      let old : Word := BitVec.ofNat 64 (s.read k n)
      let keeps : Bool := r.op == .cas && (if r.w32 then old.truncate 32 != r.c.truncate 32 else old != r.c)
      ∃ t a, exec (.amoRequest r) s = .next t ∧ t.tags = s.tags
        ∧ t.mem = (if s.poisoned k || keeps then s.mem else memWrite s.mem k n (amoNew r.op r.w32 old r.b r.c).toNat)
        ∧ t.flights = u.flights ++ [⟨homePlace r.key, w.core, 1, .amoReply ⟨w, a⟩, [], false⟩]
        ∧ a = if s.poisoned k then .poisoned else .value old))
  ∧ ((∀ (key pid : Nat) (e : Event) (s : State), s.leaves e = none → s.arriveAt key pid e = none → isDevice key = true →
      let q : Port := s.port (portOf key)
      let onto : Nat × Nat := s.homeNow key
      let first : Prop := ∀ x ∈ q.fwd, x.2 ≠ e → ∀ w ∈ s.requesters x.2, w ∉ s.requesters e
      (first → onto.1 = s.module → s.lineAway onto.2 = false → (onto.2 ≠ key → s.stopsAt (homePlace onto.2) = false) →
        s.heldAfter (homePlace onto.2) e = none → s.Arrives key pid e onto.2)
      ∧ (∀ r : LoadReq, e = .remoteLoad r → r.key = key → r.pid = pid →
        (first → onto.1 ≠ s.module → ∃ t p i, exec (.remoteLoad r) s = .next t ∧ t.mem = s.mem ∧ t.flights = s.flights
          ∧ (t.port (portOf key)).fwd = q.fwd ++ [(i, e)] ∧ t.fabOut = s.fabOut ++ [p]
          ∧ p.2.cargo = .load ⟨⟨s.module, portPlace (portOf key), 32, i⟩, r.pid, onto.1, onto.2, r.width, r.pkey⟩ ∧ p.2.dst = onto.1)
        ∧ ((∃ x ∈ q.fwd, x.2 ≠ e ∧ ∃ w ∈ s.requesters x.2, w ∈ s.requesters e) → ∃ t, exec (.remoteLoad r) s = .next t ∧ t.mem = s.mem
          ∧ t.flights = s.flights ∧ (t.port (portOf key)).fwd = q.fwd ++ [(0, e)])))
    ∧ (∀ (p i m : Nat) (r : LoadReq) (v : Word) (s : State), p < 272 → mapFind (s.port p).fwd i = some (.remoteLoad r) →
      (∀ x ∈ (s.port p).fwd, x.1 ≠ 0) → r.who.module = s.module →
      ∃ t, exec (.loadReply ⟨⟨m, portPlace p, 32, i⟩, .value v⟩) s = .next t ∧ t.mem = s.mem
        ∧ (∀ x ∈ (t.port p).fwd, x.1 ≠ i)
        ∧ t.flights = s.flights ++ [⟨portPlace p, r.who.core, 1, .loadReply ⟨r.who, .value v⟩, [], false⟩])
    ∧ (∀ (r : StoreReq) (key k n : Nat) (v : Word) (s : State), r.op = .bytes key n v →
      s.Arrives key r.pid (.remoteStore r) k → s.queueLine k = none →
      ∃ t, exec (.remoteStore r) s = .next t ∧ t.mem = s.mem
        ∧ (t.port (portOf key)).stopped = (s.port (portOf key)).stopped ++ [.remoteStore r])
    ∧ (∀ (p : Nat) (s : State), ∃ t, exec (.writeQueueEntryFree p) s = .next t ∧ (t.port p).stopped = [] ∧ t.mem = s.mem
      ∧ (t.port p).queue = (s.port p).queue.tail ∧ List.Sublist (s.port p).stopped (t.flights.map (·.ev))))

/-- Full/empty requests act, are held, retry, time out or are cancelled at their home.
R186, R190 to R193 and R202: at its home a full/empty operation times out at its deadline, meets poison, is performed in
one step where its condition holds, is held where it does not, or is told to retry where no entry is free.
R192 to R194: a request told to retry is sent again unless its context has given it up; a held entry is removed and
answered at its deadline, and when its context cancels it, wherever a page move or an exchange has brought it. -/
def Obligations.FullEmptyRequestsFollowTheirConditions : Prop :=
  (∀ (r : FeReq) (s : State) (k : Nat), s.Serves r.key r.pid r.launch (.fullEmptyRequest r) r.who k →
      let place : Nat := homePlace r.key
      let home : Nat := homePlace k
      let i : Instr := .fullEmptyRequest r
      let answers (a : Answer) (mem : List Host.Cell) (tags : SMap Nat) : Prop := ∃ t, exec i s = .next t ∧ t.mem = mem
        ∧ t.tags = tags ∧ t.poisoned k = false
        ∧ t.flights = s.flights ++ [⟨place, r.who.core, 1, .loadReply ⟨r.who, a⟩, [], false⟩]
      let replies (a : Answer) : Prop := exec i s = .next (s.fly place r.who.core 1 (.loadReply ⟨r.who, a⟩))
      let late : Prop := r.deadline ≠ 0 ∧ r.deadline.toNat * 1600000 ≤ s.wallUnits
      let emptied : SMap Nat := mapDel s.tags (wordKey k)
      let stored : List Host.Cell := memWrite s.mem k 8 r.data.toNat
      (late → replies .timeout) ∧ (¬ late → s.poisoned k = true → r.op ≠ .ste → replies .poisoned)
      ∧ (¬ late → s.poisoned k = false → s.waitTab home = [] →
        let full : Bool := s.tag k
        (r.op = .ldf → full = true → answers (.value (s.word k)) s.mem s.tags)
        ∧ (r.op = .ldfe → full = true → answers (.value (s.word k)) s.mem emptied)
        ∧ (r.op = .stf → full = false → answers (.value 0) stored (mapSet s.tags (wordKey k) s.wallUnits))
        ∧ (r.op = .ste → answers (.value 0) stored emptied) ∧ (r.op = .sete → answers (.value 0) s.mem emptied)
        ∧ (r.op = .probe → answers (.value (if full then 1 else 0)) s.mem s.tags))
      ∧ (¬ late → s.poisoned k = true → r.op = .ste → s.waitTab home = [] →
        ∃ t, exec i s = .next t ∧ t.mem = stored ∧ t.poisoned k = false)
      ∧ (¬ late → s.poisoned k = false →
        (r.op = .ldf ∨ r.op = .ldfe) ∧ s.tag k = false ∨ r.op = .stf ∧ s.tag k = true →
        (s.feRoom home r = false → replies .retry)
        ∧ (s.feRoom home r = true → ∃ t, exec i s = .next t ∧ t.mem = s.mem ∧ t.tags = s.tags ∧ t.flights = s.flights
          ∧ t.waitTab home = heldIns ⟨{ r with key := k }, none, s.wallUnits, s.serial⟩ (s.waitTab home)
          ∧ (r.deadline ≠ 0 → (r.deadline.toNat * 1600000, Event.heldEntryTimeout { r with key := k }) ∈ t.timers))))
  ∧ (∀ (r : FeReq) (s : State), r.who.module = s.module →
      let answers (i : Instr) (a : Answer) (place src : Nat) : Prop := ∃ t, exec i s = .next t ∧ t.mem = s.mem ∧ t.tags = s.tags
        ∧ t.waitTab place = (s.waitTab place).filter (fun h => h.req.who != r.who)
        ∧ t.flights = s.flights ++ [⟨src, r.who.core, 1, .loadReply ⟨r.who, a⟩, [], false⟩]
      (∀ g va ex b, (s.ctx r.who.core r.who.ctx).req = some (.fe r g va ex false b) → r.module = s.module →
        exec (.fullEmptyResend r) s = .next (s.fly r.who.core (homePlace r.key) 0 (.fullEmptyRequest r)))
      ∧ (∀ g va ex b, (s.ctx r.who.core r.who.ctx).req = some (.fe r g va ex true b) →
        exec (.fullEmptyResend r) s = .next (s.modCtx r.who.core r.who.ctx fun c =>
          { c with req := none, streams := b, mode := .ready }))
      ∧ (∀ place, s.heldPlace r = some place →
        (s.recMode r.pid r.launch = 0 → r.deadline.toNat * 1600000 ≤ s.wallUnits →
          answers (.heldEntryTimeout r) .timeout place place)
        ∧ (s.wallUnits < r.deadline.toNat * 1600000 → exec (.heldEntryTimeout r) s = .next s)
        ∧ (r.module = s.module → answers (.fullEmptyCancel r) .cancelled place (homePlace r.key)))
      ∧ (s.heldPlace r = none → exec (.heldEntryTimeout r) s = .next s))

/-- Replies complete loads, full/empty operations, stores and AMOs, or mark, trap or lose them.
R15, R93, R193, R197, R202 and R299: the reply of a load gives rd its value while the context goes on, or undoes what the
context has done since and takes the POISON trap at the load; that of a full/empty operation completes its instruction or
ends its wait, with rd and status.TO as stated; a retry is sent again after 250 ns; a group's entry answers.
R94, R103, R106 and R110: an acknowledged store leaves the store buffer; an AMO's reply gives rd its old value, or its
mark; the reply of merged requests is split and its record freed, and a record that is lost drops the reply with a machine
check that Umber hears of; at the limit a pending AMO is marked lost, and a RED or posted store that has been sent is
taken as performed.
The registers that a poisoned load's trap restores are log entry 11's, the limit that starts again while its store or RED is
unsent is log entry 20's. -/
def Obligations.RepliesCompleteTheirInstructions : Prop :=
  (∀ (r : Reply) (s : State), r.who.ctx < 16 → r.who.core < 12288 →
      let core : Nat := r.who.core
      let k : Nat := r.who.ctx
      let c : Ctx := s.ctx core k
      let becomes (f : Ctx → Ctx) : Prop := exec (.loadReply r) s = .next (s.modCtx core k f)
      (∀ p w signed, c.req = none → (splitPend r.who.id c.pend).2 = some p → p.kind = .load w signed →
        (∀ v, r.answer = .value v → ∃ t, exec (.loadReply r) s = .next t ∧ t.mem = s.mem
          ∧ (∀ q ∈ (t.ctx core k).pend, q.id ≠ r.who.id) ∧ (t.ctx core k).pc = c.pc ∧ (t.ctx core k).mode = c.mode
          ∧ (t.ctx core k).x = (c.putX p.reg (extend (v.toNat % 256 ^ w) w signed)).x)
        ∧ (∀ g, r.answer = .poisoned → p.saved = some g → g.ih = false → g.tvec ≠ 0 →
          ∃ t, exec (.loadReply r) s = .next t ∧ t.mem = s.mem ∧ (t.ctx core k).cause = 0x08 ∧ (t.ctx core k).tval = p.va
            ∧ (t.ctx core k).tpc = g.pc ∧ (t.ctx core k).pc = g.tvec.zeroExtend 64 * 2 ∧ (t.ctx core k).ih = true
            ∧ (t.ctx core k).x = g.x ∧ (t.ctx core k).v = g.v ∧ (t.ctx core k).mode = .ready))
      ∧ (∀ (q : FeReq) reg va ex b, c.req = some (.fe q reg va ex false b) → q.who.id = r.who.id →
        (∀ v, r.answer = .value v → ∃ t, exec (.loadReply r) s = .next t ∧ t.mem = s.mem
          ∧ (t.ctx core k).pc = c.pc + 4 ∧ (t.ctx core k).req = none ∧ (t.ctx core k).dordE = c.dordE + 1
          ∧ (t.ctx core k).tmo = (if q.op = .ldf ∨ q.op = .ldfe ∨ q.op = .stf then false else c.tmo)
          ∧ (t.ctx core k).x = if q.op = .ldf ∨ q.op = .ldfe ∨ q.op = .probe then (c.result reg v).x else c.x)
        ∧ (r.answer = .timeout → becomes fun c =>
          { c with tmo := true, dordE := c.dordE + 1, mode := .ready, req := none, pc := c.pc + 4, issued := c.issued + 1 })
        ∧ (r.answer = .cancelled → becomes fun c => { c with req := none, streams := b, mode := .ready })
        ∧ (r.answer = .poisoned → exec (.loadReply r) s =
          .next ((s.modCtx core k fun c => { c with req := none, streams := b }).takeTrap core k 0x08 va))
        ∧ (r.answer = .retry → exec (.loadReply r) s = .next (s.arm (s.wallUnits + 250 * 1600000) (.fullEmptyResend q))))
      ∧ (∀ (q : FeReq) reg va ex b, c.req = some (.fe q reg va ex true b) → q.who.id = r.who.id → r.answer = .retry →
        becomes fun c => { c with req := none, streams := b, mode := .ready })
      ∧ (c.req = some (.group r.who.id) →
        (∀ v, r.answer = .value v → becomes fun c => { c with req := none, mode := .ready, groupReply := some (50, v) })
        ∧ (r.answer = .poisoned → becomes fun c => { c with req := none, mode := .ready, groupReply := some (51, 0) })))
  ∧ (∀ (core id : Nat) (s : State), core < 12288 →
      (∃ t, exec (.storeAcknowledgement core id) s = .next t ∧ t.mem = s.mem
        ∧ ∀ e ∈ (t.core core).sb, e.id ≠ id ∧ ∃ e' ∈ (s.core core).sb, e'.id = e.id)
      ∧ (∀ k p l, k < 8 → splitPend id (s.ctx core k).pend = (l, some p) → p.reg ≠ 0 →
        let w : Who := ⟨s.module, core, k, id⟩
        let gone (t : State) : Prop := ∀ q ∈ (t.ctx core k).pend, q.id ≠ id
        (∀ w32 v, p.kind = .amo w32 → ∃ t, exec (.amoReply ⟨w, .value v⟩) s = .next t ∧ gone t ∧ t.mem = s.mem
          ∧ (t.ctx core k).x = ((s.ctx core k).putX p.reg (if w32 then (v.truncate 32).signExtend 64 else v)).x)
        ∧ (∃ t, exec (.amoReply ⟨w, .poisoned⟩) s = .next t ∧ gone t ∧ (t.ctx core k).x = (s.ctx core k).x
          ∧ findMark p.reg (t.ctx core k).marks = some (.poisoned p.va))
        ∧ (∃ t, exec (.amoLimitExpiry w) s = .next t ∧ gone t ∧ (t.ctx core k).x = (s.ctx core k).x
          ∧ findMark p.reg (t.ctx core k).marks = some (.lost p.va)))
      ∧ (∀ k l v, k < 8 → splitPend id (s.ctx core k).pend = (l, none) →
        exec (.amoReply ⟨⟨s.module, core, k, id⟩, v⟩) s = .next s)
      ∧ ((∃ e ∈ (s.core core).sb, e.id = id ∧ e.sent = false) → exec (.amoLimitExpiry ⟨s.module, core, 8, id⟩) s =
        .next (s.arm (s.wallUnits + (s.core core).amolim.toNat * 1000 * 1600000) (.amoLimitExpiry ⟨s.module, core, 8, id⟩)))
      ∧ ((∀ e ∈ (s.core core).sb, e.id = id → e.sent = true) →
        (∃ e ∈ (s.core core).sb, e.id = id) ∨ (∃ k, k < 8 ∧ id ∈ (s.ctx core k).posted) →
        ∃ t, exec (.amoLimitExpiry ⟨s.module, core, 8, id⟩) s = .next t ∧ (∀ e ∈ (t.core core).sb, e.id ≠ id)
          ∧ (∀ k, k < 8 → id ∉ (t.ctx core k).posted) ∧ t.mchecks = s.mchecks + 1)
      ∧ (∀ o idx v,
        let lost : Prop := ∃ t, exec (.decombineSplit o idx (.value v)) s = .next t ∧ t.mchecks = s.mchecks + 1
          ∧ (s.boot = .running → t.evseq = s.evseq + 1) ∧ t.mem = s.mem ∧ t.flights = s.flights
          ∧ (∀ q ∈ (t.octet o).records, q.1 ≠ idx)
        (∀ (f l : Who) (op : AmoOp) (w32 : Bool) (a : Word), f.module = s.module → l.module = s.module →
          mapFind (s.octet o).records idx = some ⟨.ctx f, .ctx l, op, w32, a, false, false⟩ →
          ∃ t, exec (.decombineSplit o idx (.value v)) s = .next t ∧ t.mem = s.mem
            ∧ (∀ q ∈ (t.octet o).records, q.1 ≠ idx)
            ∧ t.flights = s.flights ++ [⟨octetPlace o, f.core, 1, .amoReply ⟨f, .value v⟩, [], false⟩,
              ⟨octetPlace o, l.core, 1, .amoReply ⟨l, .value (amoNew op w32 v a 0)⟩, [], false⟩])
        ∧ (∀ r, mapFind (s.octet o).records idx = some r → r.lost = true → lost)
        ∧ (mapFind (s.octet o).records idx = none → lost)))

/-- Page-table walks fill the TLBs or park; a page move copies its lines, between modules too, and switches the entry.
R72, R74 and R76: a walk that ends at a leaf fills the cluster's TLB and the DTLBs of those who wait for its page, whose
contexts try again; one that meets an invalid or malformed entry parks each of them at its instruction.
R79, R80 and R83: the copy of a line carries its words, tags and poison to the destination, on this module at once and to
another in one message, and starts the next; after the last line the PTE names the destination in one write, unless
software changed it, which is a machine check; the packets of a move between modules are log entry 28's.
R79, R80, R83, R86, R88 and R89: a page's move between modules: the source port serves a request in a free one of its four
slots, and the asker learns the status, the entry marked before rd has it; a line is written with its tags and poison as
one operation and its arrival lets the copying go on; the PTE is switched at its home, unless software changed it; and the
end frees the slot. -/
def Obligations.WalksAndPageMovesAct : Prop :=
  (∀ (w : WalkReq) (s : State), let l : List Walk := mapGet [] s.walkers (clusterOf w.core)
      ((∀ j ∈ l, j.waiters.head? ≠ some w) → s.farReads = [] → exec (.pageTableWalk w) s = .next s)
      ∧ (∀ pid page fresh ws rest, l = ⟨pid, page, fresh, w :: ws⟩ :: rest →
        fresh = true ∨ mapGet [] s.walkCache (clusterOf w.core) = [] → s.farReads = [] →
        let p : Partition := (s.part pid).getD Partition.reset
        (∀ key ∈ s.walkKeys p w.va, (s.homeNow key).1 = s.module) →
        let waits (x : WalkReq) : Prop := x ∈ w :: ws ∧ x.ctx < 8 ∧ s.pidOf x.core = pid
          ∧ (s.ctx x.core x.ctx).mode = .walking x.va x.access
        (∀ e big key, s.walk p w.va = .leaf e big key → ∃ t, exec (.pageTableWalk w) s = .next t
          ∧ t.mem = s.mem ∧ tlbFind pid w.va (t.clusterTlb w.core) = some (e, big)
          ∧ (ws = [] → waits w → tlbFind pid w.va (t.core w.core).dtlb = some (e, big))
          ∧ ∀ x, waits x → x.fresh = false ∨ permits e x.access = true →
            t.ctx x.core x.ctx = { s.ctx x.core x.ctx with mode := .ready })
        ∧ (∀ level bad, s.walk p w.va = .bad level bad → ∃ t, exec (.pageTableWalk w) s = .next t
          ∧ ∀ x, waits x → (s.ctx x.core x.ctx).dlDue = none →
            (t.ctx x.core x.ctx).mode = .parked x.va x.access level (s.partAt x.core).fltGen
            ∧ (t.ctx x.core x.ctx).pc = (s.ctx x.core x.ctx).pc ∧ (t.ctx x.core x.ctx).x = (s.ctx x.core x.ctx).x)))
  ∧ (∀ (port slot : Nat) (s : State) (m : Move), Memory.wf s.mem = true → mapFind (s.port port).moves slot = some m →
      (∀ x ∈ (s.port port).moves, x.1 = slot → x.2 = m) → m.sending = false → m.copied < 1024 →
      let src : Nat := m.src + 64 * m.copied
      let dst : Nat := m.dst + 64 * m.copied
      let copies (t : State) : Prop := ∀ j, j < 8 → t.word (dst + 8 * j) = s.word (src + 8 * j)
        ∧ (s.tag (src + 8 * j) = true → t.tag (dst + 8 * j) = true) ∧ t.poisoned (dst + 8 * j) = s.poisoned (src + 8 * j)
      let inside : Prop := m.dstModule = s.module ∧ m.src % 65536 = 0 ∧ m.dst % 65536 = 0 ∧ m.src ≠ m.dst
      (inside → m.copied < 1023 → ∃ t, exec (.pageLineCopy port slot) s = .next t ∧ copies t
        ∧ mapFind (t.port port).moves slot = some { m with copied := m.copied + 1, switched := false }
        ∧ t.flights = s.flights ++ [⟨portPlace port, portPlace port, 3, .pageLineCopy port slot, [], false⟩])
      ∧ (inside → m.copied = 1023 → m.pteModule = s.module → m.pteKey % 8 = 0 → s.forward m.pteKey = none → s.steady m.pteKey = true → m.pteKey / 65536 * 65536 ≠ m.src →
        m.pteKey / 65536 * 65536 ≠ m.dst → ∃ t, exec (.pageLineCopy port slot) s = .next t ∧ copies t
          ∧ mapFind (t.port port).moves slot = some { m with copied := 1024, switched := true }
          ∧ (s.word m.pteKey = m.pteValue →
            t.word m.pteKey = (m.pteValue &&& 0xFFF00000000000BF) ||| BitVec.ofNat 64 (m.dstModule * 2 ^ 8)
              ||| BitVec.ofNat 64 (m.dst / 65536 * 2 ^ 20))
          ∧ (s.word m.pteKey ≠ m.pteValue → t.word m.pteKey = s.word m.pteKey ∧ t.mchecks = s.mchecks + 1))
      ∧ (m.dstModule ≠ s.module → ∃ t p, exec (.pageLineCopy port slot) s = .next t ∧ t.mem = s.mem ∧ t.flights = s.flights
        ∧ mapFind (t.port port).moves slot = some { m with sending := true } ∧ t.fabOut = s.fabOut ++ [p]
        ∧ p.2.dst = m.dstModule ∧ p.2.cargo = .line m.pid port slot dst ((List.range 8).map fun j =>
          (s.word (src + 8 * j), s.tag (src + 8 * j), s.poisoned (src + 8 * j)))))
  ∧ (∀ (x : Packet) (s : State), x.dst = s.module → x.num = (findPair x.src x.vn s.fabric).expect → Memory.wf s.mem = true →
      let i : Instr := .fabricMessageReceive x
      let sends (t : State) (m : Nat) (c : Cargo) : Prop := ∃ y : Nat × Packet, t.fabOut = s.fabOut ++ [y] ∧ y.2.dst = m
        ∧ y.2.cargo = c
      (∀ q, x.cargo = .moveReq q → q.who.module ≠ s.module →
        let port : Nat := portOf q.src
        (freeMove (s.port port).moves = none → ∃ t, exec i s = .next t ∧ t.mem = s.mem ∧ t.ports = s.ports
          ∧ sends t q.who.module (.moveStatus q 5))
        ∧ (∀ slot, freeMove (s.port port).moves = some slot → ∃ t, exec i s = .next t ∧ t.mem = s.mem
          ∧ sends t q.who.module (.moveStatus q 0) ∧ (t.port port).moves = (s.port port).moves ++
            [(slot, ⟨q.src, q.dstModule, q.dst, q.who.module, q.pteKey, q.pteValue, 0, false, false, q.pid, q.va⟩)]
          ∧ t.flights = s.flights ++ [⟨portPlace port, portPlace port, 3, .pageLineCopy port slot, [], false⟩]))
      ∧ (∀ q n, x.cargo = .moveStatus q n → (s.ctx q.who.core q.who.ctx).req = some (.group q.who.id) →
        (n = 0 → s.steady q.pteKey = true) →
        ∃ t, exec i s = .next t
          ∧ t.mem = (if n = 0 then memWrite s.mem (s.settle q.pteKey) 8 q.pteValue.toNat else s.mem)
          ∧ t.ctx q.who.core q.who.ctx = { s.ctx q.who.core q.who.ctx with
            mode := .ready, req := none, groupReply := some (60, BitVec.ofNat 64 n) })
      ∧ (∀ pid port slot key words, x.cargo = .line pid port slot key words → words.length = 8 → s.settle key % 64 = 0 →
        ∃ t, exec i s = .next t ∧ sends t x.src (.lineDone port slot) ∧ ∀ j w f b, words[j]? = some (w, f, b) →
          t.word (s.settle key + 8 * j) = w ∧ (f = true → t.tag (s.settle key + 8 * j) = true)
            ∧ t.poisoned (s.settle key + 8 * j) = b)
      ∧ (∀ port slot m, x.cargo = .lineDone port slot → mapFind (s.port port).moves slot = some m → m.sending = true →
        m.copied < 1023 → (∀ y ∈ (s.port port).moves, y.1 = slot → y.2 = m) → ∃ t, exec i s = .next t ∧ t.mem = s.mem
          ∧ mapFind (t.port port).moves slot = some { m with copied := m.copied + 1, sending := false, switched := false }
          ∧ ⟨portPlace port, portPlace port, 3, .pageLineCopy port slot, [], false⟩ ∈ t.flights)
      ∧ (∀ pid key old new, x.cargo = .pteSwitch pid key old new → s.settle key % 8 = 0 → s.steady key = true → ∃ t, exec i s = .next t
        ∧ (s.word (s.settle key) = old → t.word (s.settle key) = new)
        ∧ (s.word (s.settle key) ≠ old → t.mem = s.mem ∧ t.mchecks = s.mchecks + 1))
      ∧ (∀ pid va frame, x.cargo = .moveEnd pid va frame → ∃ t, exec i s = .next t ∧ t.mem = s.mem
        ∧ ∀ y ∈ (t.port (portOf frame)).moves, y ∈ (s.port (portOf frame)).moves ∧
          ¬ (y.2.switched = true ∧ y.2.pteModule = x.src ∧ y.2.pid = pid ∧ y.2.src = frame ∧ vpn y.2.va false = vpn va false)))

/-- Launch requests are refused, rejected or queued, and the next of a stream starts its root.
R328, R329 and R331: a launch request of a core is refused while an earlier one of its sender is refused or its stream
holds 16; one with a fault of R331 is answered with status REJECTED and number 0; any other joins its stream.
R328 and R329: the next launch of a stream takes the next number, and its root's message, of the requested class and in
the launch, goes to ROOT with the number as its first word; RECORD starts an empty log.
That a request is rejected on receipt is the model's reading (log entry 20). -/
def Obligations.LaunchRequestsJoinAndStart : Prop :=
  (∀ (m : Message) (s : State) (p : Partition), s.part (s.pidOf (senderOf m)) = some p → m.smod = s.module →
      m.side.endpoint = 0 → m.side.hardware = false → m.vn = 0 → s.Alone m → (∀ q ∈ s.parts, q.2.stage ≠ .saved) →
      s.preempted (p.coreOf 0) (s.pidOf (senderOf m)) = false → p.key = m.key →
      s.recMode (s.pidOf (senderOf m)) m.launch = 0 → s.refusalLogged (p.coreOf 0) m = false →
      s.holdBehind (p.coreOf 0) m (.launchRequest m) = none →
      let pid : Nat := s.pidOf (senderOf m)
      let w : Word := m.payload.getD 0 0
      let root : Nat := (w.extractLsb' 16 14).toNat
      let mode : Nat := (w.extractLsb' 4 3).toNat
      let stream : Nat := (w.extractLsb' 0 2).toNat
      let bad : Prop := w.extractLsb' 2 2 ≠ 0 ∨ w.extractLsb' 31 33 ≠ 0 ∨ (w.extractLsb' 8 8).toNat < 16
        ∨ w.getLsbD 30 = false ∧ p.hasCore root = false ∨ w.getLsbD 30 = true ∧ root ≠ 0 ∨ 5 ≤ mode
        ∨ (mode = 2 ∨ mode = 3) ∧ p.mlogEn = false
      let refused : Prop := tableRefuses p.seqRef m = true ∨ overtakes p.seqRefused m = true ∨ ¬ bad ∧ 16 ≤ (p.stream stream).length
      (refused → ∃ t q, exec (.launchRequest m) s = .next t ∧ t.part pid = some q ∧ q.stream stream = p.stream stream
        ∧ t.flights = s.flights ++ [⟨seqPlace pid, senderOf m, 1, .refused (senderOf m)
          { m with side := { m.side with via := p.coreOf 0 + 1 } } false, [], false⟩])
      ∧ (¬ refused → bad → ∃ t, exec (.launchRequest m) s = .next t
        ∧ t.Reports (senderOf m) [0x8000000000000004, 0, 0, 0, 0, 0])
      ∧ (¬ refused → ¬ bad → ∃ t q, exec (.launchRequest m) s = .next t ∧ t.part pid = some q
        ∧ q.stream stream = p.stream stream ++ [(m, false)]))
  ∧ (∀ (pid i : Nat) (s : State) (p : Partition) (r : Message × Bool), s.part pid = some p → p.startable i = some r → i < 4 →
      (∀ j, j < i → p.startable j = none) → (∀ l ∈ p.launches, l.num % 4096 ≠ p.nextNum % 4096) →
      let w : Word := r.1.payload.getD 0 0
      ∃ t q, exec (.launchStart pid i) s = .next t ∧ t.mem = s.mem ∧ t.part pid = some q ∧ q.activeOn i = some p.nextNum
        ∧ q.stream i = (p.stream i).tail ∧ q.nextNum = (if p.nextNum = 65535 then 1 else p.nextNum + 1)
        ∧ (runMode r = 2 → q.logNext = 0 ∧ q.recorder = some p.nextNum)
        ∧ ∃ f ∈ t.flights, ∃ m, eventMessage f.ev = some m ∧ m.launch = p.nextNum ∧ m.cls = w.extractLsb' 8 8
          ∧ m.payload.head? = some (BitVec.ofNat 64 p.nextNum) ∧ m.key = p.key
          ∧ (w.getLsbD 30 = false → m.dest = (w.extractLsb' 16 14).toNat))

/-- A launch completes when nothing of it is left, or ends by fault, and reports its record.
R330 and R331: a launch of which nothing is left is reported with status COMPLETE, its number and its digest; one with
something left goes on.
R330, R331 and R396: a launch that ends by fault leaves its stream and is reported with FAULT, DIVERGED or DIGEST, the
cause, the value and the path; a DIGEST of one flagged IDEM runs it again instead. -/
def Obligations.LaunchesEndAndReport : Prop :=
  (∀ (pid num : Nat) (s : State) (p : Partition) (l : Launch), s.part pid = some p → findLaunch num p.launches = some l →
      (s.launchOver p num = false → exec (.launchComplete pid num) s = .next s)
      ∧ (s.launchOver p num = true → l.request.smod = s.module → l.request.side.endpoint = 0 →
        ∃ t q, exec (.launchComplete pid num) s = .next t ∧ t.part pid = some q ∧ (∀ x ∈ q.launches, x.num ≠ num)
          ∧ q.activeOn l.stream = none
          ∧ t.Reports (senderOf l.request) [BitVec.ofNat 64 (2 ^ 63 + (if l.unrecorded then 256 else 0)
            + (if l.reexec then 512 else 0)), BitVec.ofNat 64 num, 0, 0, 0, l.digest]))
  ∧ (∀ (pid num cause : Nat) (v path : Word) (s : State) (p : Partition) (l : Launch), s.part pid = some p →
      findLaunch num p.launches = some l → p.stage = .running → l.request.smod = s.module → l.request.side.endpoint = 0 →
      let again : Prop := cause = 0x23 ∧ l.idem = true ∧ l.reexec = false
      ∃ t q, exec (.launchEndByFault pid num cause v path) s = .next t ∧ t.part pid = some q
        ∧ (∀ x ∈ q.launches, x.num ≠ num)
        ∧ (again → q.stream l.stream = (l.request, true) :: p.stream l.stream)
        ∧ (¬ again → ∃ f ∈ t.flights, ∃ m, eventMessage f.ev = some m ∧ m.cls = 0x0B ∧ m.dest = senderOf l.request
          ∧ m.payload.take 5 = [BitVec.ofNat 64 (2 ^ 63 + (if cause = 0x22 then 2 else if cause = 0x23 then 3 else 1)
            + (if l.unrecorded then 256 else 0) + (if l.reexec then 512 else 0)), BitVec.ofNat 64 num, BitVec.ofNat 64 cause, v, path]))

/-- The log reader feeds its sites; stalls and holds expire with what R392 and R395 state.
R390 and R393: the log reader gives the next entry to its site's queue, unless the queue of 32 has no room for it; an entry
of TYPE 0 ends the log.
R392 and R395: a recording stalled for LIMIT goes on where the region has room again, and else is abandoned with a TYPE 12
entry and its launch marked UNRECORDED; a replay decision held for LIMIT diverges with its tag at its context, or ends the
launch, with the path of the task that a core holds (log entry 36), or 0 at a port. -/
def Obligations.MadderFeedsStallsAndDiverges : Prop :=
  (∀ (pid num : Nat) (s : State) (p : Partition), s.part pid = some p → p.recorder = some num → s.recMode pid num = 3 →
      p.readPos < p.logNext.toNat → p.stage ≠ .saved → s.farReads = [] →
      let key : Nat := p.mlogBase.toNat * 65536 + 8 * p.readPos
      (s.homeNow key).1 = s.module → (s.homeNow (key + 8)).1 = s.module →
      let w : Word := s.word (s.settle key)
      let site : Nat := (w.extractLsb' 46 14).toNat
      s.waitTab site = [] →
      (w.extractLsb' 60 4 = 0 → exec (.logReaderEntry pid) s = .next s) ∧ (w.extractLsb' 60 4 ≠ 0 →
      w.extractLsb' 60 4 ≠ 4 → w.extractLsb' 60 4 ≠ 11 →
      let old : List Word := (s.site site).entries pid
      (old.length = 32 → exec (.logReaderEntry pid) s = .next s)
      ∧ (old.length < 32 → ∃ t q, exec (.logReaderEntry pid) s = .next t ∧ (t.site site).entries pid = old ++ [w]
        ∧ t.part pid = some q ∧ q.readPos = p.readPos + 1 ∧ t.mem = s.mem)))
  ∧ (∀ (pid site num : Nat) (s : State) (p : Partition), s.part pid = some p → p.recorder = some num →
      let late : List (Nat × Nat × Nat × Word) := (s.site site).stalls.filter fun x => x.1 == pid && x.2.1 ≤ s.wallUnits
      (late = [] → exec (.logStallExpiry pid site) s = .next s ∧ exec (.replayHoldExpiry pid site) s = .next s)
      ∧ (∀ due k tag, late = [(pid, due, k, tag)] →
        let free : State := s.modSite site fun x =>
          { x with stalls := x.stalls.filter fun y => !(y.1 == pid && y.2.2 == (k, tag)) }
        let path : Word :=
          if site < 12288 then
            match (s.core site).inbox.find? fun e => taskKey e.msg == tag with | some e => taskPath e.msg | none => 0
          else 0
        (k < 8 → exec (.replayHoldExpiry pid site) s = .next (free.takeTrap site k 0x22 tag))
        ∧ (8 ≤ k → exec (.replayHoldExpiry pid site) s =
          .next (free.fly site (seqPlace pid) 3 (.launchEndByFault pid num 0x22 0 path))))
      ∧ (late ≠ [] → s.recMode pid num = 2 →
        let key : Nat := p.mlogBase.toNat * 65536 + 8 * p.logNext.toNat
        (p.logRoom 2 = true → ∃ t, exec (.logStallExpiry pid site) s = .next t ∧ t.part pid = some p ∧ t.mem = s.mem
          ∧ ∀ x ∈ (t.site site).stalls, x.1 ≠ pid)
        ∧ (p.logRoom 2 = false → Memory.wf s.mem = true → p.logRoom 0 = true → rangeOk (p.logKey 0) (8 * p.logCap) = true →
          s.Settled key 16 →
          ∃ t q, exec (.logStallExpiry pid site) s = .next t ∧ t.part pid = some q ∧ q.logAband = true
            ∧ q.logNext.toNat = p.logCap - 7 ∧ (∀ l ∈ q.launches, l.num = num → l.unrecorded = true)
            ∧ t.word key = BitVec.ofNat 64 (12 * 2 ^ 60 + site * 2 ^ 46))))

/-- SWAPOK sets the consent, instants pair the cores, and pairs decide by gain, THRESH and consent.
R356: SWAPOK gives or withdraws the consent of the core's resident, and traps ACCESS for any bit but the lowest.
R346 to R348: at an instant the units of each pair of cores start with their halves of the gain, send them to each other,
and the next instant falls at the next whole multiple of the period.
R348: with both halves in hand the pair swaps exactly when the gain exceeds THRESH and the residents' conditions hold;
whatever the decision, the counts of both partner tables are halved and HCNT and FWD go down.
What is read at the instant and what at the decision is the model's reading (log entry 25). -/
def Obligations.SmaltPairsAndDecides : Prop :=
  (∀ (a : Reg) (s s1 : State) (c : Word), s.Clear → s.fpart.enabled .smalt = true → Reads s a c s1 →
      (c.extractLsb' 1 63 = 0 → exec (.swapok a) s = .next ((s1.modFcore fun q =>
        { q with resident := q.resident.map fun r => { r with ok := c.getLsbD 0 } }).done 4 id))
      ∧ (c.extractLsb' 1 63 ≠ 0 → exec (.swapok a) s = .next (s.trapped 0x05 c)))
  ∧ (∀ (pid : Nat) (s : State) (p : Partition), s.part pid = some p → p.swEn = true → p.enabled .smalt = true →
      p.swPeriod ≠ 0 → p.stage = .running →
      let n : Nat := p.swPeriod.toNat * 1000
      let k : Nat := s.wallNs / n
      ∃ t, exec (.swapInstant pid) s = .next t ∧ t.mem = s.mem
        ∧ ((k + 1) * n * 1600000, Event.swapInstant pid) ∈ t.timers
        ∧ ∀ o o' i, o ∈ p.octets → p.hasOctet o' = true → i < 8 →
          (s.octet o).power = .active → (s.octet o').power = .active →
          (k % 4 = 0 ∧ o % 48 % 2 = 0 ∨ k % 4 = 2 ∧ o % 48 % 2 = 1) ∧ o % 48 < 47 ∧ o' = o + 1
            ∨ (k % 4 = 1 ∧ o / 48 % 2 = 0 ∨ k % 4 = 3 ∧ o / 48 % 2 = 1) ∧ o / 48 < 31 ∧ o' = o + 48 →
          let a : Nat := octetCore o i
          let b : Nat := octetCore o' i
          (s.core a).resident ≠ none → (s.core a).pairing = none → (s.core b).pairing = none →
          (t.core a).pairing = some (pairingOf s.module a b (s.core a) (s.core b) p)
          ∧ (t.core b).pairing = some (pairingOf s.module b a (s.core b) (s.core a) p)
          ∧ ⟨a, b, 3, .swapControl a b, [], false⟩ ∈ t.flights ∧ ⟨b, a, 3, .swapControl b a, [], false⟩ ∈ t.flights)
  ∧ (∀ (A B a b : Nat) (s : State) (pA pB pa pb : Pairing), a = A ∧ b = B ∨ a = B ∧ b = A → a < b →
      (s.core A).pairing = some pA → (s.core B).pairing = some pB → (s.core a).pairing = some pa →
      (s.core b).pairing = some pb → pA.partner = B → pB.partner = A → pB.heard = false →
      (pA.heard = false → exec (.swapControl A B) s = .next (s.modCore B fun q => { q with pairing := some { pB with heard := true } }))
      ∧ (pA.heard = true → ∃ t, exec (.swapControl A B) s = .next t ∧ t.mem = s.mem
        ∧ (∀ c, c = a ∨ c = b → (t.core c).partners = (s.core c).partners.map halvePartner ∧ (t.core c).fwd = (s.core c).fwd - 1
          ∧ (t.core c).resident = (s.core c).resident.map fun r => { r with hcnt := r.hcnt - 1 })
        ∧ (let yes : Prop := (∃ ra rb, (s.core a).resident = some ra ∧ (s.core b).resident = some rb ∧ ra.firing = false
              ∧ rb.firing = false ∧ ra.hcnt = 0 ∧ rb.hcnt = 0 ∧ ra.base = rb.base ∧ ra.cls = rb.cls)
            ∧ (pa.thresh : Int) < pa.half + pb.half ∧ pa.consent = true ∧ pb.consent = true
            ∧ bindingsClash (s.core a) (s.core b) = false
          (yes → (∃ p, (t.core a).pairing = some p ∧ p.swaps = true) ∧ ∃ f ∈ t.flights, f.ev = .swapExchange a b)
          ∧ (¬ yes → (t.core a).pairing = none ∧ (t.core b).pairing = none))))

/-- An exchange begins when its pair is clear and swaps the residents, regions and directory entries.
R349 and R356: the exchange of a decided pair begins once the accesses it waits for are performed, if both residents are
still those that have consented; else the pair is given up.
R350 and R351: an exchange ends in one step: the two regions' bytes change places, each resident goes on at the other core
with HCNT at HOLDOFF and its partner table, both cores forward for 4 instants, and the directory names the new cores. -/
def Obligations.SmaltExchangesTheResidents : Prop :=
  (∀ (a b : Nat) (s : State) (p : Pairing), a ≠ b → (s.core a).pairing = some p → p.swaps = true → p.partner = b →
      (s.core a).exch = none →
      ((∃ w ∈ p.waits, s.swapPending w = true) → exec (.swapExchange a b) s = .next s)
      ∧ ((∀ w ∈ p.waits, s.swapPending w = false) →
        let stands : Prop := (s.core a).resident ≠ none ∧ (s.core b).resident ≠ none ∧ p.consent = true
          ∧ ∃ pb, (s.core b).pairing = some pb ∧ pb.consent = true
        (stands → ∃ t, exec (.swapExchange a b) s = .next t ∧ (t.core a).exch = some b ∧ (t.core b).exch = some a
          ∧ t.mem = s.mem ∧ t.flights = s.flights ++ [⟨a, a, 3, .swapExchangeEnd a b, [], false⟩])
        ∧ (¬ stands → ∃ t, exec (.swapExchange a b) s = .next t ∧ t.mem = s.mem ∧ t.flights = s.flights
          ∧ ∀ c, c = a ∨ c = b → (t.core c).pairing = none ∧ (t.core c).exch = none
            ∧ (t.core c).resident = (s.core c).resident)))
  ∧ (∀ (a b : Nat) (s : State) (p : Pairing) (ra rb : Resident) (q : Partition), a < b → b < 12288 →
      (s.core a).exch = some b → (s.core a).pairing = some p → (s.core a).resident = some ra → (s.core b).resident = some rb →
      ra.base = rb.base → ra.cls = rb.cls → ra.base + 2 ^ (8 + ra.cls) ≤ 65536 → ra.name ≠ rb.name → Memory.wf s.mem = true →
      s.part (s.pidOf a) = some q → p.consent = true → (∃ pb, (s.core b).pairing = some pb ∧ pb.consent = true) →
      ∃ t, exec (.swapExchangeEnd a b) s = .next t
        ∧ (t.core a).resident = some { rb with hcnt := p.holdoff }
        ∧ (t.core b).resident = some { ra with hcnt := p.holdoff }
        ∧ (t.core a).partners = (s.core b).partners ∧ (t.core b).partners = (s.core a).partners
        ∧ (t.core a).fwd = 4 ∧ (t.core b).fwd = 4 ∧ (t.core a).fwdTo = b ∧ (t.core b).fwdTo = a
        ∧ (∀ j, j < 2 ^ (8 + ra.cls) → t.byte (localKey a (ra.base + j)) = s.byte (localKey b (ra.base + j))
          ∧ t.byte (localKey b (ra.base + j)) = s.byte (localKey a (ra.base + j)))
        ∧ (paOk (q.dirKey ra.name) = true → s.homeNow (q.dirKey ra.name) = (s.module, q.dirKey ra.name) →
          s.steady (q.dirKey ra.name) = true → t.word (q.dirKey ra.name) = dirEntry s.module b)
        ∧ (paOk (q.dirKey rb.name) = true → s.homeNow (q.dirKey rb.name) = (s.module, q.dirKey rb.name) →
          s.steady (q.dirKey rb.name) = true → t.word (q.dirKey rb.name) = dirEntry s.module a))

/-- The supply sets clocks and levels, rails lose phases, octets sleep, wake and lose their state.
R2, R3, R425 and R427: the supply sets one of an octet's clocks, from 0.70 up to 1.50 cycles per wall ns, its floor
suspended while its rail signals an emergency, and no cycle is lost or counted twice; a regulator request takes the
highest level of the octet's cores under the rail's cap.
R3 and R428 to R430: a rail that loses a phase carries 100 A and one level for each that is left, and the host is told;
below 4 phases every partition stops; an emergency is signalled, and cleared 10 wall µs later at the earliest, with the
clocks of the rail's octets back in their range.
R373, R431, R433 and R434: an idle octet goes into retention, or is gated when its contexts hold nothing, and its cycles stand
still; an octet that is not idle stays, and one that a context may now go on in begins a new idle interval; it wakes when
what it waits for comes, or in time for the wall time that one of its contexts waits for, and is then active; what its
router held comes on before all else.
R405 and R422: an octet that has lost state in retention holds no task, firing, inbox entry or unbound message when it
wakes, and a lost word of its local memory is poisoned.
The words of the host's event are the model's choice (log entry 13); that a supply change out of range, or a clear before its
time, changes nothing, and that a clear brings the clocks to their bounds, are its reading (log entry 27). -/
def Obligations.SupplyRailsAndOctetsChange : Prop :=
  (∀ (o i khz : Nat) (s : State), let emerg : Bool := (s.rail (railOf o)).emerg
      let least : Nat := s.clockBounds.1
      let most : Nat := s.clockBounds.2
      (khz = 0 ∨ most < khz ∨ khz < least ∧ emerg = false → exec (.supplyChange ⟨o, i⟩ khz) s = .next s)
      ∧ (o < 1536 → i < 9 → 0 < khz → khz ≤ most → least ≤ khz ∨ emerg = true →
        ∃ t, exec (.supplyChange ⟨o, i⟩ khz) s = .next t ∧ ((t.octet o).clock i).khz = khz ∧ t.mem = s.mem ∧ t.cores = s.cores
          ∧ (∀ j, j < 9 → j ≠ i → (t.octet o).clock j = (s.octet o).clock j)
          ∧ (s.octet o).cyclesAt i s.now ≤ (t.octet o).cyclesAt i s.now
          ∧ (t.octet o).cyclesAt i s.now ≤ (s.octet o).cyclesAt i s.now + 1)
      ∧ (∃ t, exec (.regulatorRequestChange o) s = .next t ∧ t.mem = s.mem ∧ (t.octet o).level ≤ (s.rail (railOf o)).cap
        ∧ ∀ i, i < 8 → Nat.min (s.coreLevel (s.partAt (octetCore o 0)) (octetCore o i)) (s.rail (railOf o)).cap ≤ (t.octet o).level))
  ∧ (∀ (r n : Nat) (s : State), r < 16 →
      ((s.rail r).ph = n + 1 → ∃ t, exec (.phaseLoss r) s = .next t ∧ t.mem = s.mem
        ∧ t.rail r = { s.rail r with ph := n, limit := 100 * n, cap := n - 1, derate := true }
        ∧ (s.boot = .running → HostOut.event s.evseq [1, BitVec.ofNat 64 r, BitVec.ofNat 64 (100 * n), BitVec.ofNat 64 n] ∈ t.hostOut)
        ∧ (n < 4 → t.mchecks = s.mchecks + 1 ∧ ∀ q ∈ t.parts, q.2.stage = .stopped))
      ∧ (∃ t, exec (.supplyEmergency r) s = .next t ∧ t.rail r = { s.rail r with emerg := true, overAt := s.wallUnits }
        ∧ t.mem = s.mem)
      ∧ (let due : Prop := (s.rail r).emerg = true ∧ (s.rail r).overAt + 10000 * 1600000 ≤ s.wallUnits
        (due → ∃ t, exec (.emergencyClear r) s = .next t ∧ t.rail r = { s.rail r with emerg := false } ∧ t.mem = s.mem
          ∧ (s.clockBounds.1 ≤ s.clockBounds.2 → ∀ x ∈ t.octets, railOf x.1 = r → ∀ i, i < 9 →
            s.clockBounds.1 ≤ (x.2.clock i).khz ∧ (x.2.clock i).khz ≤ s.clockBounds.2))
        ∧ (¬ due → exec (.emergencyClear r) s = .next s)))
  ∧ (∀ (o : Nat) (l : RetLoss) (s : State), let x : Octet := s.octet o
      let sleeps (i : Instr) (p : Power) : Prop := ∃ t, exec i s = .next t ∧ (t.octet o).power = p ∧ t.mem = s.mem
        ∧ t.cores = s.cores ∧ ∀ i n, (t.octet o).cyclesAt i n = x.cyclesAt i s.now
      let wakes (i : Instr) : Prop := ∃ t, exec i s = .next t ∧ (t.octet o).power = .active ∧ t.mem = s.mem
        ∧ t.cores = s.cores ∧ (∀ i, (t.octet o).cyclesAt i s.now = x.cyclesAt i s.now) ∧ (t.octet o).held = []
        ∧ ∃ rest, t.flights = x.held.map (fun f => { f with held := true }) ++ rest ∧ ∀ f ∈ rest, f ∈ s.flights
      (s.octetStirs o = true → ∀ i ∈ [Instr.retentionEntry o, .gatingEntry o],
        exec i s = .next (s.modOctet o fun x => { x with idleSince := some s.wallUnits }))
      ∧ (s.octetStirs o = false →
        (x.power = .active → s.octetIdle o = true → sleeps (.retentionEntry o) .retention)
        ∧ (s.octetIdle o = false → exec (.retentionEntry o) s = .next s ∧ exec (.gatingEntry o) s = .next s)
        ∧ (x.power ≠ .gated → s.octetIdle o = true → s.octetTasks o = false → sleeps (.gatingEntry o) .gated))
      ∧ (x.power = .retention → s.wakes o = true ∨ (∀ t, s.octetWall o = some t → t * 1600000 ≤ s.wallUnits) →
        wakes (.retentionTimedWake o))
      ∧ (∀ t, x.power = .retention → s.wakes o = false → s.octetWall o = some t → s.wallUnits < t * 1600000 →
        exec (.retentionTimedWake o) s = .next ((s.fly (octetPlace o) (octetPlace o) 3
          (.octetWake o ⟨false, [], false, [], [], []⟩)).arm (t * 1600000) (.retentionTimedWake o)))
      ∧ (x.power ≠ .active → x.power = .gated ∨ lossFound l = false → wakes (.octetWake o l))
      ∧ (x.power = .active → exec (.octetWake o l) s = .next s))
  ∧ (∀ (o : Nat) (l : RetLoss) (s : State), o < 1536 → (s.octet o).power = .retention → lossFound l = true →
      ∃ t, exec (.octetWake o l) s = .next t ∧ (t.octet o).power = .active
        ∧ (∀ i k, i < 8 → k < 8 → (t.ctx (octetCore o i) k).run = .none ∧ (t.core (octetCore o i)).inbox = []
          ∧ (t.core (octetCore o i)).hold = [] ∧ (t.core (octetCore o i)).resident = none)
        ∧ ∀ w ∈ l.words, isDevice w = false → octetOf (homePlace w) = o → t.poisoned w = true)

/-- Control registers: accesses are checked, reads give the value, and time registers read now.
R30, R58 and R59: an access to a number that is not allocated traps ILLOP, and one to a supervisor register from task
privilege PRIV, with the instruction.
R217: CRR writes the register's value to x[rd]; CRS and CRC with x0 read alone.
R218 and R381: cycle, wall and ratio are read as values of time: outside RECORD and REPLAY the value of now, with E
counted. -/
def Obligations.ControlRegistersAreCheckedAndRead : Prop :=
  (∀ (d a : Reg) (n : BitVec 12) (s : State), ∀ i ∈ [Instr.crr d n, .crw n a, .crs d n a, .crc d n a],
      (s.ctl n.toNat = none → exec i s = .next (s.trapped 0x01 (encode i).toWord))
      ∧ (s.ctl n.toNat ≠ none → 0xC00 ≤ n.toNat → s.fctx.prv = false → exec i s = .next (s.trapped 0x03 (encode i).toWord)))
  ∧ (∀ (d : Reg) (n : BitVec 12) (s : State) (v : Word), s.ctl n.toNat = some v → n.toNat < 0xC00 ∨ s.fctx.prv = true →
      untimed n →
      ∀ i ∈ [Instr.crr d n, .crs d n 0, .crc d n 0], exec i s = .next (s.done 4 fun c => c.result d v))
  ∧ (∀ (d : Reg) (s : State), s.fctx.lmode ≠ 2 → s.fctx.lmode ≠ 3 →
      ∀ n ∈ [(0x030 : BitVec 12), 0x031, 0x032],
        exec (.crr d n) s = .next (s.done 4 fun c => ({ c with dordE := c.dordE + 1 } : Ctx).result d
          (if n = 0x030 then BitVec.ofNat 64 (s.cycle s.focusCore) else if n = 0x031 then BitVec.ofNat 64 s.wallNs
            else (s.ratio s.focusCore).zeroExtend 64)))

/-- Control registers: writes reach the RW bits, and fields that do not take every value are clamped.
R9, R10 and R217: CRW writes the RW bits of a plain register, CRS sets and CRC clears those of its operand, and the other
bits keep what they hold; CRS and CRC return the old value. No memory and no other context changes.
R249, R271, R317, R321, R342, R389 and R410: the fields that do not take every value: a rounding mode above 4 stores 0; W,
AMOLIM and LIMIT store 1 for 0; HOLDOFF stores at least 4 and PERIOD 50 for 0; RSZ and SZ are clamped; a misplaced stack
is ignored as a whole; the flags of mlogpos are cleared by ones. -/
def Obligations.ControlRegistersAreWritten : Prop :=
  (∀ (d a : Reg) (n : BitVec 12) (rw : Word) (pid : Nat) (p : Partition) (s s1 : State) (m old : Word),
      (n.toNat, rw) ∈ plainCtl → s.Clear → s.InPart pid p → s.fctx.prv = true → Reads s a m s1 → s.ctl n.toNat = some old →
      a ≠ 0 →
      let writes (i : Instr) (v : Word) (reads : Bool) : Prop := ∃ t, exec i s = .next t ∧ t.ctl n.toNat = some v ∧ t.mem = s.mem
        ∧ t.fctx.x = (if reads then (s.fctx.result d old).x else s.fctx.x) ∧ t.fctx.pc = s.fctx.pc + 4
        ∧ ∀ k, k < 8 → k ≠ s.focusCtx % 8 → t.ctx s.focusCore k = s.ctx s.focusCore k
      writes (.crw n a) ((m &&& rw) ||| (old &&& ~~~rw)) false
      ∧ writes (.crs d n a) (old ||| (m &&& rw)) true ∧ writes (.crc d n a) (old &&& ~~~(m &&& rw)) true)
  ∧ (∀ (a : Reg) (pid : Nat) (p : Partition) (s s1 : State) (m : Word), s.Clear → s.InPart pid p → s.fctx.prv = true →
      Reads s a m s1 →
      let f (lo n : Nat) : Nat := (m.extractLsb' lo n).toNat
      let core (n : BitVec 12) (P : Core → Prop) : Prop := ∃ t, exec (.crw n a) s = .next t ∧ P t.fcore ∧ t.mem = s.mem
        ∧ t.fctx.pc = s.fctx.pc + 4
      let part (n : BitVec 12) (P : Partition → Prop) : Prop := ∃ t q, exec (.crw n a) s = .next t ∧ t.part pid = some q ∧ P q
        ∧ t.mem = s.mem ∧ t.fctx.pc = s.fctx.pc + 4
      core 0x010 (fun q => (q.ctx s.focusCtx).frm.toNat = (if f 8 3 < 5 then f 8 3 else 0)
        ∧ (q.ctx s.focusCtx).fflags = m.extractLsb' 0 5)
      ∧ core 0x052 (fun q => (q.ctx s.focusCtx).joinNext = Nat.min (f 32 9) 256
        ∧ (q.ctx s.focusCtx).joinBase = m.extractLsb' 4 12)
      ∧ core 0x023 (fun q => q.mxwt.toNat = if f 0 4 = 0 then 1 else f 0 4)
      ∧ core 0x060 (fun q => q.amolim.toNat = (if f 32 16 = 0 then 1 else f 32 16) ∧ q.mode2 = m.getLsbD 2
        ∧ q.mode1 = m.getLsbD 1 ∧ q.mode0 = m.getLsbD 0)
      ∧ core 0x061 (fun q => q.low.toNat = Nat.min (f 8 4) 7 ∧ q.drainCls = m.extractLsb' 0 8)
      ∧ core 0x062 (fun q => if f 0 16 % 16 ≠ 0 ∨ f 16 16 % 16 ≠ 0 ∨ 65520 < f 0 16 + 8 * f 16 16 then
          q.stkBase = s.fcore.stkBase ∧ q.stkSize = s.fcore.stkSize
        else q.stkBase.toNat = f 0 16 ∧ q.stkSize.toNat = f 16 16)
      ∧ part 0xC50 (fun q => q.swThresh.toNat = f 32 32 ∧ q.swHoldoff.toNat = Nat.max (f 28 4) 4
        ∧ q.swPeriod.toNat = (if f 8 16 = 0 then 50 else f 8 16) ∧ q.swEn = m.getLsbD 0)
      ∧ part 0xC61 (fun q => q.logHigh = (p.logHigh && !m.getLsbD 63) ∧ q.logFull = (p.logFull && !m.getLsbD 62)
        ∧ q.logAband = p.logAband ∧ q.logNext.toNat = f 0 40)
      ∧ part 0xC62 (fun q => q.mstall.toNat = if f 0 32 = 0 then 1 else f 0 32)
      ∧ part 0xC63 (fun q => q.mrefBase.toNat = f 16 32 ∧ q.mrefRsz.toNat = Nat.min (Nat.max (f 8 5) 4) 24
        ∧ q.mrefWr = m.getLsbD 1 ∧ q.mrefEn = m.getLsbD 0)
      ∧ part 0xC70 (fun q => q.svqBase.toNat = f 16 32 ∧ q.svqSz.toNat = Nat.min (f 8 4) 10 ∧ q.svqEn = m.getLsbD 0))

/-- Writes of fltgen, fltkill, svloc, stkcfg, hostep and mxstat act as their events; DPOINT and RDDIG read.
R407, R414, R415, R321 and R447: what a write of fltgen, fltkill, svloc, stkcfg or hostep does beyond its fields: a new
generation lets the parked contexts try again; a live launch ends with XLATE; a core outside the partition is ignored.
R271, R407, R414, R415, R321 and R447: CRW of mxstat, fltgen, fltkill, svloc, stkcfg and hostep does what the event of
that register does, and goes on.
R381, R399 and R400: DPOINT counts an event and, outside RECORD and REPLAY, gives its operand; RDDIG gives the digest, its
key, E or J, and traps ACCESS for any other selector. -/
def Obligations.RegisterWritesActAndMadderReads : Prop :=
  (∀ (pid core : Nat) (s : State) (p : Partition) (v : Word) (l : BitVec 16), s.part pid = some p →
      let part (i : Instr) (q : Partition) : Prop := ∃ t, exec i s = .next t ∧ t.part pid = some q ∧ t.mem = s.mem
      (∃ t, exec (.fltgenAdvance pid) s = .next t ∧ t.mem = s.mem
        ∧ t.part pid = some { p with fltGen := p.fltGen + 1, fltOvf := 0, filter := [] }
        ∧ ∀ k, k < 8 → p.stage ≠ .saved → p.hasCore core = true → (core, s.core core) ∈ s.cores →
          ∀ va ac lv, (s.ctx core k).mode = .parked va ac lv p.fltGen → (t.ctx core k) = { s.ctx core k with mode := .ready })
      ∧ (∀ x, l ≠ 0 → findLaunch l.toNat p.launches = some x → x.num = l.toNat →
        ∃ path, exec (.fltkill pid l) s = .next (s.fly (seqPlace pid) (seqPlace pid) 3 (.launchEndByFault pid l.toNat 0x06 0 path)))
      ∧ (findLaunch l.toNat p.launches = none ∨ l = 0 → exec (.fltkill pid l) s = .next s)
      ∧ (p.hasCore (v.extractLsb' 0 14).toNat = true →
        part (.svlocWrite pid v)
          { p with
            svEn := v.getLsbD 31, svPort := v.extractLsb' 16 2, svCore := v.extractLsb' 0 14
            svNdrop := if v.getLsbD 31 then 0 else p.svNdrop }
        ∧ part (.hostepWrite pid v) { p with hcls := v.extractLsb' 40 8, hostEn := v.getLsbD 31, hostCore := v.extractLsb' 0 14 })
      ∧ (p.hasCore (v.extractLsb' 0 14).toNat = false → part (.svlocWrite pid v) p ∧ part (.hostepWrite pid v) p)
      ∧ (let base : Nat := (v.extractLsb' 0 16).toNat
        let size : Nat := (v.extractLsb' 16 16).toNat
        (base % 16 = 0 → size % 16 = 0 → base + 8 * size ≤ 65520 → exec (.stkcfgWrite core v) s =
          .next (s.modCore core fun q => { q with stkBase := BitVec.ofNat 16 base, stkSize := BitVec.ofNat 16 size }))
        ∧ (base % 16 ≠ 0 ∨ size % 16 ≠ 0 ∨ 65520 < base + 8 * size → exec (.stkcfgWrite core v) s = .next s)))
  ∧ (∀ (a : Reg) (pid : Nat) (p : Partition) (s s1 t : State) (m : Word), s.Clear → s.InPart pid p → s.fctx.prv = true →
      Reads s a m s1 →
      let causes (n : BitVec 12) (e : Instr) : Prop := exec e s1 = .next t → exec (.crw n a) s = .next (t.done 4 id)
      (m.getLsbD 63 = true → causes 0x024 (.mxstatRecover s.focusCore) ∧ causes 0xC72 (.fltgenAdvance pid))
      ∧ causes 0xC73 (.fltkill pid (m.extractLsb' 0 16)) ∧ causes 0xC74 (.svlocWrite pid m)
      ∧ causes 0x062 (.stkcfgWrite s.focusCore m) ∧ causes 0xCC0 (.hostepWrite pid m)
      ∧ (m.getLsbD 63 = false → exec (.crw 0x024 a) s = .next (s1.done 4 id) ∧ exec (.crw 0xC72 a) s = .next (s1.done 4 id)))
  ∧ (∀ (d a : Reg) (s s1 : State) (v : Word), s.fpart.enabled .madder = true → Reads s a v s1 → (s.fctx.lmode ≠ 2 → s.fctx.lmode ≠ 3 → exec (.dpoint d a) s =
        .next (s1.done 4 fun c => ({ c with dordE := c.dordE + 1 } : Ctx).result d v))
      ∧ (let gives (w : Word) : Prop := exec (.rddig d a) s = .next (s1.done 4 fun c => c.result d w)
        (v = 0 → gives s.fctx.digest) ∧ (v = 1 → gives s.fctx.dkey) ∧ (v = 2 → gives (s.fctx.dordE.setWidth 64))
        ∧ (v = 3 → gives (s.fctx.dordJ.setWidth 64)) ∧ (3 < v.toNat → exec (.rddig d a) s = .next (s.trapped 0x05 v))))

/-- Traps save, vector and return; TRAP, BREAK, TRET and YIELD act; unhandled faults end their launch.
R402 to R404: a trap of a cause that vectors, in a context with a handler, saves cause, value and pc, keeps AP in PAP and
clears it, sets IH and goes to tvec; registers, memory and the other contexts are unchanged.
R24, R56, R59 and R219: TRAP and BREAK trap with their imm6, a word that is no instruction traps ILLOP with the word; TRET
outside a handler traps ILLOP, with an odd tpc MISALIGN and with one outside the code store ACCESS.
R220, R221 and R463: TRET clears IH, restores AP from PAP and goes to tpc, and YIELD moves its level's pointer past the
context, each with no other effect; BREAK in a partition that halts on it, with a save area, begins the pre-emption.
R401 and R405: a fault in a handler, without a handler, or of a cause that does not vector ends the launch of its task, or
terminates the resident of its firing with a notice; a standing-launch task is ended, with a notice.
The words of the event of a halting BREAK are the model's choice (log entry 13). -/
def Obligations.TrapsEnterReturnAndEndLaunches : Prop :=
  (∀ (s : State) (c : BitVec 8) (v : Word), s.CanTrap → vectors c = true → s.fctx.wait = none → s.fctx.copy = none →
      s.fctx.groupReply = none → s.trapped c v = s.modF fun x =>
        { x with
          cause := c, tval := v, tpc := x.pc, pap := x.ap, ap := false, ih := true, inval := none, vread := [], mode := .ready
          pc := BitVec.ofNat 64 (2 * x.tvec.toNat) })
  ∧ (∀ (i : BitVec 6) (w : BitVec 32) (s : State), exec (.trap i) s = .next (s.trapped 0x10 (i.setWidth 64))
      ∧ (s.breakHalt = none →
        exec (.brk i) s = .next ((s.modF fun c => { c with brkPass := none }).trapped 0x11 (i.setWidth 64)))
      ∧ exec (.illegalInstruction w) s = .next (s.trapped 0x01 (w.setWidth 64))
      ∧ (s.fctx.ih = false → exec .tret s = .next (s.trapped 0x01 (encode .tret).toWord))
      ∧ (s.fctx.ih = true → let t : Word := s.fctx.tpc
        (t.toNat % 2 = 1 → exec .tret s = .next (s.trapped 0x04 t))
        ∧ (t.toNat % 2 = 0 → 16384 ≤ t.toNat → exec .tret s = .next (s.trapped 0x05 t))))
  ∧ (∀ (s : State),
      (s.fctx.ih = true → s.fctx.tpc.toNat % 2 = 0 → s.fctx.tpc.toNat < 16384 →
        exec .tret s = .next (s.modF fun c =>
          { c with
            ih := false, ap := c.pap, pc := c.tpc, issued := c.issued + 1
            brkPass := if c.brkPass = some c.tpc then c.brkPass else none }))
      ∧ (∃ t, exec .yieldCtx s = .next t ∧ t.fctx = s.fctx.past 4 ∧ t.mem = s.mem
        ∧ t.fcore.rr = s.fcore.rr.set (s.fctx.run.prio % 4) ((s.focusCtx + 1) % 8) (Nat.mod_lt _ (by decide)))
      ∧ (∀ (i : BitVec 6) (pid : Nat) (p : Partition), s.Clear → s.InPart pid p → p.brkHalt = true → s.fctx.brkPass ≠ some s.fctx.pc →
        p.stage = .running → p.psave ≠ 0 → ∃ t, exec (.brk i) s = .next t ∧ t.fctx = { s.fctx with brkPass := some s.fctx.pc }
          ∧ t.mem = s.mem ∧ t.part pid = some { p with stage := .preempting 0 }
          ∧ (s.boot = .running →
            HostOut.event s.evseq [5, BitVec.ofNat 64 s.focusCore, BitVec.ofNat 64 s.focusCtx, s.fctx.pc] ∈ t.hostOut)))
  ∧ (∀ (s : State) (c : BitVec 8) (v : Word), s.fctx.ih = true ∨ s.fctx.tvec = 0 ∨ vectors c = false →
      s.fctx.wait = none → s.fctx.copy = none → s.fctx.groupReply = none →
      let tells (kind : Nat) (words : List Word) : Prop := ∀ p, s.part (s.pidOf s.focusCore) = some p → p.svEn = true →
        (s.octet (octetOf s.focusCore)).notices.length < 4 →
        ⟨octetPlace (octetOf s.focusCore), p.svCore.toNat, 3, .supervisorNotice
          ⟨s.pidOf s.focusCore, octetOf s.focusCore, kind, s.focusCore, words⟩, [], false⟩ ∈ (s.trapped c v).flights
      (∀ cls prio j r, s.fctx.run = .task cls prio j r → s.fctx.lnum ≠ 0 →
        s.trapped c v = (s.fly s.focusCore (seqPlace (s.pidOf s.focusCore)) 3 (.launchEndByFault (s.pidOf s.focusCore)
          s.fctx.lnum.toNat c.toNat v s.fctx.path)).modF fun x => { x with mode := .waiting })
      ∧ (∀ cls prio j r, s.fctx.run = .task cls prio j r → s.fctx.lnum = 0 → (s.trapped c v).fctx.run = .none
        ∧ tells 9 [c.zeroExtend 64, v, s.fctx.dkey])
      ∧ (∀ name prio l, s.fctx.run = .firing name prio l → s.focusCtx < 8 →
        (s.trapped c v).fctx.run = .none ∧ (s.trapped c v).fcore.resident = none
        ∧ tells 8 [BitVec.ofNat 64 name, c.zeroExtend 64, v]))

/-- TLBINV, PGMOVE and CODELD trap PRIV at task privilege; TLBINV removes, PGMOVE marks and starts.
R58 and R85 to R88: TLBINV, PGMOVE and CODELD trap PRIV at task privilege; TLBINV traps ACCESS for a reserved kind or bit,
for END with kind 1, and for an address that is no VA or not zero.
R86: TLBINV removes every cached entry of its partition that maps the address (kind 0), or all of them and the cached
pointers (kind 1), and completes at once when no access that was translated through one is outstanding.
R82, R83 and R88: PGMOVE's status: 1 for an invalid or malformed entry, 2 for a large page, 3 for a page under a move, 4
for a bad destination, 5 for a source port that serves four moves; with 0 the entry is marked and the copying begins. For
a page on another module its source port is asked by a packet, and the context waits for the status (log entry 28). -/
def Obligations.SupervisorInstructionsActOrTrap : Prop :=
  (∀ (d a b : Reg) (s s1 s2 : State) (va op : Word), Reads s a va s1 → Reads s1 b op s2 →
      (s.fctx.prv = false → exec (.tlbinv a b) s = .next (s.trapped 0x03 (encode (.tlbinv a b)).toWord)
        ∧ exec (.codeld d a b) s = .next (s.trapped 0x03 (encode (.codeld d a b)).toWord)
        ∧ (s.fpart.enabled .pgm = true → exec (.pgmove d a b) s = .next (s.trapped 0x03 (encode (.pgmove d a b)).toWord)))
      ∧ (s.fctx.prv = true →
        let kind : Nat := (op.extractLsb' 0 2).toNat
        let bad : Prop := op.extractLsb' 3 61 ≠ 0 ∨ 2 ≤ kind ∨ op.getLsbD 2 = true ∧ kind ≠ 0
        (bad → exec (.tlbinv a b) s = .next (s.trapped 0x05 op))
        ∧ (¬ bad → kind = 0 ∧ va.extractLsb' 55 9 ≠ 0 ∨ kind = 1 ∧ va ≠ 0 → exec (.tlbinv a b) s = .next (s.trapped 0x05 va))
        ∧ (s.fpart.enabled .pgm = true → va.extractLsb' 55 9 ≠ 0 → exec (.pgmove d a b) s = .next (s.trapped 0x05 va))))
  ∧ (∀ (a b : Reg) (s s1 s2 : State) (va op : Word), s.Clear → s.fctx.prv = true → Reads s a va s1 → Reads s1 b op s2 →
      s.fctx.inval = none →
      let pid : Nat := s.pidOf s.focusCore
      let one : Prop := op.extractLsb' 3 61 = 0 ∧ (op.extractLsb' 0 2).toNat = 0 ∧ va.extractLsb' 55 9 = 0
      let all : Prop := op = 1 ∧ va = 0
      let stale : List TlbEntry := s.staleEntries pid (if op = 1 then 1 else 0) va
      one ∨ all → (s2.coresOf s2.fpart).all (fun q => (s2.translated stale q.1 q.2).isEmpty) = true →
        ∃ t, exec (.tlbinv a b) s = .next t ∧ t.fctx.pc = s.fctx.pc + 4 ∧ t.mem = s.mem
          ∧ (∀ c e, e ∈ (t.core c).dtlb ∨ e ∈ t.clusterTlb c → e.1 = pid → ¬ all ∧ e.2.1 ≠ vpn va e.2.2.2)
          ∧ (all → ∀ c e, e ∈ mapGet [] t.walkCache (clusterOf c) → e.1 ≠ pid))
  ∧ (∀ (d a b : Reg) (s s1 s2 : State) (va dst : Word), s.Clear → s.fpart.enabled .pgm = true → s.fctx.prv = true →
      Reads s a va s1 → Reads s1 b dst s2 → va.extractLsb' 55 9 = 0 → s.fctx.groupReply = none →
      let gives (r : State) (n : Word) : Prop := exec (.pgmove d a b) s = .next (r.done 4 fun c => c.result d n)
      (∀ l m, s.walk s.fpart va = .bad l m → gives s2 1)
      ∧ (∀ pte key, s.walk s.fpart va = .leaf pte true key → gives s2 2)
      ∧ (∀ pte key, s.walk s.fpart va = .leaf pte false key →
        let frame : Nat := (dst.extractLsb' 16 32).toNat * 65536
        let bad : Prop := dst.extractLsb' 60 4 ≠ 0 ∨ dst.extractLsb' 0 16 ≠ 0 ∨ rangeOk frame 65536 = false
          ∨ (dst.extractLsb' 48 12).toNat = pteModule pte ∧ frame = pteFrame pte
        (pteM pte = true → gives s2 3) ∧ (pteM pte = false → bad → gives s2 4)
        ∧ (pteM pte = false → ¬ bad → pteModule pte = s.module →
          let port : Nat := portOf (pteFrame pte)
          (freeMove (s.port port).moves = none → gives s2 5)
          ∧ (∀ slot, freeMove (s.port port).moves = some slot → s.steady key = true → ∃ t, exec (.pgmove d a b) s = .next t
            ∧ t.fctx = (s2.fctx.result d 0).past 4 ∧ t.mem = memWrite s.mem (s.settle key) 8 (pte ||| 0x40).toNat
            ∧ (∃ m, (t.port port).moves = (s.port port).moves ++ [(slot, m)] ∧ m.src = pteFrame pte ∧ m.dst = frame
              ∧ m.dstModule = (dst.extractLsb' 48 12).toNat ∧ m.copied = 0)
            ∧ t.flights = s2.flights ++ [⟨portPlace port, portPlace port, 3, .pageLineCopy port slot, [], false⟩]))
        ∧ (pteM pte = false → ¬ bad → pteModule pte ≠ s.module → ∃ t x q i, exec (.pgmove d a b) s = .next t
          ∧ t.fctx = { s.fctx with mode := .waiting, req := some (.group i) } ∧ t.mem = s.mem ∧ t.fabOut = s.fabOut ++ [x]
          ∧ x.2.dst = pteModule pte ∧ x.2.cargo = .moveReq q ∧ q.src = pteFrame pte ∧ q.dst = frame
          ∧ q.dstModule = (dst.extractLsb' 48 12).toNat ∧ q.pteKey = key ∧ q.pteValue = pte ||| 0x40
          ∧ q.who = ⟨s.module, s.focusCore, s.focusCtx, i⟩)))

/-- Umber answers bad commands with status 1, RESYNC with its summary, and reads counters and snapshots.
R457: a command with a reserved bit of word 0 set, and an unknown OP, are answered with status 1 and change nothing; no
command is answered before Umber runs.
R459: RESYNC answers the last EVSEQ, the wall time, the partitions that exist and are confidential, the rails that are
derated, the fabric ports and the count of machine checks, and changes nothing.
R460 and R461: CTRSEL gives an octet's counters their sources and clears them, refusing an octet that does not exist and a
reserved source; CTRREAD answers them, as zeros with flag bit 0 for a confidential partition.
R462: a trigger at least 1 wall µs away is armed when none is pending; when wall reaches it the counters, rails and fabric
ports are latched, as they stood before events of that time where the passing of time has taken them, and SNAPREAD answers
what was latched.
Where the words of a command and an answer stand is the model's choice (log entry 13). -/
def Obligations.UmberAnswersCommandsAndCounts : Prop :=
  (∀ (k : Command) (s : State) (op : BitVec 8) (i : Instr),
      (op, i) ∈ [((0x01 : BitVec 8), Instr.resync k), (0x02, .ctrsel k), (0x03, .ctrread k), (0x04, .snaparm k),
        (0x05, .snapread k), (0x10, .pcreate k), (0x11, .pdestroy k), (0x12, .preempt k), (0x13, .resume k),
        (0x14, .brkhalt k), (0x20, .attest k), (0x21, .idkey k)] →
      (s.boot = .running → exec (.unknownOp k) s = .next (s.tells (answer k 1 0 []))
        ∧ (¬ asksOp op k → exec i s = .next (s.tells (answer k 1 0 []))))
      ∧ (s.boot ≠ .running → exec (.unknownOp k) s = .next s ∧ exec i s = .next s))
  ∧ (∀ (k : Command) (s : State), s.boot = .running → asksOp 0x01 k →
      ∃ l, exec (.resync k) s = .next (s.tells (answer k 0 0 l)) ∧ l.length = 7
        ∧ l.getD 0 0 = BitVec.ofNat 64 (s.evseq - 1) ∧ l.getD 1 0 = BitVec.ofNat 64 s.wallNs
        ∧ (∀ p, p < 64 → (l.getD 2 0).getLsbD p = (s.part p).isSome
          ∧ (l.getD 3 0).getLsbD p = match s.part p with | some q => q.conf | none => false)
        ∧ (∀ r, r < 16 → (l.getD 4 0).getLsbD r = (s.rail r).derate)
        ∧ (∀ p, p < 8 → (l.getD 5 0).extractLsb' (8 * p) 8 = (s.fabPort p).lanes ++ (0 : BitVec 2) ++ (s.fabPort p).mode)
        ∧ l.getD 6 0 = BitVec.ofNat 64 s.mchecks)
  ∧ (∀ (k : Command) (s : State), s.boot = .running →
      let o : Nat := (k.words.getD 1 0).toNat
      let source (i : Nat) : BitVec 8 := (k.words.getD (2 + i / 4) 0).extractLsb' (8 * (i % 4)) 8
      (asksOp 0x02 k →
        (1536 ≤ o → exec (.ctrsel k) s = .next (s.tells (answer k 4 0 [])))
        ∧ (o < 1536 → (∃ i, i < 8 ∧ 11 < (source i).toNat) → exec (.ctrsel k) s = .next (s.tells (answer k 1 0 [])))
        ∧ (o < 1536 → (∀ i, i < 8 → (source i).toNat ≤ 11) → ∃ t, exec (.ctrsel k) s = .next t ∧ t.mem = s.mem
          ∧ t.hostOut = s.hostOut ++ [answer k 0 0 []] ∧ (t.octet o).overflow = 0
          ∧ (∀ i : Fin 8, (t.octet o).sources[i] = source i.val ∧ (t.octet o).counters[i] = 0)))
      ∧ (asksOp 0x03 k →
        (1536 ≤ o → exec (.ctrread k) s = .next (s.tells (answer k 4 0 [])))
        ∧ (o < 1536 → s.octetConf o = true → exec (.ctrread k) s = .next (s.tells (answer k 0 1 [])))
        ∧ (o < 1536 → s.octetConf o = false →
          exec (.ctrread k) s = .next (s.tells (answer k 0 0 (counterWords (s.octet o).counters (s.octet o).overflow))))))
  ∧ (∀ (k : Command) (s : State), s.boot = .running →
      let w : Word := k.words.getD 1 0
      let soon : Prop := s.snapAt ≠ none ∨ w.toNat * 1600000 < s.wallUnits + 1600000000
      (asksOp 0x04 k → (soon → exec (.snaparm k) s = .next (s.tells (answer k 2 0 [])))
        ∧ (¬ soon → ∃ t, exec (.snaparm k) s = .next t ∧ t.snapAt = some w.toNat ∧ t.hostOut = s.hostOut ++ [answer k 0 0 []]
          ∧ (w.toNat * 1600000, Event.snapshotLatch) ∈ t.timers))
      ∧ (∀ n x, s.snapAt = some n → n * 1600000 ≤ s.wallUnits → s.snapTaken = some x → ∃ t, exec .snapshotLatch s = .next t
        ∧ t.snapAt = none ∧ t.snapTaken = none ∧ t.snapshot = some x)
      ∧ (∀ n, s.snapAt = some n → n * 1600000 ≤ s.wallUnits → s.snapTaken = none → ∃ t x, exec .snapshotLatch s = .next t
        ∧ t.snapAt = none ∧ t.snapshot = some x ∧ x.rails = s.rails.toList ∧ x.ports = s.fabPorts.toList
        ∧ ∀ o, mapFind x.octets o = (mapFind s.octets o).map fun y => (y.counters, y.overflow))
      ∧ (s.snapAt = none → exec .snapshotLatch s = .next s)
      ∧ (asksOp 0x05 k → (s.snapshot = none → exec (.snapread k) s = .next (s.tells (answer k 4 0 [])))
        ∧ ∀ x n, s.snapshot = some x →
          (w = BitVec.ofNat 64 n → n < 1536 → s.octetConf n = false → exec (.snapread k) s = .next (s.tells (answer k 0 0
            (counterWords (mapGet (Vector.replicate 8 0, 0) x.octets n).1 (mapGet (Vector.replicate 8 0, 0) x.octets n).2))))
          ∧ (∀ r, w = BitVec.ofNat 64 (65536 + n) → n < 16 → x.rails[n]? = some r →
            exec (.snapread k) s = .next (s.tells (answer k 0 0 [r.word])))
          ∧ (∀ r, w = BitVec.ofNat 64 (131072 + n) → n < 8 → x.ports[n]? = some r →
            exec (.snapread k) s = .next (s.tells (answer k 0 0 [r.word])))
          ∧ (w = BitVec.ofNat 64 196608 → exec (.snapread k) s = .next (s.tells (answer k 0 0 x.summary)))))

/-- Umber makes, destroys, stops, resumes and attests partitions.
R457 and R458: PCREATE makes a partition of the rectangle, key, confidentiality and supervisor core asked for, its cores
and their memory empty, unless its number or its octets are in use; PDESTROY removes it; each is reported.
R418, R419, R421 and R463: PREEMPT starts the pre-emption of a running partition that has a save area; RESUME restores a
saved one whose rectangle is free and whose features are enabled, and answers FEATURES otherwise; BRKHALT sets
halt-on-BREAK, and is refused for a confidential partition.
R454 and R455: ATTEST answers with a signed report of 3,748 bytes of the partition under a new key, IDKEY with the
identity key; a ciphertext of 1,088 bytes for the latest report's key starts a session with the two keys stated.
PDESTROY drops the host's accesses to the partition and answers each with the offset it had reached, which is the model's
choice (log entries 30 and 34).
Where the words of a command and an event stand is the model's choice (log entry 13); the cryptography is that of log
entry 7. -/
def Obligations.UmberManagesPartitionsAndSessions : Prop :=
  (∀ (k : Command) (s : State), s.boot = .running →
      (asksOp 0x10 k →
        let w : Word := k.words.getD 1 0
        let v : Word := k.words.getD 2 0
        let pid : Nat := (w.extractLsb' 32 6).toNat
        let p : Partition := { Partition.reset with
          ox0 := (w.extractLsb' 0 6).toNat, oy0 := (w.extractLsb' 8 5).toNat, wm1 := (w.extractLsb' 16 6).toNat
          hm1 := (w.extractLsb' 24 5).toNat, key := w.extractLsb' 48 16, conf := (k.words.getD 3 0).getLsbD 0
          svCore := v.extractLsb' 0 14, svEn := v.getLsbD 31 }
        let bad : Prop := s.part pid ≠ none ∨ 47 < p.ox0 + p.wm1 ∨ 31 < p.oy0 + p.hm1 ∨ p.hasCore p.svCore.toNat = false
          ∨ ∃ q ∈ s.parts, q.2.stage ≠ .saved ∧ q.2.overlaps p = true
        (bad → exec (.pcreate k) s = .next (s.tells (answer k 4 0 [])))
        ∧ (¬ bad → ∃ t q, exec (.pcreate k) s = .next t ∧ t.part pid = some q ∧ { q with measG := 0 } = p
          ∧ (∀ c, p.hasCore c = true → t.core c = Core.reset ∧ ∀ o, o < 65536 → t.byte (localKey c o) = 0)
          ∧ t.hostOut = s.hostOut ++ [answer k 0 0 [], .event s.evseq [6, 0x10, BitVec.ofNat 64 pid]]))
      ∧ (asksOp 0x11 k →
        let pid : Nat := (k.words.getD 1 0).toNat
        (s.part pid = none → exec (.pdestroy k) s = .next (s.tells (answer k 4 0 [])))
        ∧ (∀ p, s.part pid = some p → ∃ t, exec (.pdestroy k) s = .next t ∧ t.part pid = none
          ∧ answer k 0 0 [] ∈ t.hostOut ∧ .event s.evseq [6, 0x11, BitVec.ofNat 64 pid] ∈ t.hostOut
          ∧ (∀ a ∈ t.rmas, a ∈ s.rmas ∧ a.pid ≠ pid) ∧ (∀ a ∈ s.rmas, a.pid = pid → .rmaDone pid (some a.off) [] ∈ t.hostOut)
          ∧ (p.stage ≠ .saved → ∀ c, p.hasCore c = true → t.core c = Core.reset))))
  ∧ (∀ (k : Command) (s : State), s.boot = .running →
      let pid : Nat := (k.words.getD 1 0).toNat
      let refuses (i : Instr) (n : Nat) : Prop := exec i s = .next (s.tells (answer k n 0 []))
      (s.part pid = none → (asksOp 0x12 k → refuses (.preempt k) 4) ∧ (asksOp 0x13 k → refuses (.resume k) 4)
        ∧ (asksOp 0x14 k → refuses (.brkhalt k) 4))
      ∧ ∀ p, s.part pid = some p →
        (asksOp 0x12 k → (p.stage ≠ .running ∨ p.psave = 0 → refuses (.preempt k) 4)
          ∧ (p.stage = .running → p.psave ≠ 0 → ∃ t, exec (.preempt k) s = .next t ∧ t.mem = s.mem ∧ t.cores = s.cores
            ∧ t.part pid = some { p with stage := .preempting 1 } ∧ t.hostOut = s.hostOut ++ [answer k 0 0 []]))
        ∧ (asksOp 0x13 k → (p.saved = none → refuses (.resume k) 4)
          ∧ ∀ z, p.saved = some z → (s.rectFree p = false → refuses (.resume k) 4)
            ∧ (s.rectFree p = true → featuresMissing p z = true → refuses (.resume k) 5)
            ∧ (s.rectFree p = true → featuresMissing p z = false → ∃ t q, exec (.resume k) s = .next t ∧ t.part pid = some q
              ∧ q.stage = .running ∧ q.saved = none ∧ answer k 0 0 [] ∈ t.hostOut))
        ∧ (asksOp 0x14 k → let on : Bool := (k.words.getD 2 0).getLsbD 0
          (p.conf = true → on = true → refuses (.brkhalt k) 3)
          ∧ (p.conf = false ∨ on = false → ∃ t, exec (.brkhalt k) s = .next t ∧ t.part pid = some { p with brkHalt := on }
            ∧ t.mem = s.mem ∧ t.hostOut = s.hostOut ++ [answer k 0 0 []])))
  ∧ (∀ (k : Command) (s : State), s.boot = .running →
      (asksOp 0x21 k → exec (.idkey k) s = .next ((s.tells (answer k 0 0 [])).tells (.report Config.identityKey)))
      ∧ (asksOp 0x20 k → let pid : Nat := (k.words.getD 1 0).toNat
        (s.part pid = none → exec (.attest k) s = .next (s.tells (answer k 4 0 [])))
        ∧ ∀ p, s.part pid = some p → ∃ t body, exec (.attest k) s = .next t ∧ t.reports = s.reports + 1
          ∧ t.hostOut = s.hostOut ++ [answer k 0 0 [], .report (body ++ (Config.mldsaSign body).toList)]
          ∧ body.length + (Config.mldsaSign body).toList.length = 3748
          ∧ body.take 4 = [1, 0, 0, 0] ∧ (body.drop 16).take 32 = (List.range 32).map (fun i =>
            (k.words.getD (2 + i / 8) 0).extractLsb' (8 * (i % 8)) 8) ∧ body.drop 144 = (Config.mlkemKey s.reports).toList
          ∧ t.part pid = some { p with report := some (s.reports, Config.sha3 (body ++ (Config.mldsaSign body).toList)) })
      ∧ (∀ pid p n h ct, s.part pid = some p → p.report = some (n, h) →
        (ct.length ≠ 1088 → exec (.sessionStart pid ct) s = .next s)
        ∧ (ct.length = 1088 → ∃ t ss hs, exec (.sessionStart pid ct) s = .next t ∧ ss = hashBytes (Config.mlkemSecret n ct)
          ∧ hs = hashBytes h ∧ t.mem = s.mem
          ∧ t.part pid = some { p with session := some (Config.sha3 (ss ++ hs ++ [1]), Config.sha3 (ss ++ hs ++ [2])) })))

/-- Host commands pass checked messages; RMA accesses are checked and performed.
R446 to R449 and R452: a host command by an operation that the device lacks, to a partition that does not accept it, or
outside the session of a confidential one, or with no message that passes its checks, completes with an error; a message
that passes enters with the proxy core as sender and the endpoint's own SEQ.
R455: an operation whose packets fail authentication under the session of a confidential partition is discarded and counted.
R300, R450 and R451: an RMA access whose key, window or range fails its check is answered with an error, and nothing is
accessed; any other performs its words in ascending order, each as a load or store at its home, on whatever module that
lies, and completes when the last is performed; a word that has no place, or is poisoned, ends it with its offset.
That a poisoned word ends a read, and a window whose entry is poisoned fails its check, is the model's reading
(log entry 34). -/
def Obligations.TheHostSendsAndAccessesMemory : Prop :=
  (∀ (pid : Nat) (via : HostVia) (s : State), let eth : Nat := via.eth % 4
      (∀ l, s.part pid = none → exec (.hostCommand pid via l) s = .next (s.tells (.sendDone pid (some 0))))
      ∧ ∀ p, s.part pid = some p →
        (p.discards via = true → ∀ l, exec (.hostCommand pid via l) s
          = .next (s.modPart pid fun p => { p with authFails := p.authFails + 1 }))
        ∧ (p.discards via = true ↔ p.conf = true ∧ via.session = true ∧ p.session ≠ none ∧ via.authOk = false)
        ∧ (p.discards via = false →
        let open' : Prop := via.supported = true ∧ p.hostEn = true ∧ (p.conf = true → via.session = true ∧ p.session ≠ none)
        (∀ l, ¬ open' ∨ l = [] ∨ 64 < l.length → exec (.hostCommand pid via l) s = .next (s.tells (.sendDone pid (some 0))))
        ∧ (∀ m l, open' → l.length < 64 → rawOk s.module p m = false → ∃ t, exec (.hostCommand pid via (m :: l)) s = .next t
          ∧ t.hostOut = s.hostOut ++ [.sendDone pid (some 0)] ∧ t.flights = s.flights)
        ∧ (∀ m, open' → rawOk s.module p m = true → rawKind m = 0 → p.nextEp eth < 2 ^ 24 → p.epQ = [] →
          ∃ t q n f, exec (.hostCommand pid via [m]) s = .next t ∧ t.part pid = some q
          ∧ q.sends = p.sends ++ [⟨eth, [p.nextEp eth], none⟩] ∧ q.lastEth = eth
          ∧ t.flights = s.flights ++ [f] ∧ eventMessage f.ev = some n ∧ n.dest = rawDest m ∧ n.seq = p.nextEp eth
          ∧ n.side.endpoint = eth + 1 ∧ senderOf n = p.hostCore.toNat ∧ n.payload = (List.range 6).map fun i => rawWord m (2 + i))))
  ∧ (∀ (s : State),
      (∀ (pid off : Nat) (via : HostVia) (key : Word),
        let ends (i : Instr) (err : Option Nat) : Prop := ∃ t, exec i s = .next t ∧ t.mem = s.mem ∧ t.rmas = s.rmas
          ∧ t.flights = s.flights ∧ t.fabOut = s.fabOut ∧ t.hostOut = s.hostOut ++ [.rmaDone pid err []]
        let asks (i : Instr) (write : Bool) (l : List Word) (base m k : Nat) (op : Nat → Event) (c : Nat → Cargo) : Prop :=
          ∃ t id, exec i s = .next t ∧ t.mem = s.mem ∧ t.hostOut = s.hostOut
            ∧ t.rmas = s.rmas ++ [⟨id, pid, write, base, off, l, []⟩]
            ∧ (m = s.module → t.flights = s.flights ++ [⟨outside, homePlace k, 0, op id, [], false⟩])
            ∧ (m ≠ s.module → t.flights = s.flights ∧ ∃ x, t.fabOut = s.fabOut ++ [x] ∧ x.2.dst = m ∧ x.2.cargo = c id)
        (∀ p, s.part pid = some p → p.discards via = true → ∀ l n, let t := s.modPart pid fun p => { p with authFails := p.authFails + 1 }
          exec (.rmaWrite pid ⟨via, key⟩ off l) s = .next t ∧ exec (.rmaRead pid ⟨via, key⟩ off n) s = .next t)
        ∧ ((∀ p, s.part pid = some p → p.discards via = false) →
        (∀ l, s.rmaWindow pid via key off (8 * l.length) true = none → ends (.rmaWrite pid ⟨via, key⟩ off l) (some off))
        ∧ (∀ n, s.rmaWindow pid via key off (8 * n) false = none → ends (.rmaRead pid ⟨via, key⟩ off n) (some off))
        ∧ ∀ p base, s.part pid = some p →
          (∀ v l, s.rmaWindow pid via key off (8 * (l.length + 1)) true = some base →
            let i : Instr := .rmaWrite pid ⟨via, key⟩ off (v :: l)
            (s.rmaPlace p (base + off) .write = none → ends i (some off))
            ∧ ∀ m k, s.rmaPlace p (base + off) .write = some (m, k) →
              let put (id : Nat) : StoreReq :=
                ⟨.ctx ⟨s.module, outside, 32, id⟩, outside, pid, 0, m, .bytes k 8 v, false, 0, p.key⟩
              asks i true (v :: l) base m k (fun id => .remoteStore (put id)) fun id => .store (put id))
          ∧ (∀ n, s.rmaWindow pid via key off (8 * (n + 1)) false = some base →
            let i : Instr := .rmaRead pid ⟨via, key⟩ off (n + 1)
            (s.rmaPlace p (base + off) .read = none → ends i (some off))
            ∧ ∀ m k, s.rmaPlace p (base + off) .read = some (m, k) →
              let load (id : Nat) : LoadReq := ⟨⟨s.module, outside, 32, id⟩, pid, m, k, 8, p.key⟩
              asks i false (List.replicate (n + 1) 0) base m k (fun id => .remoteLoad (load id)) fun id => .load (load id))))
      ∧ (∀ (m k id : Nat) (a : Rma), s.rmas.find? (fun x => x.id == id) = some a →
        let done (i : Instr) (err : Option Nat) (l : List Word) : Prop := ∃ t, exec i s = .next t ∧ t.mem = s.mem
          ∧ t.hostOut = s.hostOut ++ [.rmaDone a.pid err l] ∧ ∀ x ∈ t.rmas, x.id ≠ id
        (∀ v w, a.write = false → a.left = [w] →
          done (.loadReply ⟨⟨m, outside, k, id⟩, .value v⟩) none (a.got ++ [v]))
        ∧ (a.write = false → done (.loadReply ⟨⟨m, outside, k, id⟩, .poisoned⟩) (some a.off) a.got)
        ∧ (∀ w, a.write = true → a.left = [w] → done (.storeAcknowledgement outside id) none a.got)
        ∧ (∀ p v w w' l d, s.part a.pid = some p → a.write = false → a.left = w :: w' :: l →
          s.rmaPlace p (a.base + (a.off + 8)) .read = some d → ∃ t i, exec (.loadReply ⟨⟨m, outside, k, id⟩, .value v⟩) s = .next t
            ∧ t.hostOut = s.hostOut ∧ t.rmas = s.rmas.filter (fun x => x.id != id)
              ++ [{ a with id := i, off := a.off + 8, left := w' :: l, got := a.got ++ [v] }])))

/-- Packets are accepted in sequence and retransmitted; links retry, degrade, train and renew their keys.
R436 and R442: a packet in sequence is passed into the mesh, counted and acknowledged; a duplicate is acknowledged again
and a packet ahead of its turn discarded; a source forgets what is acknowledged.
R437 and R442: 10 wall µs after its last transmission the oldest unacknowledged packet and all after it are sent again, in
order, by the port of the module's route; after 16 transmissions they are dropped, with a machine check and an event that
names the module.
R439 to R441, R443 and R456: a flit that fails is retried and counted, a stomped one discarded and counted, a good one
gives its packets in order; a port trains at 8 lanes of PAM4, degrades to NRZ, to 4 lanes and then down, its routes moved
to a port that is up, and each change is an event of a running Umber; keys are new at training and after 2^32 flits.
The model's choices: the words of the events (log entry 13); that the routes go to the lowest port that is up, and that a
flit which comes when its keys are used up is retried (log entry 8). -/
def Obligations.FabricPacketsAndLinks : Prop :=
  (∀ (p : Packet) (s : State),
      let q : Pair := findPair p.src p.vn s.fabric
      let e : Instr := .fabricMessageReceive p
      (p.dst ≠ s.module → exec e s = .next s)
      ∧ (p.dst = s.module → p.num < 2 ^ 32 → q.expect < 2 ^ 32 →
        (∀ r, p.cargo = .load r → p.num = q.expect → ∃ t, exec e s = .next t
          ∧ t.flights = s.flights ++ [⟨fabPlace p.src, homePlace r.key, 0, .remoteLoad { r with pid := 64 }, [], false⟩]
          ∧ (findPair p.src p.vn t.fabric).expect = (p.num + 1) % 2 ^ 32 ∧ t.fabAcks = s.fabAcks ++ [(p.src, p.vn, p.num)])
        ∧ (p.num ≠ q.expect → (q.expect + 2 ^ 32 - p.num) % 2 ^ 32 ≤ 2 ^ 31 →
          exec e s = .next { s with fabAcks := s.fabAcks ++ [(p.src, p.vn, p.num)] })
        ∧ (2 ^ 31 < (q.expect + 2 ^ 32 - p.num) % 2 ^ 32 → exec e s = .next s))
      ∧ (∀ m vn n, ∃ t, exec (.fabricAcknowledgement m vn n) s = .next t ∧ t.mem = s.mem
        ∧ (findPair m vn t.fabric).unacked = (findPair m vn s.fabric).unacked.filter fun u => u.packet.num != n))
  ∧ (∀ (m vn : Nat) (s : State) (u : Unacked) (l : List Unacked), (findPair m vn s.fabric).unacked = u :: l →
      let e : Instr := .fabricRetransmit m vn
      let due : Nat := u.last + 10000 * 1600000
      (s.wallUnits < due → exec e s = .next (s.arm due (.fabricRetransmit m vn)))
      ∧ (due ≤ s.wallUnits → u.tries < 16 → ∃ t, exec e s = .next t ∧ t.mem = s.mem
        ∧ t.fabOut = s.fabOut ++ (u :: l).map (fun x => (s.routeOf m, x.packet))
        ∧ (findPair m vn t.fabric).unacked = (u :: l).map fun x => { x with last := s.wallUnits, tries := x.tries + 1 })
      ∧ (due ≤ s.wallUnits → 16 ≤ u.tries → (∀ x ∈ u :: l, ∀ c n, x.packet.cargo ≠ .msg c n) → ∃ t, exec e s = .next t
        ∧ (findPair m vn t.fabric).unacked = [] ∧ t.mchecks = s.mchecks + 1
        ∧ (s.boot = .running → HostOut.event (s.evseq + 1) [3, BitVec.ofNat 64 m, BitVec.ofNat 64 vn] ∈ t.hostOut)))
  ∧ (∀ (port peer : Nat) (f : Flit) (s : State), port < 8 →
      let p : FabPort := s.fabPort port
      let becomes (i : Instr) (q : FabPort) : Prop := ∃ t, exec i s = .next t ∧ t.fabPort port = q ∧ t.mem = s.mem
      let changes (i : Instr) (q : FabPort) : Prop := becomes i q
        ∧ ∃ t, exec i s = .next t ∧ (s.boot = .running → t.hostOut = s.hostOut ++ [.event s.evseq [2, BitVec.ofNat 64 port, q.mode.setWidth 64,
          q.lanes.setWidth 64]]) ∧ (s.boot ≠ .running → t.hostOut = s.hostOut)
      let spent : Prop := 2 ^ 32 ≤ p.flits
      (p.mode = 0 → exec (.prosanFlitReceive port f) s = .next s ∧ exec (.linkDegrade port) s = .next s
        ∧ exec (.linkKeyRenewal port) s = .next s)
      ∧ changes (.linkTraining port peer) { p with mode := 2, lanes := 8, peer := BitVec.ofNat 12 peer, keys := p.keys + 1, flits := 0 }
      ∧ (p.mode ≠ 0 →
        (spent → becomes (.linkKeyRenewal port) { p with keys := p.keys + 1, flits := 0 })
        ∧ (¬ spent → exec (.linkKeyRenewal port) s = .next s)
        ∧ (p.mode = 2 → changes (.linkDegrade port) { p with mode := 1 })
        ∧ (p.mode ≠ 2 → p.lanes = 8 → changes (.linkDegrade port) { p with lanes := 4 })
        ∧ (p.mode ≠ 2 → p.lanes ≠ 8 → changes (.linkDegrade port) { p with mode := 0, lanes := 0, peer := 0 })
        ∧ (p.mode ≠ 2 → p.lanes ≠ 8 → (∃ i, i < 8 ∧ i ≠ port ∧ (s.fabPort i).mode ≠ 0) →
          ∃ t i, exec (.linkDegrade port) s = .next t ∧ i < 8 ∧ i ≠ port ∧ (s.fabPort i).mode ≠ 0
            ∧ (∀ j, j < i → j ≠ port → (s.fabPort j).mode = 0)
            ∧ ∀ m, m < 4096 → t.routeOf m = if s.routeOf m = port then i else s.routeOf m)
        ∧ (f.correctable = false ∨ f.crcOk = false ∨ f.authOk = false ∨ spent → becomes (.prosanFlitReceive port f)
          { p with retry := BitVec.ofNat 16 (Nat.min 0xFFFF (p.retry.toNat + 1)) })
        ∧ (f.correctable = true → f.crcOk = true → f.authOk = true → ¬ spent →
          (f.stomped = true → becomes (.prosanFlitReceive port f)
            { p with flits := p.flits + 1, stomp := BitVec.ofNat 16 (Nat.min 0xFFFF (p.stomp.toNat + f.packets.length)) })
          ∧ (f.stomped = false → f.packets = [] → becomes (.prosanFlitReceive port f) { p with flits := p.flits + 1 })
          ∧ (∀ (u : State) (l : List Packet) (a : Packet), f.stomped = false → f.packets = l ++ [a] →
            exec (.prosanFlitReceive port { f with packets := l }) s = .next u →
            exec (.prosanFlitReceive port f) s = exec (.fabricMessageReceive a) u))))

/-- Cold boot runs the first image that verifies and is not rolled back, and else reports its failure.
R357, R358, R458 and R464: of the images that ports 0 to 3 fetch, the first that verifies and is not rolled back is run,
whatever stands before and after it: its hash is F, the cycles start from 0, wall is set, Umber starts, and no partition,
memory or event is left; with none the device halts, and sends a frame each second. A halted device reports no event.
That a cold boot leaves no byte of device memory listed is the model's choice (log entry 3). -/
def Obligations.ColdBootRunsAVerifiedImage : Prop :=
  ∀ (ns v : Nat) (b : List Byte) (l rest : List (Option (Nat × List Byte))) (s : State),
    let good : Option (Nat × List Byte) → Prop := fun x => ∃ w c, x = some (w, c) ∧ Config.rollback ≤ w ∧ Config.mldsaVerify c = true
    (l.length < 4 → (∀ x ∈ l, ¬ good x) → good (some (v, b)) → ∃ t, exec (.coldBoot ns (l ++ some (v, b) :: rest)) s = .next t
      ∧ t.boot = .running ∧ t.measF = Config.sha3 b ∧ t.wallNs = ns ∧ t.now = 0 ∧ t.parts = [] ∧ t.mem = [] ∧ t.evseq = 1 ∧ t.mchecks = 0)
    ∧ ((∀ x ∈ rest.take 4, ¬ good x) →
      ∃ t, exec (.coldBoot ns rest) s = .next t ∧ t.boot = .failed ∧ t.parts = []
        ∧ (ns * 1600000 + 1000000000 * 1600000, Event.bootFailureFrame) ∈ t.timers)
    ∧ (∃ t, exec (.coldBoot ns []) s = .next t ∧ t.boot = .failed)
    ∧ (s.boot = .failed → exec .bootFailureFrame s
      = .next ((s.tells .bootFailure).arm (s.wallUnits + 1000000000 * 1600000) .bootFailureFrame))
    ∧ (s.boot ≠ .failed → exec .bootFailureFrame s = .next s)
    ∧ (∀ port peer, s.boot ≠ .running → ∃ t, exec (.linkTraining port peer) s = .next t ∧ t.hostOut = s.hostOut ∧ t.evseq = s.evseq)

/-- After reset the device is empty and every control register reads its table's reset value.
R428, R441, R457 and R458: after reset no partition exists, EVSEQ is 1, every rail has 8 phases, CAP 7 and LIMIT 800 and
no flag, and every fabric port reads down. The memory has its canonical form.
R31, R69, R159, R249, R271, R280, R317, R321, R327, R342 to R344, R357, R366, R384, R389, R403, R407, R410, R414, R426, R432,
R435, R447 and R450: every control register whose table gives a reset value, read for a partition just made on a core just
reset from a context just started, holds that value; 0x032 reads zero while no window has ended. The identities (R310) and
wall (R358) have no reset value and are not listed; svloc and hostep are as the partition was made. -/
def Obligations.ResetLeavesEveryRegisterAsStated : Prop :=
  (Memory.wf State.reset.mem = true ∧ State.reset.evseq = 1 ∧ (∀ p, State.reset.part p = none)
    ∧ (∀ r, r < 16 → (State.reset.rail r).word = 0x07080320) ∧ ∀ p, p < 8 → (State.reset.fabPort p).word = 0)
  ∧ (∀ (p : Partition) (n : Nat) (v : Word), (∃ w k c e x y q, p = { Partition.reset with
        ox0 := x, oy0 := y, wm1 := w, hm1 := q, key := k, svCore := c, svEn := e }) →
      let context : List (Nat × Word) := [(0x000, 0), (0x001, 0), (0x002, 0), (0x003, 0), (0x004, 0), (0x010, 0), (0x020, 0),
        (0x021, 0), (0x022, 0), (0x033, 0), (0x050, 0), (0x051, 0), (0x052, 0), (0x080, 0), (0x081, 0), (0x082, 0)]
      let core : List (Nat × Word) := [(0x023, 1), (0x024, 0), (0x030, 0), (0x032, 0), (0x043, 0x7FF), (0x060, 0x0000001400000002),
        (0x061, 0), (0x062, 0x0400DFF0), (0x070, 0x0001000080003200)]
        ++ [0x071, 0x072, 0x073, 0x074, 0x075, 0x076, 0x077, 0x078, 0x079, 0x07A, 0x07B, 0x07C].map fun m => (m, 0)
      let part : List (Nat × Word) := [(0xC10, 0x7FF), (0xC20, 0), (0xC30, 0), (0xC40, 0), (0xC50, 0x0001000080003200),
        (0xC60, 0), (0xC61, 0), (0xC62, 100), (0xC63, 0x400), (0xC70, 0), (0xC71, 0), (0xC72, 0), (0xC73, 0), (0xC75, 0),
        (0xC80, 0x3333), (0xC81, 0), (0xC92, 0), (0xCC0, 0), (0xCC1, 0)]
      ((n, v) ∈ context → Ctx.reset.ctl n = some v)
      ∧ ((n, v) ∈ core → ∀ c, State.reset.coreCtl c p n = some v) ∧ ((n, v) ∈ part → p.ctl n = some v)
      ∧ p.ctl 0xC74 = some (BitVec.ofNat 64 (p.svEn.toNat * 2 ^ 31 + p.svCore.toNat)))

/-- x0 discards writes, memory is little-endian, the highest priority issues, fetch reads the code store.
R25: x0 reads zero and a write to it is discarded; any other register holds what is written to it, and no other register
changes.
R7: a value of n bytes is stored with its least significant byte at the lowest address, reads back as it was, and no other
byte changes.
R205 and R248: a core issues from a ready context of the highest priority that any of its ready contexts has, less those
whose next instruction its vector unit does not accept, and from none when none is left; a vector unit accepts one
instruction in a cycle.
R267: on a core that may not issue, a vector load that has read some of its words is the one that goes on.
R22 and R23: the bytes at pc are read as the code store holds them: a halfword with bit 0 clear is a 16-bit instruction,
and otherwise it is the low half of a 32-bit one; an instruction that does not lie in the code store traps ACCESS. -/
def Obligations.RegistersMemoryIssueAndFetch : Prop :=
  (∀ (c : Ctx) (r q : Reg) (v : Word), c.getX 0 = 0 ∧ c.putX 0 v = c ∧ (r ≠ 0 → (c.putX r v).getX r = v)
      ∧ (q ≠ r → (c.putX r v).getX q = c.getX q))
  ∧ (∀ (s : State) (key n v : Nat), Memory.wf s.mem = true →
      (∀ j, j < n → (s.write key n v).byte (key + j) = BitVec.ofNat 8 (v / 256 ^ j))
      ∧ (∀ a, a < key ∨ key + n ≤ a → (s.write key n v).byte a = s.byte a)
      ∧ (s.write key n v).read key n = v % 256 ^ n ∧ Memory.wf (s.write key n v).mem = true)
  ∧ (∀ (s : State) (c : Nat), (∀ j, j < 8 → (s.ctx c j).run.prio < 4) →
      let may (j : Nat) : Prop := (s.ctx c j).canIssue = true ∧ (s.vecNext c j = false ∨ s.quadTakes c = true)
        ∧ (s.coreRuns c = true ∨ (s.ctx c j).vread ≠ [])
      (∀ k, s.choose c = some k → k < 8 ∧ may k ∧ ∀ j, j < 8 → may j → (s.ctx c j).run.prio ≤ (s.ctx c k).run.prio)
      ∧ (s.choose c = none → ∀ j, j < 8 → ¬ may j)
      ∧ (∀ d, octetOf d = octetOf c → quadOf d = quadOf c → s.offers c = true → s.offers d = true → s.quadTakes c = true →
        s.quadTakes d = true → c = d))
  ∧ (∀ (s : State) (c k : Nat), (s.core c).badCode = [] →
      let pc : Nat := (s.ctx c k).pc.toNat
      let lo : BitVec 16 := BitVec.ofNat 16 (s.read (codeKey c pc) 2)
      let w : BitVec 32 := BitVec.ofNat 16 (s.read (codeKey c (pc + 2)) 2) ++ lo
      (16383 ≤ pc → s.fetch c k = .trap 0x05 (s.ctx c k).pc)
      ∧ (pc < 16383 → lo.getLsbD 0 = false → (∀ i, decode16 lo = .ok i → s.fetch c k = .instr i)
        ∧ (∀ e, decode16 lo = .error e → s.fetch c k = .illegal (lo.setWidth 32)))
      ∧ (pc < 16383 → lo.getLsbD 0 = true → 16380 < pc → s.fetch c k = .trap 0x05 (s.ctx c k).pc)
      ∧ (pc ≤ 16380 → lo.getLsbD 0 = true → (∀ i, decode32 w = .ok i → s.fetch c k = .instr i)
        ∧ (∀ e, decode32 w = .error e → s.fetch c k = .illegal w)))

/-- A step runs the instruction that the bytes at the pc decode to.
A step runs the decoded instruction (log entry 1): with nothing due and an issue of core c as the next turn, the chosen
context runs the instruction that the bytes at its pc decode to; what follows is stated by afterIssue and follow. -/
def Obligations.StepsRunTheDecodedInstruction : Prop :=
  ∀ (s : State) (c k : Nat) (rest : List Turn) (i : Instr), s.due = none → s.turns = .issue c :: rest →
    s.coreRuns c = true → (s.core c).lastIssue ≠ some (s.cycle c) → s.choose c = some k →
    let r : State := ({ s with turns := rest, focusCore := c, focusCtx := k } : State).modCtx c k fun x =>
      { x with again := false, mode := if x.mode = .blocked then .ready else x.mode }
    r.takeDeadline c k = none → r.fetch c k = .instr i →
      step s = match exec i r with
        | .next t => .next (afterIssue r c k t).follow
        | .fault f => .fault f
        | .refused x => .refused x

/-- Words written out from the encoding tables decode to the instructions they stand for.
R32 to R34, R37 to R41, R44, R47, R49, R50, R52 to R54: words written out from the encoding tables decode to the
instructions they stand for, and the two illegal words of R24 to none. -/
def Obligations.WordsOfTheTablesDecode : Prop :=
  decode32 0b0000010010_11111_00010_00001_000001_1#32 = .ok (.xnor 1 2 31)
  ∧ decode32 0b111111111111111_00110_00101_000100_1#32 = .ok (.addi 5 6 (-1))
  ∧ decode32 0b111111111110_101_00010_00001_010000_1#32 = .ok (.bgeu 1 2 (-2))
  ∧ decode32 0b111111111100_010_00010_00011_010101_1#32 = .ok (.sw 3 2 (-4))
  ∧ decode32 0b00100_1111111_010_00010_00001_010110_1#32 = .ok (.ldfe 1 2 (-1) 4)
  ∧ decode32 0b11001_00110_00101_00100_00011_011000_1#32 = .ok (.amocas true 3 4 5 6)
  ∧ decode32 0b00000001_10000010_000000000_011010_1#32 = .ok (.fence 1 0x82)
  ∧ decode32 0b10_001_00001_00011_00010_00001_011011_1#32 = .ok (.fsub .h .rtz 1 2 3)
  ∧ decode32 0b01_0_0_000110_00011_00010_00001_011110_1#32 = .ok (.vsll .h 1 2 3)
  ∧ decode32 0b00111_00000_00000_00010_00001_100010_1#32 = .ok (.accst .acc1 1 2)
  ∧ decode32 0b00101_00100_00011_00010_00001_100011_1#32 = .ok (.cpyout .cp1 1 2 3 4)
  ∧ decode32 0b11011_00100_00011_00010_00001_100101_1#32 = .ok (.reduce .max 1 2 3 4)
  ∧ decode32 0b0000_011_000_00010_00001_00000_100111_1#32 = .ok (.cwait .cl 1 2)
  ∧ decode32 0b00000100_11_00011_00010_00001_101000_1#32 = .ok (.rule 1 2 3)
  ∧ decode32 0b010_110001110010_00010_00001_101010_1#32 = .ok (.crs 1 0xC72 2)
  ∧ decode32 0b000000_0110_00011_00010_00001_101011_1#32 = .ok (.pgmove 1 2 3)
  ∧ decode16 0b1_00011_00010_0011_0#16 = .ok (.hAnd 2 3)
  ∧ decode16 0b000111_00101_0110_0#16 = .ok (.hLds 5 7)
  ∧ (∀ i, decode32 0xFFFFFFFF#32 ≠ .ok i) ∧ ∀ i, decode16 0x0000#16 ≠ .ok i

/-- Every well-formed instruction of the encoding decodes to itself, whatever follows its bytes.
R32 to R54: whatever follows its bytes, every well-formed instruction of the encoding decodes to itself, with every
operand at every value that the encoding admits. -/
def Obligations.DecodingUndoesEncoding : Prop :=
  ∀ (i : Instr) (rest : List Byte), i.wf = true → encode i ≠ .none → decode ((encode i).bytes ++ rest) = .ok (i, rest)

/-- Every step keeps the canonical form of the memory.
Every step keeps the canonical form of the memory: keys rising, no byte listed that reads as an unlisted one does.
The canonical form is the model's own representation of the memory (log entry 3). -/
def Obligations.StepsKeepTheMemoryCanonical : Prop :=
  ∀ s t : State, Memory.wf s.mem = true → step s = .next t → Memory.wf t.mem = true
end

