-- ==== Sys2Proof/Laws/Decode.lean ====
section
/-! SUPPORT. Reading the fields of concatenated words, and the first step of decoding an encoded instruction. -/

namespace Sys2Proof

theorem extract_append_high {m n : Nat} (x : BitVec m) (y : BitVec n) (j k : Nat) (h : n ≤ j) :
    (x ++ y).extractLsb' j k = x.extractLsb' (j - n) k := by
  ext i hi
  simp only [BitVec.getElem_extractLsb', BitVec.getLsbD_append]
  have : ¬ j + i < n := by omega
  simp only [this, if_false]
  congr 1; omega

theorem extract_append_low {m n : Nat} (x : BitVec m) (y : BitVec n) (j k : Nat) (h : j + k ≤ n) :
    (x ++ y).extractLsb' j k = y.extractLsb' j k := by
  ext i hi
  simp only [BitVec.getElem_extractLsb', BitVec.getLsbD_append]
  have : j + i < n := by omega
  simp [this]

theorem getLsbD_append_high {m n : Nat} (x : BitVec m) (y : BitVec n) (j : Nat) (h : n ≤ j) :
    (x ++ y).getLsbD j = x.getLsbD (j - n) := by
  have : ¬ j < n := by omega
  simp [BitVec.getLsbD_append, this]

theorem getLsbD_append_low {m n : Nat} (x : BitVec m) (y : BitVec n) (j : Nat) (h : j < n) :
    (x ++ y).getLsbD j = y.getLsbD j := by
  simp [BitVec.getLsbD_append, h]

/-- A 32-bit instruction's bytes are read back as its word. -/
theorem decode_w32 (w : BitVec 32) (rest : List Byte) (h : w.getLsbD 0 = true) :
    decode ((Code.w32 w).bytes ++ rest) = (decode32 w).map (·, rest) := by
  have e : w.extractLsb' 24 8 ++ w.extractLsb' 16 8 ++ w.extractLsb' 8 8 ++ w.extractLsb' 0 8 = w := by
    apply BitVec.eq_of_getLsbD_eq
    intro i hi
    simp only [BitVec.getLsbD_append, BitVec.getLsbD_extractLsb']
    by_cases h1 : i < 8
    · simp [h1]
    · by_cases h2 : i < 16
      · simp [h1, show i - 8 < 8 by omega, show 8 + (i - 8) = i by omega]
      · by_cases h3 : i < 24
        · simp [h1, show ¬ i - 8 < 8 by omega, show i - 8 - 8 < 8 by omega, show 16 + (i - 8 - 8) = i by omega]
        · simp [h1, show ¬ i - 8 < 8 by omega, show ¬ i - 8 - 8 < 8 by omega, show i - 8 - 8 - 8 < 8 by omega,
            show 24 + (i - 8 - 8 - 8) = i by omega]
  have h0 : (w.extractLsb' 0 8).getLsbD 0 = true := by simpa [BitVec.getLsbD_extractLsb'] using h
  simp only [Code.bytes, List.cons_append, List.nil_append, decode, h0, if_true, e]

/-- A 16-bit instruction's bytes are read back as its halfword. -/
theorem decode_w16 (w : BitVec 16) (rest : List Byte) (h : w.getLsbD 0 = false) :
    decode ((Code.w16 w).bytes ++ rest) = (decode16 w).map (·, rest) := by
  have e : w.extractLsb' 8 8 ++ w.extractLsb' 0 8 = w := by
    apply BitVec.eq_of_getLsbD_eq
    intro i hi
    simp only [BitVec.getLsbD_append, BitVec.getLsbD_extractLsb']
    by_cases h1 : i < 8
    · simp [h1]
    · simp [h1, show i - 8 < 8 by omega, show 8 + (i - 8) = i by omega]
  have h0 : (w.extractLsb' 0 8).getLsbD 0 = false := by simpa [BitVec.getLsbD_extractLsb'] using h
  simp only [Code.bytes, List.cons_append, List.nil_append, decode, h0, e]
  rfl

/-! ### Sized: the same, where the simplifier meets the sizes as sums -/

theorem hi_2_3 (x : BitVec 2) (y : BitVec 3) (j k : Nat) (h : 3 ≤ j) :
    (x ++ y).extractLsb' j k = x.extractLsb' (j - 3) k := extract_append_high x y j k h

theorem lo_2_3 (x : BitVec 2) (y : BitVec 3) (j k : Nat) (h : j + k ≤ 3) :
    (x ++ y).extractLsb' j k = y.extractLsb' j k := extract_append_low x y j k h

theorem bh_2_3 (x : BitVec 2) (y : BitVec 3) (j : Nat) (h : 3 ≤ j) :
    (x ++ y).getLsbD j = x.getLsbD (j - 3) := getLsbD_append_high x y j h

theorem bl_2_3 (x : BitVec 2) (y : BitVec 3) (j : Nat) (h : j < 3) :
    (x ++ y).getLsbD j = y.getLsbD j := getLsbD_append_low x y j h

theorem hi_2_3_5 (x : BitVec (2 + 3)) (y : BitVec 5) (j k : Nat) (h : 5 ≤ j) :
    (x ++ y).extractLsb' j k = x.extractLsb' (j - 5) k := extract_append_high x y j k h

theorem lo_2_3_5 (x : BitVec (2 + 3)) (y : BitVec 5) (j k : Nat) (h : j + k ≤ 5) :
    (x ++ y).extractLsb' j k = y.extractLsb' j k := extract_append_low x y j k h

theorem bh_2_3_5 (x : BitVec (2 + 3)) (y : BitVec 5) (j : Nat) (h : 5 ≤ j) :
    (x ++ y).getLsbD j = x.getLsbD (j - 5) := getLsbD_append_high x y j h

theorem bl_2_3_5 (x : BitVec (2 + 3)) (y : BitVec 5) (j : Nat) (h : j < 5) :
    (x ++ y).getLsbD j = y.getLsbD j := getLsbD_append_low x y j h

theorem hi_3_2 (x : BitVec 3) (y : BitVec 2) (j k : Nat) (h : 2 ≤ j) :
    (x ++ y).extractLsb' j k = x.extractLsb' (j - 2) k := extract_append_high x y j k h

theorem lo_3_2 (x : BitVec 3) (y : BitVec 2) (j k : Nat) (h : j + k ≤ 2) :
    (x ++ y).extractLsb' j k = y.extractLsb' j k := extract_append_low x y j k h

theorem bh_3_2 (x : BitVec 3) (y : BitVec 2) (j : Nat) (h : 2 ≤ j) :
    (x ++ y).getLsbD j = x.getLsbD (j - 2) := getLsbD_append_high x y j h

theorem bl_3_2 (x : BitVec 3) (y : BitVec 2) (j : Nat) (h : j < 2) :
    (x ++ y).getLsbD j = y.getLsbD j := getLsbD_append_low x y j h

theorem hi_3_2_2 (x : BitVec (3 + 2)) (y : BitVec 2) (j k : Nat) (h : 2 ≤ j) :
    (x ++ y).extractLsb' j k = x.extractLsb' (j - 2) k := extract_append_high x y j k h

theorem lo_3_2_2 (x : BitVec (3 + 2)) (y : BitVec 2) (j k : Nat) (h : j + k ≤ 2) :
    (x ++ y).extractLsb' j k = y.extractLsb' j k := extract_append_low x y j k h

theorem bh_3_2_2 (x : BitVec (3 + 2)) (y : BitVec 2) (j : Nat) (h : 2 ≤ j) :
    (x ++ y).getLsbD j = x.getLsbD (j - 2) := getLsbD_append_high x y j h

theorem bl_3_2_2 (x : BitVec (3 + 2)) (y : BitVec 2) (j : Nat) (h : j < 2) :
    (x ++ y).getLsbD j = y.getLsbD j := getLsbD_append_low x y j h

theorem hi_3_2_2_2 (x : BitVec (3 + 2 + 2)) (y : BitVec 2) (j k : Nat) (h : 2 ≤ j) :
    (x ++ y).extractLsb' j k = x.extractLsb' (j - 2) k := extract_append_high x y j k h

theorem lo_3_2_2_2 (x : BitVec (3 + 2 + 2)) (y : BitVec 2) (j k : Nat) (h : j + k ≤ 2) :
    (x ++ y).extractLsb' j k = y.extractLsb' j k := extract_append_low x y j k h

theorem bh_3_2_2_2 (x : BitVec (3 + 2 + 2)) (y : BitVec 2) (j : Nat) (h : 2 ≤ j) :
    (x ++ y).getLsbD j = x.getLsbD (j - 2) := getLsbD_append_high x y j h

theorem bl_3_2_2_2 (x : BitVec (3 + 2 + 2)) (y : BitVec 2) (j : Nat) (h : j < 2) :
    (x ++ y).getLsbD j = y.getLsbD j := getLsbD_append_low x y j h

theorem hi_3_2_2_2_1 (x : BitVec (3 + 2 + 2 + 2)) (y : BitVec 1) (j k : Nat) (h : 1 ≤ j) :
    (x ++ y).extractLsb' j k = x.extractLsb' (j - 1) k := extract_append_high x y j k h

theorem lo_3_2_2_2_1 (x : BitVec (3 + 2 + 2 + 2)) (y : BitVec 1) (j k : Nat) (h : j + k ≤ 1) :
    (x ++ y).extractLsb' j k = y.extractLsb' j k := extract_append_low x y j k h

theorem bh_3_2_2_2_1 (x : BitVec (3 + 2 + 2 + 2)) (y : BitVec 1) (j : Nat) (h : 1 ≤ j) :
    (x ++ y).getLsbD j = x.getLsbD (j - 1) := getLsbD_append_high x y j h

theorem bl_3_2_2_2_1 (x : BitVec (3 + 2 + 2 + 2)) (y : BitVec 1) (j : Nat) (h : j < 1) :
    (x ++ y).getLsbD j = y.getLsbD j := getLsbD_append_low x y j h

theorem hi_2_1 (x : BitVec 2) (y : BitVec 1) (j k : Nat) (h : 1 ≤ j) :
    (x ++ y).extractLsb' j k = x.extractLsb' (j - 1) k := extract_append_high x y j k h

theorem lo_2_1 (x : BitVec 2) (y : BitVec 1) (j k : Nat) (h : j + k ≤ 1) :
    (x ++ y).extractLsb' j k = y.extractLsb' j k := extract_append_low x y j k h

theorem bh_2_1 (x : BitVec 2) (y : BitVec 1) (j : Nat) (h : 1 ≤ j) :
    (x ++ y).getLsbD j = x.getLsbD (j - 1) := getLsbD_append_high x y j h

theorem bl_2_1 (x : BitVec 2) (y : BitVec 1) (j : Nat) (h : j < 1) :
    (x ++ y).getLsbD j = y.getLsbD j := getLsbD_append_low x y j h

theorem hi_2_1_1 (x : BitVec (2 + 1)) (y : BitVec 1) (j k : Nat) (h : 1 ≤ j) :
    (x ++ y).extractLsb' j k = x.extractLsb' (j - 1) k := extract_append_high x y j k h

theorem lo_2_1_1 (x : BitVec (2 + 1)) (y : BitVec 1) (j k : Nat) (h : j + k ≤ 1) :
    (x ++ y).extractLsb' j k = y.extractLsb' j k := extract_append_low x y j k h

theorem bh_2_1_1 (x : BitVec (2 + 1)) (y : BitVec 1) (j : Nat) (h : 1 ≤ j) :
    (x ++ y).getLsbD j = x.getLsbD (j - 1) := getLsbD_append_high x y j h

theorem bl_2_1_1 (x : BitVec (2 + 1)) (y : BitVec 1) (j : Nat) (h : j < 1) :
    (x ++ y).getLsbD j = y.getLsbD j := getLsbD_append_low x y j h

theorem hi_2_1_1_6 (x : BitVec (2 + 1 + 1)) (y : BitVec 6) (j k : Nat) (h : 6 ≤ j) :
    (x ++ y).extractLsb' j k = x.extractLsb' (j - 6) k := extract_append_high x y j k h

theorem lo_2_1_1_6 (x : BitVec (2 + 1 + 1)) (y : BitVec 6) (j k : Nat) (h : j + k ≤ 6) :
    (x ++ y).extractLsb' j k = y.extractLsb' j k := extract_append_low x y j k h

theorem bh_2_1_1_6 (x : BitVec (2 + 1 + 1)) (y : BitVec 6) (j : Nat) (h : 6 ≤ j) :
    (x ++ y).getLsbD j = x.getLsbD (j - 6) := getLsbD_append_high x y j h

theorem bl_2_1_1_6 (x : BitVec (2 + 1 + 1)) (y : BitVec 6) (j : Nat) (h : j < 6) :
    (x ++ y).getLsbD j = y.getLsbD j := getLsbD_append_low x y j h

theorem hi_5_5 (x : BitVec 5) (y : BitVec 5) (j k : Nat) (h : 5 ≤ j) :
    (x ++ y).extractLsb' j k = x.extractLsb' (j - 5) k := extract_append_high x y j k h

theorem lo_5_5 (x : BitVec 5) (y : BitVec 5) (j k : Nat) (h : j + k ≤ 5) :
    (x ++ y).extractLsb' j k = y.extractLsb' j k := extract_append_low x y j k h

theorem bh_5_5 (x : BitVec 5) (y : BitVec 5) (j : Nat) (h : 5 ≤ j) :
    (x ++ y).getLsbD j = x.getLsbD (j - 5) := getLsbD_append_high x y j h

theorem bl_5_5 (x : BitVec 5) (y : BitVec 5) (j : Nat) (h : j < 5) :
    (x ++ y).getLsbD j = y.getLsbD j := getLsbD_append_low x y j h

theorem hi_1_1 (x : BitVec 1) (y : BitVec 1) (j k : Nat) (h : 1 ≤ j) :
    (x ++ y).extractLsb' j k = x.extractLsb' (j - 1) k := extract_append_high x y j k h

theorem lo_1_1 (x : BitVec 1) (y : BitVec 1) (j k : Nat) (h : j + k ≤ 1) :
    (x ++ y).extractLsb' j k = y.extractLsb' j k := extract_append_low x y j k h

theorem bh_1_1 (x : BitVec 1) (y : BitVec 1) (j : Nat) (h : 1 ≤ j) :
    (x ++ y).getLsbD j = x.getLsbD (j - 1) := getLsbD_append_high x y j h

theorem bl_1_1 (x : BitVec 1) (y : BitVec 1) (j : Nat) (h : j < 1) :
    (x ++ y).getLsbD j = y.getLsbD j := getLsbD_append_low x y j h

theorem hi_1_1_5 (x : BitVec (1 + 1)) (y : BitVec 5) (j k : Nat) (h : 5 ≤ j) :
    (x ++ y).extractLsb' j k = x.extractLsb' (j - 5) k := extract_append_high x y j k h

theorem lo_1_1_5 (x : BitVec (1 + 1)) (y : BitVec 5) (j k : Nat) (h : j + k ≤ 5) :
    (x ++ y).extractLsb' j k = y.extractLsb' j k := extract_append_low x y j k h

theorem bh_1_1_5 (x : BitVec (1 + 1)) (y : BitVec 5) (j : Nat) (h : 5 ≤ j) :
    (x ++ y).getLsbD j = x.getLsbD (j - 5) := getLsbD_append_high x y j h

theorem bl_1_1_5 (x : BitVec (1 + 1)) (y : BitVec 5) (j : Nat) (h : j < 5) :
    (x ++ y).getLsbD j = y.getLsbD j := getLsbD_append_low x y j h

theorem hi_1_1_5_3 (x : BitVec (1 + 1 + 5)) (y : BitVec 3) (j k : Nat) (h : 3 ≤ j) :
    (x ++ y).extractLsb' j k = x.extractLsb' (j - 3) k := extract_append_high x y j k h

theorem lo_1_1_5_3 (x : BitVec (1 + 1 + 5)) (y : BitVec 3) (j k : Nat) (h : j + k ≤ 3) :
    (x ++ y).extractLsb' j k = y.extractLsb' j k := extract_append_low x y j k h

theorem bh_1_1_5_3 (x : BitVec (1 + 1 + 5)) (y : BitVec 3) (j : Nat) (h : 3 ≤ j) :
    (x ++ y).getLsbD j = x.getLsbD (j - 3) := getLsbD_append_high x y j h

theorem bl_1_1_5_3 (x : BitVec (1 + 1 + 5)) (y : BitVec 3) (j : Nat) (h : j < 3) :
    (x ++ y).getLsbD j = y.getLsbD j := getLsbD_append_low x y j h

theorem hi_1_4 (x : BitVec 1) (y : BitVec 4) (j k : Nat) (h : 4 ≤ j) :
    (x ++ y).extractLsb' j k = x.extractLsb' (j - 4) k := extract_append_high x y j k h

theorem lo_1_4 (x : BitVec 1) (y : BitVec 4) (j k : Nat) (h : j + k ≤ 4) :
    (x ++ y).extractLsb' j k = y.extractLsb' j k := extract_append_low x y j k h

theorem bh_1_4 (x : BitVec 1) (y : BitVec 4) (j : Nat) (h : 4 ≤ j) :
    (x ++ y).getLsbD j = x.getLsbD (j - 4) := getLsbD_append_high x y j h

theorem bl_1_4 (x : BitVec 1) (y : BitVec 4) (j : Nat) (h : j < 4) :
    (x ++ y).getLsbD j = y.getLsbD j := getLsbD_append_low x y j h

theorem hi_8_2 (x : BitVec 8) (y : BitVec 2) (j k : Nat) (h : 2 ≤ j) :
    (x ++ y).extractLsb' j k = x.extractLsb' (j - 2) k := extract_append_high x y j k h

theorem lo_8_2 (x : BitVec 8) (y : BitVec 2) (j k : Nat) (h : j + k ≤ 2) :
    (x ++ y).extractLsb' j k = y.extractLsb' j k := extract_append_low x y j k h

theorem bh_8_2 (x : BitVec 8) (y : BitVec 2) (j : Nat) (h : 2 ≤ j) :
    (x ++ y).getLsbD j = x.getLsbD (j - 2) := getLsbD_append_high x y j h

theorem bl_8_2 (x : BitVec 8) (y : BitVec 2) (j : Nat) (h : j < 2) :
    (x ++ y).getLsbD j = y.getLsbD j := getLsbD_append_low x y j h

theorem hi_4_3 (x : BitVec 4) (y : BitVec 3) (j k : Nat) (h : 3 ≤ j) :
    (x ++ y).extractLsb' j k = x.extractLsb' (j - 3) k := extract_append_high x y j k h

theorem lo_4_3 (x : BitVec 4) (y : BitVec 3) (j k : Nat) (h : j + k ≤ 3) :
    (x ++ y).extractLsb' j k = y.extractLsb' j k := extract_append_low x y j k h

theorem bh_4_3 (x : BitVec 4) (y : BitVec 3) (j : Nat) (h : 3 ≤ j) :
    (x ++ y).getLsbD j = x.getLsbD (j - 3) := getLsbD_append_high x y j h

theorem bl_4_3 (x : BitVec 4) (y : BitVec 3) (j : Nat) (h : j < 3) :
    (x ++ y).getLsbD j = y.getLsbD j := getLsbD_append_low x y j h

theorem hi_4_3_3 (x : BitVec (4 + 3)) (y : BitVec 3) (j k : Nat) (h : 3 ≤ j) :
    (x ++ y).extractLsb' j k = x.extractLsb' (j - 3) k := extract_append_high x y j k h

theorem lo_4_3_3 (x : BitVec (4 + 3)) (y : BitVec 3) (j k : Nat) (h : j + k ≤ 3) :
    (x ++ y).extractLsb' j k = y.extractLsb' j k := extract_append_low x y j k h

theorem bh_4_3_3 (x : BitVec (4 + 3)) (y : BitVec 3) (j : Nat) (h : 3 ≤ j) :
    (x ++ y).getLsbD j = x.getLsbD (j - 3) := getLsbD_append_high x y j h

theorem bl_4_3_3 (x : BitVec (4 + 3)) (y : BitVec 3) (j : Nat) (h : j < 3) :
    (x ++ y).getLsbD j = y.getLsbD j := getLsbD_append_low x y j h

theorem hi_5_1 (x : BitVec 5) (y : BitVec 1) (j k : Nat) (h : 1 ≤ j) :
    (x ++ y).extractLsb' j k = x.extractLsb' (j - 1) k := extract_append_high x y j k h

theorem lo_5_1 (x : BitVec 5) (y : BitVec 1) (j k : Nat) (h : j + k ≤ 1) :
    (x ++ y).extractLsb' j k = y.extractLsb' j k := extract_append_low x y j k h

theorem bh_5_1 (x : BitVec 5) (y : BitVec 1) (j : Nat) (h : 1 ≤ j) :
    (x ++ y).getLsbD j = x.getLsbD (j - 1) := getLsbD_append_high x y j h

theorem bl_5_1 (x : BitVec 5) (y : BitVec 1) (j : Nat) (h : j < 1) :
    (x ++ y).getLsbD j = y.getLsbD j := getLsbD_append_low x y j h

theorem hi_5_1_4 (x : BitVec (5 + 1)) (y : BitVec 4) (j k : Nat) (h : 4 ≤ j) :
    (x ++ y).extractLsb' j k = x.extractLsb' (j - 4) k := extract_append_high x y j k h

theorem lo_5_1_4 (x : BitVec (5 + 1)) (y : BitVec 4) (j k : Nat) (h : j + k ≤ 4) :
    (x ++ y).extractLsb' j k = y.extractLsb' j k := extract_append_low x y j k h

theorem bh_5_1_4 (x : BitVec (5 + 1)) (y : BitVec 4) (j : Nat) (h : 4 ≤ j) :
    (x ++ y).getLsbD j = x.getLsbD (j - 4) := getLsbD_append_high x y j h

theorem bl_5_1_4 (x : BitVec (5 + 1)) (y : BitVec 4) (j : Nat) (h : j < 4) :
    (x ++ y).getLsbD j = y.getLsbD j := getLsbD_append_low x y j h

theorem hi_6_4 (x : BitVec 6) (y : BitVec 4) (j k : Nat) (h : 4 ≤ j) :
    (x ++ y).extractLsb' j k = x.extractLsb' (j - 4) k := extract_append_high x y j k h

theorem lo_6_4 (x : BitVec 6) (y : BitVec 4) (j k : Nat) (h : j + k ≤ 4) :
    (x ++ y).extractLsb' j k = y.extractLsb' j k := extract_append_low x y j k h

theorem bh_6_4 (x : BitVec 6) (y : BitVec 4) (j : Nat) (h : 4 ≤ j) :
    (x ++ y).getLsbD j = x.getLsbD (j - 4) := getLsbD_append_high x y j h

theorem bl_6_4 (x : BitVec 6) (y : BitVec 4) (j : Nat) (h : j < 4) :
    (x ++ y).getLsbD j = y.getLsbD j := getLsbD_append_low x y j h

theorem hi_3_12 (x : BitVec 3) (y : BitVec 12) (j k : Nat) (h : 12 ≤ j) :
    (x ++ y).extractLsb' j k = x.extractLsb' (j - 12) k := extract_append_high x y j k h

theorem lo_3_12 (x : BitVec 3) (y : BitVec 12) (j k : Nat) (h : j + k ≤ 12) :
    (x ++ y).extractLsb' j k = y.extractLsb' j k := extract_append_low x y j k h

theorem bh_3_12 (x : BitVec 3) (y : BitVec 12) (j : Nat) (h : 12 ≤ j) :
    (x ++ y).getLsbD j = x.getLsbD (j - 12) := getLsbD_append_high x y j h

theorem bl_3_12 (x : BitVec 3) (y : BitVec 12) (j : Nat) (h : j < 12) :
    (x ++ y).getLsbD j = y.getLsbD j := getLsbD_append_low x y j h

theorem hi_7_2 (x : BitVec 7) (y : BitVec 2) (j k : Nat) (h : 2 ≤ j) :
    (x ++ y).extractLsb' j k = x.extractLsb' (j - 2) k := extract_append_high x y j k h

theorem lo_7_2 (x : BitVec 7) (y : BitVec 2) (j k : Nat) (h : j + k ≤ 2) :
    (x ++ y).extractLsb' j k = y.extractLsb' j k := extract_append_low x y j k h

theorem bh_7_2 (x : BitVec 7) (y : BitVec 2) (j : Nat) (h : 2 ≤ j) :
    (x ++ y).getLsbD j = x.getLsbD (j - 2) := getLsbD_append_high x y j h

theorem bl_7_2 (x : BitVec 7) (y : BitVec 2) (j : Nat) (h : j < 2) :
    (x ++ y).getLsbD j = y.getLsbD j := getLsbD_append_low x y j h

theorem hi_7_2_6 (x : BitVec (7 + 2)) (y : BitVec 6) (j k : Nat) (h : 6 ≤ j) :
    (x ++ y).extractLsb' j k = x.extractLsb' (j - 6) k := extract_append_high x y j k h

theorem lo_7_2_6 (x : BitVec (7 + 2)) (y : BitVec 6) (j k : Nat) (h : j + k ≤ 6) :
    (x ++ y).extractLsb' j k = y.extractLsb' j k := extract_append_low x y j k h

theorem bh_7_2_6 (x : BitVec (7 + 2)) (y : BitVec 6) (j : Nat) (h : 6 ≤ j) :
    (x ++ y).getLsbD j = x.getLsbD (j - 6) := getLsbD_append_high x y j h

theorem bl_7_2_6 (x : BitVec (7 + 2)) (y : BitVec 6) (j : Nat) (h : j < 6) :
    (x ++ y).getLsbD j = y.getLsbD j := getLsbD_append_low x y j h

theorem hi_1_14 (x : BitVec 1) (y : BitVec 14) (j k : Nat) (h : 14 ≤ j) :
    (x ++ y).extractLsb' j k = x.extractLsb' (j - 14) k := extract_append_high x y j k h

theorem lo_1_14 (x : BitVec 1) (y : BitVec 14) (j k : Nat) (h : j + k ≤ 14) :
    (x ++ y).extractLsb' j k = y.extractLsb' j k := extract_append_low x y j k h

theorem bh_1_14 (x : BitVec 1) (y : BitVec 14) (j : Nat) (h : 14 ≤ j) :
    (x ++ y).getLsbD j = x.getLsbD (j - 14) := getLsbD_append_high x y j h

theorem bl_1_14 (x : BitVec 1) (y : BitVec 14) (j : Nat) (h : j < 14) :
    (x ++ y).getLsbD j = y.getLsbD j := getLsbD_append_low x y j h

theorem hi_2_2 (x : BitVec 2) (y : BitVec 2) (j k : Nat) (h : 2 ≤ j) :
    (x ++ y).extractLsb' j k = x.extractLsb' (j - 2) k := extract_append_high x y j k h

theorem lo_2_2 (x : BitVec 2) (y : BitVec 2) (j k : Nat) (h : j + k ≤ 2) :
    (x ++ y).extractLsb' j k = y.extractLsb' j k := extract_append_low x y j k h

theorem bh_2_2 (x : BitVec 2) (y : BitVec 2) (j : Nat) (h : 2 ≤ j) :
    (x ++ y).getLsbD j = x.getLsbD (j - 2) := getLsbD_append_high x y j h

theorem bl_2_2 (x : BitVec 2) (y : BitVec 2) (j : Nat) (h : j < 2) :
    (x ++ y).getLsbD j = y.getLsbD j := getLsbD_append_low x y j h

theorem hi_2_2_1 (x : BitVec (2 + 2)) (y : BitVec 1) (j k : Nat) (h : 1 ≤ j) :
    (x ++ y).extractLsb' j k = x.extractLsb' (j - 1) k := extract_append_high x y j k h

theorem lo_2_2_1 (x : BitVec (2 + 2)) (y : BitVec 1) (j k : Nat) (h : j + k ≤ 1) :
    (x ++ y).extractLsb' j k = y.extractLsb' j k := extract_append_low x y j k h

theorem bh_2_2_1 (x : BitVec (2 + 2)) (y : BitVec 1) (j : Nat) (h : 1 ≤ j) :
    (x ++ y).getLsbD j = x.getLsbD (j - 1) := getLsbD_append_high x y j h

theorem bl_2_2_1 (x : BitVec (2 + 2)) (y : BitVec 1) (j : Nat) (h : j < 1) :
    (x ++ y).getLsbD j = y.getLsbD j := getLsbD_append_low x y j h

theorem hi_4_1 (x : BitVec 4) (y : BitVec 1) (j k : Nat) (h : 1 ≤ j) :
    (x ++ y).extractLsb' j k = x.extractLsb' (j - 1) k := extract_append_high x y j k h

theorem lo_4_1 (x : BitVec 4) (y : BitVec 1) (j k : Nat) (h : j + k ≤ 1) :
    (x ++ y).extractLsb' j k = y.extractLsb' j k := extract_append_low x y j k h

theorem bh_4_1 (x : BitVec 4) (y : BitVec 1) (j : Nat) (h : 1 ≤ j) :
    (x ++ y).getLsbD j = x.getLsbD (j - 1) := getLsbD_append_high x y j h

theorem bl_4_1 (x : BitVec 4) (y : BitVec 1) (j : Nat) (h : j < 1) :
    (x ++ y).getLsbD j = y.getLsbD j := getLsbD_append_low x y j h

theorem hi_1_2 (x : BitVec 1) (y : BitVec 2) (j k : Nat) (h : 2 ≤ j) :
    (x ++ y).extractLsb' j k = x.extractLsb' (j - 2) k := extract_append_high x y j k h

theorem lo_1_2 (x : BitVec 1) (y : BitVec 2) (j k : Nat) (h : j + k ≤ 2) :
    (x ++ y).extractLsb' j k = y.extractLsb' j k := extract_append_low x y j k h

theorem bh_1_2 (x : BitVec 1) (y : BitVec 2) (j : Nat) (h : 2 ≤ j) :
    (x ++ y).getLsbD j = x.getLsbD (j - 2) := getLsbD_append_high x y j h

theorem bl_1_2 (x : BitVec 1) (y : BitVec 2) (j : Nat) (h : j < 2) :
    (x ++ y).getLsbD j = y.getLsbD j := getLsbD_append_low x y j h

theorem hi_1_2_2 (x : BitVec (1 + 2)) (y : BitVec 2) (j k : Nat) (h : 2 ≤ j) :
    (x ++ y).extractLsb' j k = x.extractLsb' (j - 2) k := extract_append_high x y j k h

theorem lo_1_2_2 (x : BitVec (1 + 2)) (y : BitVec 2) (j k : Nat) (h : j + k ≤ 2) :
    (x ++ y).extractLsb' j k = y.extractLsb' j k := extract_append_low x y j k h

theorem bh_1_2_2 (x : BitVec (1 + 2)) (y : BitVec 2) (j : Nat) (h : 2 ≤ j) :
    (x ++ y).getLsbD j = x.getLsbD (j - 2) := getLsbD_append_high x y j h

theorem bl_1_2_2 (x : BitVec (1 + 2)) (y : BitVec 2) (j : Nat) (h : j < 2) :
    (x ++ y).getLsbD j = y.getLsbD j := getLsbD_append_low x y j h

theorem hi_1_1_3 (x : BitVec (1 + 1)) (y : BitVec 3) (j k : Nat) (h : 3 ≤ j) :
    (x ++ y).extractLsb' j k = x.extractLsb' (j - 3) k := extract_append_high x y j k h

theorem lo_1_1_3 (x : BitVec (1 + 1)) (y : BitVec 3) (j k : Nat) (h : j + k ≤ 3) :
    (x ++ y).extractLsb' j k = y.extractLsb' j k := extract_append_low x y j k h

theorem bh_1_1_3 (x : BitVec (1 + 1)) (y : BitVec 3) (j : Nat) (h : 3 ≤ j) :
    (x ++ y).getLsbD j = x.getLsbD (j - 3) := getLsbD_append_high x y j h

theorem bl_1_1_3 (x : BitVec (1 + 1)) (y : BitVec 3) (j : Nat) (h : j < 3) :
    (x ++ y).getLsbD j = y.getLsbD j := getLsbD_append_low x y j h

theorem hi_5_7 (x : BitVec 5) (y : BitVec 7) (j k : Nat) (h : 7 ≤ j) :
    (x ++ y).extractLsb' j k = x.extractLsb' (j - 7) k := extract_append_high x y j k h

theorem lo_5_7 (x : BitVec 5) (y : BitVec 7) (j k : Nat) (h : j + k ≤ 7) :
    (x ++ y).extractLsb' j k = y.extractLsb' j k := extract_append_low x y j k h

theorem bh_5_7 (x : BitVec 5) (y : BitVec 7) (j : Nat) (h : 7 ≤ j) :
    (x ++ y).getLsbD j = x.getLsbD (j - 7) := getLsbD_append_high x y j h

theorem bl_5_7 (x : BitVec 5) (y : BitVec 7) (j : Nat) (h : j < 7) :
    (x ++ y).getLsbD j = y.getLsbD j := getLsbD_append_low x y j h

theorem hi_3_9 (x : BitVec 3) (y : BitVec 9) (j k : Nat) (h : 9 ≤ j) :
    (x ++ y).extractLsb' j k = x.extractLsb' (j - 9) k := extract_append_high x y j k h

theorem lo_3_9 (x : BitVec 3) (y : BitVec 9) (j k : Nat) (h : j + k ≤ 9) :
    (x ++ y).extractLsb' j k = y.extractLsb' j k := extract_append_low x y j k h

theorem bh_3_9 (x : BitVec 3) (y : BitVec 9) (j : Nat) (h : 9 ≤ j) :
    (x ++ y).getLsbD j = x.getLsbD (j - 9) := getLsbD_append_high x y j h

theorem bl_3_9 (x : BitVec 3) (y : BitVec 9) (j : Nat) (h : j < 9) :
    (x ++ y).getLsbD j = y.getLsbD j := getLsbD_append_low x y j h

theorem hi_8_8 (x : BitVec 8) (y : BitVec 8) (j k : Nat) (h : 8 ≤ j) :
    (x ++ y).extractLsb' j k = x.extractLsb' (j - 8) k := extract_append_high x y j k h

theorem lo_8_8 (x : BitVec 8) (y : BitVec 8) (j k : Nat) (h : j + k ≤ 8) :
    (x ++ y).extractLsb' j k = y.extractLsb' j k := extract_append_low x y j k h

theorem bh_8_8 (x : BitVec 8) (y : BitVec 8) (j : Nat) (h : 8 ≤ j) :
    (x ++ y).getLsbD j = x.getLsbD (j - 8) := getLsbD_append_high x y j h

theorem bl_8_8 (x : BitVec 8) (y : BitVec 8) (j : Nat) (h : j < 8) :
    (x ++ y).getLsbD j = y.getLsbD j := getLsbD_append_low x y j h

theorem hi_8_8_9 (x : BitVec (8 + 8)) (y : BitVec 9) (j k : Nat) (h : 9 ≤ j) :
    (x ++ y).extractLsb' j k = x.extractLsb' (j - 9) k := extract_append_high x y j k h

theorem lo_8_8_9 (x : BitVec (8 + 8)) (y : BitVec 9) (j k : Nat) (h : j + k ≤ 9) :
    (x ++ y).extractLsb' j k = y.extractLsb' j k := extract_append_low x y j k h

theorem bh_8_8_9 (x : BitVec (8 + 8)) (y : BitVec 9) (j : Nat) (h : 9 ≤ j) :
    (x ++ y).getLsbD j = x.getLsbD (j - 9) := getLsbD_append_high x y j h

theorem bl_8_8_9 (x : BitVec (8 + 8)) (y : BitVec 9) (j : Nat) (h : j < 9) :
    (x ++ y).getLsbD j = y.getLsbD j := getLsbD_append_low x y j h

theorem hi_8_8_9_6 (x : BitVec (8 + 8 + 9)) (y : BitVec 6) (j k : Nat) (h : 6 ≤ j) :
    (x ++ y).extractLsb' j k = x.extractLsb' (j - 6) k := extract_append_high x y j k h

theorem lo_8_8_9_6 (x : BitVec (8 + 8 + 9)) (y : BitVec 6) (j k : Nat) (h : j + k ≤ 6) :
    (x ++ y).extractLsb' j k = y.extractLsb' j k := extract_append_low x y j k h

theorem bh_8_8_9_6 (x : BitVec (8 + 8 + 9)) (y : BitVec 6) (j : Nat) (h : 6 ≤ j) :
    (x ++ y).getLsbD j = x.getLsbD (j - 6) := getLsbD_append_high x y j h

theorem bl_8_8_9_6 (x : BitVec (8 + 8 + 9)) (y : BitVec 6) (j : Nat) (h : j < 6) :
    (x ++ y).getLsbD j = y.getLsbD j := getLsbD_append_low x y j h

theorem hi_8_8_9_6_1 (x : BitVec (8 + 8 + 9 + 6)) (y : BitVec 1) (j k : Nat) (h : 1 ≤ j) :
    (x ++ y).extractLsb' j k = x.extractLsb' (j - 1) k := extract_append_high x y j k h

theorem lo_8_8_9_6_1 (x : BitVec (8 + 8 + 9 + 6)) (y : BitVec 1) (j k : Nat) (h : j + k ≤ 1) :
    (x ++ y).extractLsb' j k = y.extractLsb' j k := extract_append_low x y j k h

theorem bh_8_8_9_6_1 (x : BitVec (8 + 8 + 9 + 6)) (y : BitVec 1) (j : Nat) (h : 1 ≤ j) :
    (x ++ y).getLsbD j = x.getLsbD (j - 1) := getLsbD_append_high x y j h

theorem bl_8_8_9_6_1 (x : BitVec (8 + 8 + 9 + 6)) (y : BitVec 1) (j : Nat) (h : j < 1) :
    (x ++ y).getLsbD j = y.getLsbD j := getLsbD_append_low x y j h

theorem hi_6_5 (x : BitVec 6) (y : BitVec 5) (j k : Nat) (h : 5 ≤ j) :
    (x ++ y).extractLsb' j k = x.extractLsb' (j - 5) k := extract_append_high x y j k h

theorem lo_6_5 (x : BitVec 6) (y : BitVec 5) (j k : Nat) (h : j + k ≤ 5) :
    (x ++ y).extractLsb' j k = y.extractLsb' j k := extract_append_low x y j k h

theorem bh_6_5 (x : BitVec 6) (y : BitVec 5) (j : Nat) (h : 5 ≤ j) :
    (x ++ y).getLsbD j = x.getLsbD (j - 5) := getLsbD_append_high x y j h

theorem bl_6_5 (x : BitVec 6) (y : BitVec 5) (j : Nat) (h : j < 5) :
    (x ++ y).getLsbD j = y.getLsbD j := getLsbD_append_low x y j h

theorem hi_6_5_4 (x : BitVec (6 + 5)) (y : BitVec 4) (j k : Nat) (h : 4 ≤ j) :
    (x ++ y).extractLsb' j k = x.extractLsb' (j - 4) k := extract_append_high x y j k h

theorem lo_6_5_4 (x : BitVec (6 + 5)) (y : BitVec 4) (j k : Nat) (h : j + k ≤ 4) :
    (x ++ y).extractLsb' j k = y.extractLsb' j k := extract_append_low x y j k h

theorem bh_6_5_4 (x : BitVec (6 + 5)) (y : BitVec 4) (j : Nat) (h : 4 ≤ j) :
    (x ++ y).getLsbD j = x.getLsbD (j - 4) := getLsbD_append_high x y j h

theorem bl_6_5_4 (x : BitVec (6 + 5)) (y : BitVec 4) (j : Nat) (h : j < 4) :
    (x ++ y).getLsbD j = y.getLsbD j := getLsbD_append_low x y j h

theorem hi_6_5_4_1 (x : BitVec (6 + 5 + 4)) (y : BitVec 1) (j k : Nat) (h : 1 ≤ j) :
    (x ++ y).extractLsb' j k = x.extractLsb' (j - 1) k := extract_append_high x y j k h

theorem lo_6_5_4_1 (x : BitVec (6 + 5 + 4)) (y : BitVec 1) (j k : Nat) (h : j + k ≤ 1) :
    (x ++ y).extractLsb' j k = y.extractLsb' j k := extract_append_low x y j k h

theorem bh_6_5_4_1 (x : BitVec (6 + 5 + 4)) (y : BitVec 1) (j : Nat) (h : 1 ≤ j) :
    (x ++ y).getLsbD j = x.getLsbD (j - 1) := getLsbD_append_high x y j h

theorem bl_6_5_4_1 (x : BitVec (6 + 5 + 4)) (y : BitVec 1) (j : Nat) (h : j < 1) :
    (x ++ y).getLsbD j = y.getLsbD j := getLsbD_append_low x y j h

theorem hi_1_5 (x : BitVec 1) (y : BitVec 5) (j k : Nat) (h : 5 ≤ j) :
    (x ++ y).extractLsb' j k = x.extractLsb' (j - 5) k := extract_append_high x y j k h

theorem lo_1_5 (x : BitVec 1) (y : BitVec 5) (j k : Nat) (h : j + k ≤ 5) :
    (x ++ y).extractLsb' j k = y.extractLsb' j k := extract_append_low x y j k h

theorem bh_1_5 (x : BitVec 1) (y : BitVec 5) (j : Nat) (h : 5 ≤ j) :
    (x ++ y).getLsbD j = x.getLsbD (j - 5) := getLsbD_append_high x y j h

theorem bl_1_5 (x : BitVec 1) (y : BitVec 5) (j : Nat) (h : j < 5) :
    (x ++ y).getLsbD j = y.getLsbD j := getLsbD_append_low x y j h

theorem hi_1_5_5 (x : BitVec (1 + 5)) (y : BitVec 5) (j k : Nat) (h : 5 ≤ j) :
    (x ++ y).extractLsb' j k = x.extractLsb' (j - 5) k := extract_append_high x y j k h

theorem lo_1_5_5 (x : BitVec (1 + 5)) (y : BitVec 5) (j k : Nat) (h : j + k ≤ 5) :
    (x ++ y).extractLsb' j k = y.extractLsb' j k := extract_append_low x y j k h

theorem bh_1_5_5 (x : BitVec (1 + 5)) (y : BitVec 5) (j : Nat) (h : 5 ≤ j) :
    (x ++ y).getLsbD j = x.getLsbD (j - 5) := getLsbD_append_high x y j h

theorem bl_1_5_5 (x : BitVec (1 + 5)) (y : BitVec 5) (j : Nat) (h : j < 5) :
    (x ++ y).getLsbD j = y.getLsbD j := getLsbD_append_low x y j h

theorem hi_1_5_5_4 (x : BitVec (1 + 5 + 5)) (y : BitVec 4) (j k : Nat) (h : 4 ≤ j) :
    (x ++ y).extractLsb' j k = x.extractLsb' (j - 4) k := extract_append_high x y j k h

theorem lo_1_5_5_4 (x : BitVec (1 + 5 + 5)) (y : BitVec 4) (j k : Nat) (h : j + k ≤ 4) :
    (x ++ y).extractLsb' j k = y.extractLsb' j k := extract_append_low x y j k h

theorem bh_1_5_5_4 (x : BitVec (1 + 5 + 5)) (y : BitVec 4) (j : Nat) (h : 4 ≤ j) :
    (x ++ y).getLsbD j = x.getLsbD (j - 4) := getLsbD_append_high x y j h

theorem bl_1_5_5_4 (x : BitVec (1 + 5 + 5)) (y : BitVec 4) (j : Nat) (h : j < 4) :
    (x ++ y).getLsbD j = y.getLsbD j := getLsbD_append_low x y j h

theorem hi_1_5_5_4_1 (x : BitVec (1 + 5 + 5 + 4)) (y : BitVec 1) (j k : Nat) (h : 1 ≤ j) :
    (x ++ y).extractLsb' j k = x.extractLsb' (j - 1) k := extract_append_high x y j k h

theorem lo_1_5_5_4_1 (x : BitVec (1 + 5 + 5 + 4)) (y : BitVec 1) (j k : Nat) (h : j + k ≤ 1) :
    (x ++ y).extractLsb' j k = y.extractLsb' j k := extract_append_low x y j k h

theorem bh_1_5_5_4_1 (x : BitVec (1 + 5 + 5 + 4)) (y : BitVec 1) (j : Nat) (h : 1 ≤ j) :
    (x ++ y).getLsbD j = x.getLsbD (j - 1) := getLsbD_append_high x y j h

theorem bl_1_5_5_4_1 (x : BitVec (1 + 5 + 5 + 4)) (y : BitVec 1) (j : Nat) (h : j < 1) :
    (x ++ y).getLsbD j = y.getLsbD j := getLsbD_append_low x y j h

theorem hi_11_4 (x : BitVec 11) (y : BitVec 4) (j k : Nat) (h : 4 ≤ j) :
    (x ++ y).extractLsb' j k = x.extractLsb' (j - 4) k := extract_append_high x y j k h

theorem lo_11_4 (x : BitVec 11) (y : BitVec 4) (j k : Nat) (h : j + k ≤ 4) :
    (x ++ y).extractLsb' j k = y.extractLsb' j k := extract_append_low x y j k h

theorem bh_11_4 (x : BitVec 11) (y : BitVec 4) (j : Nat) (h : 4 ≤ j) :
    (x ++ y).getLsbD j = x.getLsbD (j - 4) := getLsbD_append_high x y j h

theorem bl_11_4 (x : BitVec 11) (y : BitVec 4) (j : Nat) (h : j < 4) :
    (x ++ y).getLsbD j = y.getLsbD j := getLsbD_append_low x y j h

theorem hi_11_4_1 (x : BitVec (11 + 4)) (y : BitVec 1) (j k : Nat) (h : 1 ≤ j) :
    (x ++ y).extractLsb' j k = x.extractLsb' (j - 1) k := extract_append_high x y j k h

theorem lo_11_4_1 (x : BitVec (11 + 4)) (y : BitVec 1) (j k : Nat) (h : j + k ≤ 1) :
    (x ++ y).extractLsb' j k = y.extractLsb' j k := extract_append_low x y j k h

theorem bh_11_4_1 (x : BitVec (11 + 4)) (y : BitVec 1) (j : Nat) (h : 1 ≤ j) :
    (x ++ y).getLsbD j = x.getLsbD (j - 1) := getLsbD_append_high x y j h

theorem bl_11_4_1 (x : BitVec (11 + 4)) (y : BitVec 1) (j : Nat) (h : j < 1) :
    (x ++ y).getLsbD j = y.getLsbD j := getLsbD_append_low x y j h

/-! ### The forms -/

theorem fMajor_rForm (fn : BitVec 10) (b : BitVec 5) (a : BitVec 5) (d : BitVec 5) (m : BitVec 6) : fMajor (rForm fn b a d m) = m.toNat := by
  unfold fMajor rForm
  rw [extract_append_high _ _ 1 6 (by decide), extract_append_low _ _ 0 6 (by decide), BitVec.extractLsb'_eq_self]

theorem fRd_rForm (fn : BitVec 10) (b : BitVec 5) (a : BitVec 5) (d : BitVec 5) (m : BitVec 6) : fRd (rForm fn b a d m) = d := by
  unfold fRd rForm
  rw [extract_append_high _ _ 7 5 (by decide), extract_append_high _ _ 6 5 (by decide), extract_append_low _ _ 0 5 (by decide), BitVec.extractLsb'_eq_self]

theorem fRs1_rForm (fn : BitVec 10) (b : BitVec 5) (a : BitVec 5) (d : BitVec 5) (m : BitVec 6) : fRs1 (rForm fn b a d m) = a := by
  unfold fRs1 rForm
  rw [extract_append_high _ _ 12 5 (by decide), extract_append_high _ _ 11 5 (by decide), extract_append_high _ _ 5 5 (by decide), extract_append_low _ _ 0 5 (by decide), BitVec.extractLsb'_eq_self]

theorem fRs2_rForm (fn : BitVec 10) (b : BitVec 5) (a : BitVec 5) (d : BitVec 5) (m : BitVec 6) : fRs2 (rForm fn b a d m) = b := by
  unfold fRs2 rForm
  rw [extract_append_high _ _ 17 5 (by decide), extract_append_high _ _ 16 5 (by decide), extract_append_high _ _ 10 5 (by decide), extract_append_high _ _ 5 5 (by decide), extract_append_low _ _ 0 5 (by decide), BitVec.extractLsb'_eq_self]

theorem fFn_rForm (fn : BitVec 10) (b : BitVec 5) (a : BitVec 5) (d : BitVec 5) (m : BitVec 6) : fFn (rForm fn b a d m) = fn.toNat := by
  unfold fFn rForm
  rw [extract_append_high _ _ 22 10 (by decide), extract_append_high _ _ 21 10 (by decide), extract_append_high _ _ 15 10 (by decide), extract_append_high _ _ 10 10 (by decide), extract_append_high _ _ 5 10 (by decide), BitVec.extractLsb'_eq_self]

theorem top_rForm (fn : BitVec 10) (b : BitVec 5) (a : BitVec 5) (d : BitVec 5) (m : BitVec 6) (j k : Nat) (h : 22 ≤ j) : (rForm fn b a d m).extractLsb' j k = fn.extractLsb' (j - 22) k := by
  unfold rForm
  rw [extract_append_high _ _ (j) k (by omega), extract_append_high _ _ (j - 1) k (by omega), extract_append_high _ _ (j - 1 - 6) k (by omega), extract_append_high _ _ (j - 1 - 6 - 5) k (by omega), extract_append_high _ _ (j - 1 - 6 - 5 - 5) k (by omega)]
  congr 1

theorem bit_rForm (fn : BitVec 10) (b : BitVec 5) (a : BitVec 5) (d : BitVec 5) (m : BitVec 6) (j : Nat) (h : 22 ≤ j) : (rForm fn b a d m).getLsbD j = fn.getLsbD (j - 22) := by
  unfold rForm
  rw [getLsbD_append_high _ _ (j) (by omega), getLsbD_append_high _ _ (j - 1) (by omega), getLsbD_append_high _ _ (j - 1 - 6) (by omega), getLsbD_append_high _ _ (j - 1 - 6 - 5) (by omega), getLsbD_append_high _ _ (j - 1 - 6 - 5 - 5) (by omega)]
  congr 1

theorem len_rForm (fn : BitVec 10) (b : BitVec 5) (a : BitVec 5) (d : BitVec 5) (m : BitVec 6) : (rForm fn b a d m).getLsbD 0 = true := by
  unfold rForm
  rw [getLsbD_append_low _ _ 0 (by decide)]; rfl

theorem fMajor_iForm (i : BitVec 15) (a : BitVec 5) (d : BitVec 5) (m : BitVec 6) : fMajor (iForm i a d m) = m.toNat := by
  unfold fMajor iForm
  rw [extract_append_high _ _ 1 6 (by decide), extract_append_low _ _ 0 6 (by decide), BitVec.extractLsb'_eq_self]

theorem fRd_iForm (i : BitVec 15) (a : BitVec 5) (d : BitVec 5) (m : BitVec 6) : fRd (iForm i a d m) = d := by
  unfold fRd iForm
  rw [extract_append_high _ _ 7 5 (by decide), extract_append_high _ _ 6 5 (by decide), extract_append_low _ _ 0 5 (by decide), BitVec.extractLsb'_eq_self]

theorem fRs1_iForm (i : BitVec 15) (a : BitVec 5) (d : BitVec 5) (m : BitVec 6) : fRs1 (iForm i a d m) = a := by
  unfold fRs1 iForm
  rw [extract_append_high _ _ 12 5 (by decide), extract_append_high _ _ 11 5 (by decide), extract_append_high _ _ 5 5 (by decide), extract_append_low _ _ 0 5 (by decide), BitVec.extractLsb'_eq_self]

theorem fImm15_iForm (i : BitVec 15) (a : BitVec 5) (d : BitVec 5) (m : BitVec 6) : fImm15 (iForm i a d m) = i := by
  unfold fImm15 iForm
  rw [extract_append_high _ _ 17 15 (by decide), extract_append_high _ _ 16 15 (by decide), extract_append_high _ _ 10 15 (by decide), extract_append_high _ _ 5 15 (by decide), BitVec.extractLsb'_eq_self]

theorem top_iForm (i : BitVec 15) (a : BitVec 5) (d : BitVec 5) (m : BitVec 6) (j k : Nat) (h : 17 ≤ j) : (iForm i a d m).extractLsb' j k = i.extractLsb' (j - 17) k := by
  unfold iForm
  rw [extract_append_high _ _ (j) k (by omega), extract_append_high _ _ (j - 1) k (by omega), extract_append_high _ _ (j - 1 - 6) k (by omega), extract_append_high _ _ (j - 1 - 6 - 5) k (by omega)]
  congr 1

theorem bit_iForm (i : BitVec 15) (a : BitVec 5) (d : BitVec 5) (m : BitVec 6) (j : Nat) (h : 17 ≤ j) : (iForm i a d m).getLsbD j = i.getLsbD (j - 17) := by
  unfold iForm
  rw [getLsbD_append_high _ _ (j) (by omega), getLsbD_append_high _ _ (j - 1) (by omega), getLsbD_append_high _ _ (j - 1 - 6) (by omega), getLsbD_append_high _ _ (j - 1 - 6 - 5) (by omega)]
  congr 1

theorem len_iForm (i : BitVec 15) (a : BitVec 5) (d : BitVec 5) (m : BitVec 6) : (iForm i a d m).getLsbD 0 = true := by
  unfold iForm
  rw [getLsbD_append_low _ _ 0 (by decide)]; rfl

theorem fMajor_lForm (i : BitVec 12) (s : BitVec 3) (a : BitVec 5) (d : BitVec 5) (m : BitVec 6) : fMajor (lForm i s a d m) = m.toNat := by
  unfold fMajor lForm
  rw [extract_append_high _ _ 1 6 (by decide), extract_append_low _ _ 0 6 (by decide), BitVec.extractLsb'_eq_self]

theorem fRd_lForm (i : BitVec 12) (s : BitVec 3) (a : BitVec 5) (d : BitVec 5) (m : BitVec 6) : fRd (lForm i s a d m) = d := by
  unfold fRd lForm
  rw [extract_append_high _ _ 7 5 (by decide), extract_append_high _ _ 6 5 (by decide), extract_append_low _ _ 0 5 (by decide), BitVec.extractLsb'_eq_self]

theorem fRs1_lForm (i : BitVec 12) (s : BitVec 3) (a : BitVec 5) (d : BitVec 5) (m : BitVec 6) : fRs1 (lForm i s a d m) = a := by
  unfold fRs1 lForm
  rw [extract_append_high _ _ 12 5 (by decide), extract_append_high _ _ 11 5 (by decide), extract_append_high _ _ 5 5 (by decide), extract_append_low _ _ 0 5 (by decide), BitVec.extractLsb'_eq_self]

theorem fImm12_lForm (i : BitVec 12) (s : BitVec 3) (a : BitVec 5) (d : BitVec 5) (m : BitVec 6) : fImm12 (lForm i s a d m) = i := by
  unfold fImm12 lForm
  rw [extract_append_high _ _ 20 12 (by decide), extract_append_high _ _ 19 12 (by decide), extract_append_high _ _ 13 12 (by decide), extract_append_high _ _ 8 12 (by decide), extract_append_high _ _ 3 12 (by decide), BitVec.extractLsb'_eq_self]

theorem fSize_lForm (i : BitVec 12) (s : BitVec 3) (a : BitVec 5) (d : BitVec 5) (m : BitVec 6) : fSize (lForm i s a d m) = s.toNat := by
  unfold fSize lForm
  rw [extract_append_high _ _ 17 3 (by decide), extract_append_high _ _ 16 3 (by decide), extract_append_high _ _ 10 3 (by decide), extract_append_high _ _ 5 3 (by decide), extract_append_low _ _ 0 3 (by decide), BitVec.extractLsb'_eq_self]

theorem top_lForm (i : BitVec 12) (s : BitVec 3) (a : BitVec 5) (d : BitVec 5) (m : BitVec 6) (j k : Nat) (h : 20 ≤ j) : (lForm i s a d m).extractLsb' j k = i.extractLsb' (j - 20) k := by
  unfold lForm
  rw [extract_append_high _ _ (j) k (by omega), extract_append_high _ _ (j - 1) k (by omega), extract_append_high _ _ (j - 1 - 6) k (by omega), extract_append_high _ _ (j - 1 - 6 - 5) k (by omega), extract_append_high _ _ (j - 1 - 6 - 5 - 5) k (by omega)]
  congr 1

theorem bit_lForm (i : BitVec 12) (s : BitVec 3) (a : BitVec 5) (d : BitVec 5) (m : BitVec 6) (j : Nat) (h : 20 ≤ j) : (lForm i s a d m).getLsbD j = i.getLsbD (j - 20) := by
  unfold lForm
  rw [getLsbD_append_high _ _ (j) (by omega), getLsbD_append_high _ _ (j - 1) (by omega), getLsbD_append_high _ _ (j - 1 - 6) (by omega), getLsbD_append_high _ _ (j - 1 - 6 - 5) (by omega), getLsbD_append_high _ _ (j - 1 - 6 - 5 - 5) (by omega)]
  congr 1

theorem len_lForm (i : BitVec 12) (s : BitVec 3) (a : BitVec 5) (d : BitVec 5) (m : BitVec 6) : (lForm i s a d m).getLsbD 0 = true := by
  unfold lForm
  rw [getLsbD_append_low _ _ 0 (by decide)]; rfl

theorem fMajor_uForm (i : BitVec 20) (d : BitVec 5) (m : BitVec 6) : fMajor (uForm i d m) = m.toNat := by
  unfold fMajor uForm
  rw [extract_append_high _ _ 1 6 (by decide), extract_append_low _ _ 0 6 (by decide), BitVec.extractLsb'_eq_self]

theorem fRd_uForm (i : BitVec 20) (d : BitVec 5) (m : BitVec 6) : fRd (uForm i d m) = d := by
  unfold fRd uForm
  rw [extract_append_high _ _ 7 5 (by decide), extract_append_high _ _ 6 5 (by decide), extract_append_low _ _ 0 5 (by decide), BitVec.extractLsb'_eq_self]

theorem fImm20_uForm (i : BitVec 20) (d : BitVec 5) (m : BitVec 6) : fImm20 (uForm i d m) = i := by
  unfold fImm20 uForm
  rw [extract_append_high _ _ 12 20 (by decide), extract_append_high _ _ 11 20 (by decide), extract_append_high _ _ 5 20 (by decide), BitVec.extractLsb'_eq_self]

theorem top_uForm (i : BitVec 20) (d : BitVec 5) (m : BitVec 6) (j k : Nat) (h : 12 ≤ j) : (uForm i d m).extractLsb' j k = i.extractLsb' (j - 12) k := by
  unfold uForm
  rw [extract_append_high _ _ (j) k (by omega), extract_append_high _ _ (j - 1) k (by omega), extract_append_high _ _ (j - 1 - 6) k (by omega)]
  congr 1

theorem bit_uForm (i : BitVec 20) (d : BitVec 5) (m : BitVec 6) (j : Nat) (h : 12 ≤ j) : (uForm i d m).getLsbD j = i.getLsbD (j - 12) := by
  unfold uForm
  rw [getLsbD_append_high _ _ (j) (by omega), getLsbD_append_high _ _ (j - 1) (by omega), getLsbD_append_high _ _ (j - 1 - 6) (by omega)]
  congr 1

theorem len_uForm (i : BitVec 20) (d : BitVec 5) (m : BitVec 6) : (uForm i d m).getLsbD 0 = true := by
  unfold uForm
  rw [getLsbD_append_low _ _ 0 (by decide)]; rfl

theorem fMajor_eForm (f : BitVec 5) (c : BitVec 5) (b : BitVec 5) (a : BitVec 5) (d : BitVec 5) (m : BitVec 6) : fMajor (eForm f c b a d m) = m.toNat := by
  unfold fMajor eForm
  rw [extract_append_high _ _ 1 6 (by decide), extract_append_low _ _ 0 6 (by decide), BitVec.extractLsb'_eq_self]

theorem fRd_eForm (f : BitVec 5) (c : BitVec 5) (b : BitVec 5) (a : BitVec 5) (d : BitVec 5) (m : BitVec 6) : fRd (eForm f c b a d m) = d := by
  unfold fRd eForm
  rw [extract_append_high _ _ 7 5 (by decide), extract_append_high _ _ 6 5 (by decide), extract_append_low _ _ 0 5 (by decide), BitVec.extractLsb'_eq_self]

theorem fRs1_eForm (f : BitVec 5) (c : BitVec 5) (b : BitVec 5) (a : BitVec 5) (d : BitVec 5) (m : BitVec 6) : fRs1 (eForm f c b a d m) = a := by
  unfold fRs1 eForm
  rw [extract_append_high _ _ 12 5 (by decide), extract_append_high _ _ 11 5 (by decide), extract_append_high _ _ 5 5 (by decide), extract_append_low _ _ 0 5 (by decide), BitVec.extractLsb'_eq_self]

theorem fRs2_eForm (f : BitVec 5) (c : BitVec 5) (b : BitVec 5) (a : BitVec 5) (d : BitVec 5) (m : BitVec 6) : fRs2 (eForm f c b a d m) = b := by
  unfold fRs2 eForm
  rw [extract_append_high _ _ 17 5 (by decide), extract_append_high _ _ 16 5 (by decide), extract_append_high _ _ 10 5 (by decide), extract_append_high _ _ 5 5 (by decide), extract_append_low _ _ 0 5 (by decide), BitVec.extractLsb'_eq_self]

theorem fRs3_eForm (f : BitVec 5) (c : BitVec 5) (b : BitVec 5) (a : BitVec 5) (d : BitVec 5) (m : BitVec 6) : fRs3 (eForm f c b a d m) = c := by
  unfold fRs3 eForm
  rw [extract_append_high _ _ 22 5 (by decide), extract_append_high _ _ 21 5 (by decide), extract_append_high _ _ 15 5 (by decide), extract_append_high _ _ 10 5 (by decide), extract_append_high _ _ 5 5 (by decide), extract_append_low _ _ 0 5 (by decide), BitVec.extractLsb'_eq_self]

theorem top_eForm (f : BitVec 5) (c : BitVec 5) (b : BitVec 5) (a : BitVec 5) (d : BitVec 5) (m : BitVec 6) (j k : Nat) (h : 27 ≤ j) : (eForm f c b a d m).extractLsb' j k = f.extractLsb' (j - 27) k := by
  unfold eForm
  rw [extract_append_high _ _ (j) k (by omega), extract_append_high _ _ (j - 1) k (by omega), extract_append_high _ _ (j - 1 - 6) k (by omega), extract_append_high _ _ (j - 1 - 6 - 5) k (by omega), extract_append_high _ _ (j - 1 - 6 - 5 - 5) k (by omega), extract_append_high _ _ (j - 1 - 6 - 5 - 5 - 5) k (by omega)]
  congr 1

theorem bit_eForm (f : BitVec 5) (c : BitVec 5) (b : BitVec 5) (a : BitVec 5) (d : BitVec 5) (m : BitVec 6) (j : Nat) (h : 27 ≤ j) : (eForm f c b a d m).getLsbD j = f.getLsbD (j - 27) := by
  unfold eForm
  rw [getLsbD_append_high _ _ (j) (by omega), getLsbD_append_high _ _ (j - 1) (by omega), getLsbD_append_high _ _ (j - 1 - 6) (by omega), getLsbD_append_high _ _ (j - 1 - 6 - 5) (by omega), getLsbD_append_high _ _ (j - 1 - 6 - 5 - 5) (by omega), getLsbD_append_high _ _ (j - 1 - 6 - 5 - 5 - 5) (by omega)]
  congr 1

theorem len_eForm (f : BitVec 5) (c : BitVec 5) (b : BitVec 5) (a : BitVec 5) (d : BitVec 5) (m : BitVec 6) : (eForm f c b a d m).getLsbD 0 = true := by
  unfold eForm
  rw [getLsbD_append_low _ _ 0 (by decide)]; rfl

/-! ### The majors -/

theorem major_01 (w : BitVec 32) (h : fMajor w = 0x01) : decode32 w = decOp w := by
  unfold decode32; rw [h]; rfl

theorem major_02 (w : BitVec 32) (h : fMajor w = 0x02) : decode32 w = decOpw w := by
  unfold decode32; rw [h]; rfl

theorem major_03 (w : BitVec 32) (h : fMajor w = 0x03) : decode32 w = decMulDiv w := by
  unfold decode32; rw [h]; rfl

theorem major_04 (w : BitVec 32) (h : fMajor w = 0x04) : decode32 w = .ok (.addi (fRd w) (fRs1 w) (fImm15 w)) := by
  unfold decode32; rw [h]; rfl

theorem major_05 (w : BitVec 32) (h : fMajor w = 0x05) : decode32 w = .ok (.andi (fRd w) (fRs1 w) (fImm15 w)) := by
  unfold decode32; rw [h]; rfl

theorem major_06 (w : BitVec 32) (h : fMajor w = 0x06) : decode32 w = .ok (.ori (fRd w) (fRs1 w) (fImm15 w)) := by
  unfold decode32; rw [h]; rfl

theorem major_07 (w : BitVec 32) (h : fMajor w = 0x07) : decode32 w = .ok (.xori (fRd w) (fRs1 w) (fImm15 w)) := by
  unfold decode32; rw [h]; rfl

theorem major_08 (w : BitVec 32) (h : fMajor w = 0x08) : decode32 w = decShifti w := by
  unfold decode32; rw [h]; rfl

theorem major_09 (w : BitVec 32) (h : fMajor w = 0x09) : decode32 w = .ok (.slti (fRd w) (fRs1 w) (fImm15 w)) := by
  unfold decode32; rw [h]; rfl

theorem major_0A (w : BitVec 32) (h : fMajor w = 0x0A) : decode32 w = .ok (.sltiu (fRd w) (fRs1 w) (fImm15 w)) := by
  unfold decode32; rw [h]; rfl

theorem major_0B (w : BitVec 32) (h : fMajor w = 0x0B) : decode32 w = .ok (.addiw (fRd w) (fRs1 w) (fImm15 w)) := by
  unfold decode32; rw [h]; rfl

theorem major_0C (w : BitVec 32) (h : fMajor w = 0x0C) : decode32 w = .ok (.lui (fRd w) (fImm20 w)) := by
  unfold decode32; rw [h]; rfl

theorem major_0D (w : BitVec 32) (h : fMajor w = 0x0D) : decode32 w = .ok (.addpc (fRd w) (fImm20 w)) := by
  unfold decode32; rw [h]; rfl

theorem major_0E (w : BitVec 32) (h : fMajor w = 0x0E) : decode32 w = decBitop w := by
  unfold decode32; rw [h]; rfl

theorem major_0F (w : BitVec 32) (h : fMajor w = 0x0F) : decode32 w = decAddr w := by
  unfold decode32; rw [h]; rfl

theorem major_10 (w : BitVec 32) (h : fMajor w = 0x10) : decode32 w = decBranch w := by
  unfold decode32; rw [h]; rfl

theorem major_11 (w : BitVec 32) (h : fMajor w = 0x11) : decode32 w = .ok (.jal (fRd w) (fImm20 w)) := by
  unfold decode32; rw [h]; rfl

theorem major_12 (w : BitVec 32) (h : fMajor w = 0x12) : decode32 w = .ok (.jalr (fRd w) (fRs1 w) (fImm15 w)) := by
  unfold decode32; rw [h]; rfl

theorem major_14 (w : BitVec 32) (h : fMajor w = 0x14) : decode32 w = decLoad w := by
  unfold decode32; rw [h]; rfl

theorem major_15 (w : BitVec 32) (h : fMajor w = 0x15) : decode32 w = decStore w := by
  unfold decode32; rw [h]; rfl

theorem major_16 (w : BitVec 32) (h : fMajor w = 0x16) : decode32 w = decLoadx w := by
  unfold decode32; rw [h]; rfl

theorem major_17 (w : BitVec 32) (h : fMajor w = 0x17) : decode32 w = decStorex w := by
  unfold decode32; rw [h]; rfl

theorem major_18 (w : BitVec 32) (h : fMajor w = 0x18) : decode32 w = decAmo w := by
  unfold decode32; rw [h]; rfl

theorem major_19 (w : BitVec 32) (h : fMajor w = 0x19) : decode32 w = decRedMajor w := by
  unfold decode32; rw [h]; rfl

theorem major_1A (w : BitVec 32) (h : fMajor w = 0x1A) : decode32 w = decFence w := by
  unfold decode32; rw [h]; rfl

theorem major_1B (w : BitVec 32) (h : fMajor w = 0x1B) : decode32 w = decFp w := by
  unfold decode32; rw [h]; rfl

theorem major_1C (w : BitVec 32) (h : fMajor w = 0x1C) : decode32 w = decFma w := by
  unfold decode32; rw [h]; rfl

theorem major_1D (w : BitVec 32) (h : fMajor w = 0x1D) : decode32 w = decFcvt w := by
  unfold decode32; rw [h]; rfl

theorem major_1E (w : BitVec 32) (h : fMajor w = 0x1E) : decode32 w = decVarith w := by
  unfold decode32; rw [h]; rfl

theorem major_1F (w : BitVec 32) (h : fMajor w = 0x1F) : decode32 w = decVfma w := by
  unfold decode32; rw [h]; rfl

theorem major_20 (w : BitVec 32) (h : fMajor w = 0x20) : decode32 w = decVmem w := by
  unfold decode32; rw [h]; rfl

theorem major_21 (w : BitVec 32) (h : fMajor w = 0x21) : decode32 w = decVmisc w := by
  unfold decode32; rw [h]; rfl

theorem major_22 (w : BitVec 32) (h : fMajor w = 0x22) : decode32 w = decMatrix w := by
  unfold decode32; rw [h]; rfl

theorem major_23 (w : BitVec 32) (h : fMajor w = 0x23) : decode32 w = decCopy w := by
  unfold decode32; rw [h]; rfl

theorem major_24 (w : BitVec 32) (h : fMajor w = 0x24) : decode32 w = decStream w := by
  unfold decode32; rw [h]; rfl

theorem major_25 (w : BitVec 32) (h : fMajor w = 0x25) : decode32 w = decColl w := by
  unfold decode32; rw [h]; rfl

theorem major_26 (w : BitVec 32) (h : fMajor w = 0x26) : decode32 w = decGroup w := by
  unfold decode32; rw [h]; rfl

theorem major_27 (w : BitVec 32) (h : fMajor w = 0x27) : decode32 w = decWait w := by
  unfold decode32; rw [h]; rfl

theorem major_28 (w : BitVec 32) (h : fMajor w = 0x28) : decode32 w = decMsg w := by
  unfold decode32; rw [h]; rfl

theorem major_29 (w : BitVec 32) (h : fMajor w = 0x29) : decode32 w = decTime w := by
  unfold decode32; rw [h]; rfl

theorem major_2A (w : BitVec 32) (h : fMajor w = 0x2A) : decode32 w = decCtl w := by
  unfold decode32; rw [h]; rfl

theorem major_2B (w : BitVec 32) (h : fMajor w = 0x2B) : decode32 w = decSys w := by
  unfold decode32; rw [h]; rfl

theorem major_2C (w : BitVec 32) (h : fMajor w = 0x2C) : decode32 w = decReplay w := by
  unfold decode32; rw [h]; rfl

/-! ### Operand codes -/

theorem dec_encFFmt (f : FFmt) : decFFmt (encFFmt f).toNat = some f := by cases f <;> rfl
theorem dec_encRm (r : Rm) : decRm (encRm r).toNat = some r := by cases r <;> rfl
theorem dec_encIntTy (t : IntTy) : decIntTy (encIntTy t).toNat = t := by cases t <;> rfl
theorem dec_encCvtTy (t : CvtTy) : decCvtTy (encCvtTy t).toNat = t := by cases t <;> rfl
theorem dec_encIType (t : IType) : decIType (encIType t).toNat = t := by cases t <;> rfl
theorem dec_encFType (t : FType) : decFType (encFType t).toNat = t := by cases t <;> rfl
theorem dec_encVCmp (o : VCmpOp) : decVCmp (encVCmp o).1.toNat (encVCmp o).2.toNat = o := by
  cases o with
  | int c t => cases c <;> cases t <;> rfl
  | flt t => cases t <;> rfl
  | fle t => cases t <;> rfl
theorem dec_encVRed (o : VRedOp) : decVRed (encVRed o).1.toNat (encVRed o).2.toNat = o := by
  cases o with
  | int c t => cases c <;> cases t <;> rfl
  | fadd t => cases t <;> rfl
  | fmax t => cases t <;> rfl
theorem dec_encVCvt (k : VCvt) : decVCvt (encVCvt k).toNat = some k := by cases k <;> rfl
theorem dec_encBx (k : BxFmt) : decBx (encBx k).toNat = some k := by cases k <;> rfl
theorem dec_encEng (k : Eng) : decEng (encEng k).toNat = some k := by cases k <;> rfl
theorem dec_encDir (k : Dir) : decDir (encDir k).toNat = some k := by cases k <;> rfl
theorem dec_encRed (k : RedOp) : decRed (encRed k).toNat = k := by cases k <;> rfl
theorem dec_encAcc (k : Acc) : decAcc ((encAcc k).getLsbD 0) = k := by cases k <;> rfl
theorem dec_encChan (k : Chan) : decChan ((encChan k).getLsbD 0) = k := by cases k <;> rfl
theorem bit_b1 (b : Bool) : (b1 b).getLsbD 0 = b := by cases b <;> rfl
theorem ne_encCvtTy (s t : CvtTy) : ((encCvtTy s).toNat != (encCvtTy t).toNat) = (s != t) := by cases s <;> cases t <;> rfl
theorem vOk_v5 (v : VReg) : vOk (v5 v) = true := by
  have h : (v5 v).toNat < 8 := by unfold v5; rw [BitVec.toNat_append]; simp; omega
  simp [vOk, h]
theorem toV_v5 (v : VReg) : toV (v5 v) = v := by
  unfold toV v5; rw [extract_append_low _ _ 0 3 (by decide), BitVec.extractLsb'_eq_self]
theorem q5_ge (q : BitVec 2) : decide (28 ≤ (q5 q).toNat) = true := by revert q; decide
theorem q5_low (q : BitVec 2) : (q5 q).extractLsb' 0 2 = q := by revert q; decide
theorem vq5_ok (q : BitVec 1) : ((vq5 q).toNat == 6 || (vq5 q).toNat == 7) = true := by revert q; decide
theorem vq5_low (q : BitVec 1) : (vq5 q).extractLsb' 0 1 = q := by revert q; decide

end Sys2Proof
end

