-- ==== Sys2Proof/Laws/State.lean ====
section
/-! SUPPORT. What each update of the state does to each of its fields, so that no proof unfolds a record update. -/

namespace Sys2Proof.Machine

/-! ### State.setCore -/

@[simp] theorem State.setCore_now (s : State) (c : Nat) (k : Core) : (s.setCore c k).now = s.now := rfl
@[simp] theorem State.setCore_wallUnits (s : State) (c : Nat) (k : Core) : (s.setCore c k).wallUnits = s.wallUnits := rfl
@[simp] theorem State.setCore_ppm (s : State) (c : Nat) (k : Core) : (s.setCore c k).ppm = s.ppm := rfl
@[simp] theorem State.setCore_mem (s : State) (c : Nat) (k : Core) : (s.setCore c k).mem = s.mem := rfl
@[simp] theorem State.setCore_tags (s : State) (c : Nat) (k : Core) : (s.setCore c k).tags = s.tags := rfl
@[simp] theorem State.setCore_poison (s : State) (c : Nat) (k : Core) : (s.setCore c k).poison = s.poison := rfl
@[simp] theorem State.setCore_cores (s : State) (c : Nat) (k : Core) : (s.setCore c k).cores = mapSet s.cores c k := rfl
@[simp] theorem State.setCore_octets (s : State) (c : Nat) (k : Core) : (s.setCore c k).octets = s.octets := rfl
@[simp] theorem State.setCore_ports (s : State) (c : Nat) (k : Core) : (s.setCore c k).ports = s.ports := rfl
@[simp] theorem State.setCore_parts (s : State) (c : Nat) (k : Core) : (s.setCore c k).parts = s.parts := rfl
@[simp] theorem State.setCore_tlbs (s : State) (c : Nat) (k : Core) : (s.setCore c k).tlbs = s.tlbs := rfl
@[simp] theorem State.setCore_walkCache (s : State) (c : Nat) (k : Core) : (s.setCore c k).walkCache = s.walkCache := rfl
@[simp] theorem State.setCore_walkers (s : State) (c : Nat) (k : Core) : (s.setCore c k).walkers = s.walkers := rfl
@[simp] theorem State.setCore_commonOctet (s : State) (c : Nat) (k : Core) : (s.setCore c k).commonOctet = s.commonOctet := rfl
@[simp] theorem State.setCore_routes (s : State) (c : Nat) (k : Core) : (s.setCore c k).routes = s.routes := rfl
@[simp] theorem State.setCore_farMoves (s : State) (c : Nat) (k : Core) : (s.setCore c k).farMoves = s.farMoves := rfl
@[simp] theorem State.setCore_rmas (s : State) (c : Nat) (k : Core) : (s.setCore c k).rmas = s.rmas := rfl
@[simp] theorem State.setCore_rails (s : State) (c : Nat) (k : Core) : (s.setCore c k).rails = s.rails := rfl
@[simp] theorem State.setCore_fabPorts (s : State) (c : Nat) (k : Core) : (s.setCore c k).fabPorts = s.fabPorts := rfl
@[simp] theorem State.setCore_fabric (s : State) (c : Nat) (k : Core) : (s.setCore c k).fabric = s.fabric := rfl
@[simp] theorem State.setCore_module (s : State) (c : Nat) (k : Core) : (s.setCore c k).module = s.module := rfl
@[simp] theorem State.setCore_boot (s : State) (c : Nat) (k : Core) : (s.setCore c k).boot = s.boot := rfl
@[simp] theorem State.setCore_measF (s : State) (c : Nat) (k : Core) : (s.setCore c k).measF = s.measF := rfl
@[simp] theorem State.setCore_evseq (s : State) (c : Nat) (k : Core) : (s.setCore c k).evseq = s.evseq := rfl
@[simp] theorem State.setCore_mchecks (s : State) (c : Nat) (k : Core) : (s.setCore c k).mchecks = s.mchecks := rfl
@[simp] theorem State.setCore_snapAt (s : State) (c : Nat) (k : Core) : (s.setCore c k).snapAt = s.snapAt := rfl
@[simp] theorem State.setCore_snapshot (s : State) (c : Nat) (k : Core) : (s.setCore c k).snapshot = s.snapshot := rfl
@[simp] theorem State.setCore_reports (s : State) (c : Nat) (k : Core) : (s.setCore c k).reports = s.reports := rfl
@[simp] theorem State.setCore_hostOut (s : State) (c : Nat) (k : Core) : (s.setCore c k).hostOut = s.hostOut := rfl
@[simp] theorem State.setCore_fabOut (s : State) (c : Nat) (k : Core) : (s.setCore c k).fabOut = s.fabOut := rfl
@[simp] theorem State.setCore_fabAcks (s : State) (c : Nat) (k : Core) : (s.setCore c k).fabAcks = s.fabAcks := rfl
@[simp] theorem State.setCore_focusCore (s : State) (c : Nat) (k : Core) : (s.setCore c k).focusCore = s.focusCore := rfl
@[simp] theorem State.setCore_focusCtx (s : State) (c : Nat) (k : Core) : (s.setCore c k).focusCtx = s.focusCtx := rfl
@[simp] theorem State.setCore_flights (s : State) (c : Nat) (k : Core) : (s.setCore c k).flights = s.flights := rfl
@[simp] theorem State.setCore_timers (s : State) (c : Nat) (k : Core) : (s.setCore c k).timers = s.timers := rfl
@[simp] theorem State.setCore_turns (s : State) (c : Nat) (k : Core) : (s.setCore c k).turns = s.turns := rfl
@[simp] theorem State.setCore_serial (s : State) (c : Nat) (k : Core) : (s.setCore c k).serial = s.serial := rfl
@[simp] theorem State.setCore_freeCount (s : State) (c : Nat) (k : Core) : (s.setCore c k).freeCount = s.freeCount := rfl

/-! ### State.modCore -/

@[simp] theorem State.modCore_now (s : State) (c : Nat) (f : Core → Core) : (s.modCore c f).now = s.now := rfl
@[simp] theorem State.modCore_wallUnits (s : State) (c : Nat) (f : Core → Core) : (s.modCore c f).wallUnits = s.wallUnits := rfl
@[simp] theorem State.modCore_ppm (s : State) (c : Nat) (f : Core → Core) : (s.modCore c f).ppm = s.ppm := rfl
@[simp] theorem State.modCore_mem (s : State) (c : Nat) (f : Core → Core) : (s.modCore c f).mem = s.mem := rfl
@[simp] theorem State.modCore_tags (s : State) (c : Nat) (f : Core → Core) : (s.modCore c f).tags = s.tags := rfl
@[simp] theorem State.modCore_poison (s : State) (c : Nat) (f : Core → Core) : (s.modCore c f).poison = s.poison := rfl
@[simp] theorem State.modCore_cores (s : State) (c : Nat) (f : Core → Core) : (s.modCore c f).cores = mapSet s.cores c (f (s.core c)) := rfl
@[simp] theorem State.modCore_octets (s : State) (c : Nat) (f : Core → Core) : (s.modCore c f).octets = s.octets := rfl
@[simp] theorem State.modCore_ports (s : State) (c : Nat) (f : Core → Core) : (s.modCore c f).ports = s.ports := rfl
@[simp] theorem State.modCore_parts (s : State) (c : Nat) (f : Core → Core) : (s.modCore c f).parts = s.parts := rfl
@[simp] theorem State.modCore_tlbs (s : State) (c : Nat) (f : Core → Core) : (s.modCore c f).tlbs = s.tlbs := rfl
@[simp] theorem State.modCore_walkCache (s : State) (c : Nat) (f : Core → Core) : (s.modCore c f).walkCache = s.walkCache := rfl
@[simp] theorem State.modCore_walkers (s : State) (c : Nat) (f : Core → Core) : (s.modCore c f).walkers = s.walkers := rfl
@[simp] theorem State.modCore_commonOctet (s : State) (c : Nat) (f : Core → Core) : (s.modCore c f).commonOctet = s.commonOctet := rfl
@[simp] theorem State.modCore_routes (s : State) (c : Nat) (f : Core → Core) : (s.modCore c f).routes = s.routes := rfl
@[simp] theorem State.modCore_farMoves (s : State) (c : Nat) (f : Core → Core) : (s.modCore c f).farMoves = s.farMoves := rfl
@[simp] theorem State.modCore_rmas (s : State) (c : Nat) (f : Core → Core) : (s.modCore c f).rmas = s.rmas := rfl
@[simp] theorem State.modCore_rails (s : State) (c : Nat) (f : Core → Core) : (s.modCore c f).rails = s.rails := rfl
@[simp] theorem State.modCore_fabPorts (s : State) (c : Nat) (f : Core → Core) : (s.modCore c f).fabPorts = s.fabPorts := rfl
@[simp] theorem State.modCore_fabric (s : State) (c : Nat) (f : Core → Core) : (s.modCore c f).fabric = s.fabric := rfl
@[simp] theorem State.modCore_module (s : State) (c : Nat) (f : Core → Core) : (s.modCore c f).module = s.module := rfl
@[simp] theorem State.modCore_boot (s : State) (c : Nat) (f : Core → Core) : (s.modCore c f).boot = s.boot := rfl
@[simp] theorem State.modCore_measF (s : State) (c : Nat) (f : Core → Core) : (s.modCore c f).measF = s.measF := rfl
@[simp] theorem State.modCore_evseq (s : State) (c : Nat) (f : Core → Core) : (s.modCore c f).evseq = s.evseq := rfl
@[simp] theorem State.modCore_mchecks (s : State) (c : Nat) (f : Core → Core) : (s.modCore c f).mchecks = s.mchecks := rfl
@[simp] theorem State.modCore_snapAt (s : State) (c : Nat) (f : Core → Core) : (s.modCore c f).snapAt = s.snapAt := rfl
@[simp] theorem State.modCore_snapshot (s : State) (c : Nat) (f : Core → Core) : (s.modCore c f).snapshot = s.snapshot := rfl
@[simp] theorem State.modCore_reports (s : State) (c : Nat) (f : Core → Core) : (s.modCore c f).reports = s.reports := rfl
@[simp] theorem State.modCore_hostOut (s : State) (c : Nat) (f : Core → Core) : (s.modCore c f).hostOut = s.hostOut := rfl
@[simp] theorem State.modCore_fabOut (s : State) (c : Nat) (f : Core → Core) : (s.modCore c f).fabOut = s.fabOut := rfl
@[simp] theorem State.modCore_fabAcks (s : State) (c : Nat) (f : Core → Core) : (s.modCore c f).fabAcks = s.fabAcks := rfl
@[simp] theorem State.modCore_focusCore (s : State) (c : Nat) (f : Core → Core) : (s.modCore c f).focusCore = s.focusCore := rfl
@[simp] theorem State.modCore_focusCtx (s : State) (c : Nat) (f : Core → Core) : (s.modCore c f).focusCtx = s.focusCtx := rfl
@[simp] theorem State.modCore_flights (s : State) (c : Nat) (f : Core → Core) : (s.modCore c f).flights = s.flights := rfl
@[simp] theorem State.modCore_timers (s : State) (c : Nat) (f : Core → Core) : (s.modCore c f).timers = s.timers := rfl
@[simp] theorem State.modCore_turns (s : State) (c : Nat) (f : Core → Core) : (s.modCore c f).turns = s.turns := rfl
@[simp] theorem State.modCore_serial (s : State) (c : Nat) (f : Core → Core) : (s.modCore c f).serial = s.serial := rfl
@[simp] theorem State.modCore_freeCount (s : State) (c : Nat) (f : Core → Core) : (s.modCore c f).freeCount = s.freeCount := rfl

/-! ### State.setCtx -/

@[simp] theorem State.setCtx_now (s : State) (c k : Nat) (x : Ctx) : (s.setCtx c k x).now = s.now := rfl
@[simp] theorem State.setCtx_wallUnits (s : State) (c k : Nat) (x : Ctx) : (s.setCtx c k x).wallUnits = s.wallUnits := rfl
@[simp] theorem State.setCtx_ppm (s : State) (c k : Nat) (x : Ctx) : (s.setCtx c k x).ppm = s.ppm := rfl
@[simp] theorem State.setCtx_mem (s : State) (c k : Nat) (x : Ctx) : (s.setCtx c k x).mem = s.mem := rfl
@[simp] theorem State.setCtx_tags (s : State) (c k : Nat) (x : Ctx) : (s.setCtx c k x).tags = s.tags := rfl
@[simp] theorem State.setCtx_poison (s : State) (c k : Nat) (x : Ctx) : (s.setCtx c k x).poison = s.poison := rfl
@[simp] theorem State.setCtx_cores (s : State) (c k : Nat) (x : Ctx) : (s.setCtx c k x).cores = mapSet s.cores c ((s.core c).setCtx k x) := rfl
@[simp] theorem State.setCtx_octets (s : State) (c k : Nat) (x : Ctx) : (s.setCtx c k x).octets = s.octets := rfl
@[simp] theorem State.setCtx_ports (s : State) (c k : Nat) (x : Ctx) : (s.setCtx c k x).ports = s.ports := rfl
@[simp] theorem State.setCtx_parts (s : State) (c k : Nat) (x : Ctx) : (s.setCtx c k x).parts = s.parts := rfl
@[simp] theorem State.setCtx_tlbs (s : State) (c k : Nat) (x : Ctx) : (s.setCtx c k x).tlbs = s.tlbs := rfl
@[simp] theorem State.setCtx_walkCache (s : State) (c k : Nat) (x : Ctx) : (s.setCtx c k x).walkCache = s.walkCache := rfl
@[simp] theorem State.setCtx_walkers (s : State) (c k : Nat) (x : Ctx) : (s.setCtx c k x).walkers = s.walkers := rfl
@[simp] theorem State.setCtx_commonOctet (s : State) (c k : Nat) (x : Ctx) : (s.setCtx c k x).commonOctet = s.commonOctet := rfl
@[simp] theorem State.setCtx_routes (s : State) (c k : Nat) (x : Ctx) : (s.setCtx c k x).routes = s.routes := rfl
@[simp] theorem State.setCtx_farMoves (s : State) (c k : Nat) (x : Ctx) : (s.setCtx c k x).farMoves = s.farMoves := rfl
@[simp] theorem State.setCtx_rmas (s : State) (c k : Nat) (x : Ctx) : (s.setCtx c k x).rmas = s.rmas := rfl
@[simp] theorem State.setCtx_rails (s : State) (c k : Nat) (x : Ctx) : (s.setCtx c k x).rails = s.rails := rfl
@[simp] theorem State.setCtx_fabPorts (s : State) (c k : Nat) (x : Ctx) : (s.setCtx c k x).fabPorts = s.fabPorts := rfl
@[simp] theorem State.setCtx_fabric (s : State) (c k : Nat) (x : Ctx) : (s.setCtx c k x).fabric = s.fabric := rfl
@[simp] theorem State.setCtx_module (s : State) (c k : Nat) (x : Ctx) : (s.setCtx c k x).module = s.module := rfl
@[simp] theorem State.setCtx_boot (s : State) (c k : Nat) (x : Ctx) : (s.setCtx c k x).boot = s.boot := rfl
@[simp] theorem State.setCtx_measF (s : State) (c k : Nat) (x : Ctx) : (s.setCtx c k x).measF = s.measF := rfl
@[simp] theorem State.setCtx_evseq (s : State) (c k : Nat) (x : Ctx) : (s.setCtx c k x).evseq = s.evseq := rfl
@[simp] theorem State.setCtx_mchecks (s : State) (c k : Nat) (x : Ctx) : (s.setCtx c k x).mchecks = s.mchecks := rfl
@[simp] theorem State.setCtx_snapAt (s : State) (c k : Nat) (x : Ctx) : (s.setCtx c k x).snapAt = s.snapAt := rfl
@[simp] theorem State.setCtx_snapshot (s : State) (c k : Nat) (x : Ctx) : (s.setCtx c k x).snapshot = s.snapshot := rfl
@[simp] theorem State.setCtx_reports (s : State) (c k : Nat) (x : Ctx) : (s.setCtx c k x).reports = s.reports := rfl
@[simp] theorem State.setCtx_hostOut (s : State) (c k : Nat) (x : Ctx) : (s.setCtx c k x).hostOut = s.hostOut := rfl
@[simp] theorem State.setCtx_fabOut (s : State) (c k : Nat) (x : Ctx) : (s.setCtx c k x).fabOut = s.fabOut := rfl
@[simp] theorem State.setCtx_fabAcks (s : State) (c k : Nat) (x : Ctx) : (s.setCtx c k x).fabAcks = s.fabAcks := rfl
@[simp] theorem State.setCtx_focusCore (s : State) (c k : Nat) (x : Ctx) : (s.setCtx c k x).focusCore = s.focusCore := rfl
@[simp] theorem State.setCtx_focusCtx (s : State) (c k : Nat) (x : Ctx) : (s.setCtx c k x).focusCtx = s.focusCtx := rfl
@[simp] theorem State.setCtx_flights (s : State) (c k : Nat) (x : Ctx) : (s.setCtx c k x).flights = s.flights := rfl
@[simp] theorem State.setCtx_timers (s : State) (c k : Nat) (x : Ctx) : (s.setCtx c k x).timers = s.timers := rfl
@[simp] theorem State.setCtx_turns (s : State) (c k : Nat) (x : Ctx) : (s.setCtx c k x).turns = s.turns := rfl
@[simp] theorem State.setCtx_serial (s : State) (c k : Nat) (x : Ctx) : (s.setCtx c k x).serial = s.serial := rfl
@[simp] theorem State.setCtx_freeCount (s : State) (c k : Nat) (x : Ctx) : (s.setCtx c k x).freeCount = s.freeCount := rfl

/-! ### State.modCtx -/

@[simp] theorem State.modCtx_now (s : State) (c k : Nat) (f : Ctx → Ctx) : (s.modCtx c k f).now = s.now := rfl
@[simp] theorem State.modCtx_wallUnits (s : State) (c k : Nat) (f : Ctx → Ctx) : (s.modCtx c k f).wallUnits = s.wallUnits := rfl
@[simp] theorem State.modCtx_ppm (s : State) (c k : Nat) (f : Ctx → Ctx) : (s.modCtx c k f).ppm = s.ppm := rfl
@[simp] theorem State.modCtx_mem (s : State) (c k : Nat) (f : Ctx → Ctx) : (s.modCtx c k f).mem = s.mem := rfl
@[simp] theorem State.modCtx_tags (s : State) (c k : Nat) (f : Ctx → Ctx) : (s.modCtx c k f).tags = s.tags := rfl
@[simp] theorem State.modCtx_poison (s : State) (c k : Nat) (f : Ctx → Ctx) : (s.modCtx c k f).poison = s.poison := rfl
@[simp] theorem State.modCtx_cores (s : State) (c k : Nat) (f : Ctx → Ctx) : (s.modCtx c k f).cores = mapSet s.cores c ((s.core c).setCtx k (f (s.ctx c k))) := rfl
@[simp] theorem State.modCtx_octets (s : State) (c k : Nat) (f : Ctx → Ctx) : (s.modCtx c k f).octets = s.octets := rfl
@[simp] theorem State.modCtx_ports (s : State) (c k : Nat) (f : Ctx → Ctx) : (s.modCtx c k f).ports = s.ports := rfl
@[simp] theorem State.modCtx_parts (s : State) (c k : Nat) (f : Ctx → Ctx) : (s.modCtx c k f).parts = s.parts := rfl
@[simp] theorem State.modCtx_tlbs (s : State) (c k : Nat) (f : Ctx → Ctx) : (s.modCtx c k f).tlbs = s.tlbs := rfl
@[simp] theorem State.modCtx_walkCache (s : State) (c k : Nat) (f : Ctx → Ctx) : (s.modCtx c k f).walkCache = s.walkCache := rfl
@[simp] theorem State.modCtx_walkers (s : State) (c k : Nat) (f : Ctx → Ctx) : (s.modCtx c k f).walkers = s.walkers := rfl
@[simp] theorem State.modCtx_commonOctet (s : State) (c k : Nat) (f : Ctx → Ctx) : (s.modCtx c k f).commonOctet = s.commonOctet := rfl
@[simp] theorem State.modCtx_routes (s : State) (c k : Nat) (f : Ctx → Ctx) : (s.modCtx c k f).routes = s.routes := rfl
@[simp] theorem State.modCtx_farMoves (s : State) (c k : Nat) (f : Ctx → Ctx) : (s.modCtx c k f).farMoves = s.farMoves := rfl
@[simp] theorem State.modCtx_rmas (s : State) (c k : Nat) (f : Ctx → Ctx) : (s.modCtx c k f).rmas = s.rmas := rfl
@[simp] theorem State.modCtx_rails (s : State) (c k : Nat) (f : Ctx → Ctx) : (s.modCtx c k f).rails = s.rails := rfl
@[simp] theorem State.modCtx_fabPorts (s : State) (c k : Nat) (f : Ctx → Ctx) : (s.modCtx c k f).fabPorts = s.fabPorts := rfl
@[simp] theorem State.modCtx_fabric (s : State) (c k : Nat) (f : Ctx → Ctx) : (s.modCtx c k f).fabric = s.fabric := rfl
@[simp] theorem State.modCtx_module (s : State) (c k : Nat) (f : Ctx → Ctx) : (s.modCtx c k f).module = s.module := rfl
@[simp] theorem State.modCtx_boot (s : State) (c k : Nat) (f : Ctx → Ctx) : (s.modCtx c k f).boot = s.boot := rfl
@[simp] theorem State.modCtx_measF (s : State) (c k : Nat) (f : Ctx → Ctx) : (s.modCtx c k f).measF = s.measF := rfl
@[simp] theorem State.modCtx_evseq (s : State) (c k : Nat) (f : Ctx → Ctx) : (s.modCtx c k f).evseq = s.evseq := rfl
@[simp] theorem State.modCtx_mchecks (s : State) (c k : Nat) (f : Ctx → Ctx) : (s.modCtx c k f).mchecks = s.mchecks := rfl
@[simp] theorem State.modCtx_snapAt (s : State) (c k : Nat) (f : Ctx → Ctx) : (s.modCtx c k f).snapAt = s.snapAt := rfl
@[simp] theorem State.modCtx_snapshot (s : State) (c k : Nat) (f : Ctx → Ctx) : (s.modCtx c k f).snapshot = s.snapshot := rfl
@[simp] theorem State.modCtx_reports (s : State) (c k : Nat) (f : Ctx → Ctx) : (s.modCtx c k f).reports = s.reports := rfl
@[simp] theorem State.modCtx_hostOut (s : State) (c k : Nat) (f : Ctx → Ctx) : (s.modCtx c k f).hostOut = s.hostOut := rfl
@[simp] theorem State.modCtx_fabOut (s : State) (c k : Nat) (f : Ctx → Ctx) : (s.modCtx c k f).fabOut = s.fabOut := rfl
@[simp] theorem State.modCtx_fabAcks (s : State) (c k : Nat) (f : Ctx → Ctx) : (s.modCtx c k f).fabAcks = s.fabAcks := rfl
@[simp] theorem State.modCtx_focusCore (s : State) (c k : Nat) (f : Ctx → Ctx) : (s.modCtx c k f).focusCore = s.focusCore := rfl
@[simp] theorem State.modCtx_focusCtx (s : State) (c k : Nat) (f : Ctx → Ctx) : (s.modCtx c k f).focusCtx = s.focusCtx := rfl
@[simp] theorem State.modCtx_flights (s : State) (c k : Nat) (f : Ctx → Ctx) : (s.modCtx c k f).flights = s.flights := rfl
@[simp] theorem State.modCtx_timers (s : State) (c k : Nat) (f : Ctx → Ctx) : (s.modCtx c k f).timers = s.timers := rfl
@[simp] theorem State.modCtx_turns (s : State) (c k : Nat) (f : Ctx → Ctx) : (s.modCtx c k f).turns = s.turns := rfl
@[simp] theorem State.modCtx_serial (s : State) (c k : Nat) (f : Ctx → Ctx) : (s.modCtx c k f).serial = s.serial := rfl
@[simp] theorem State.modCtx_freeCount (s : State) (c k : Nat) (f : Ctx → Ctx) : (s.modCtx c k f).freeCount = s.freeCount := rfl

/-! ### State.setFctx -/

@[simp] theorem State.setFctx_now (s : State) (x : Ctx) : (s.setFctx x).now = s.now := rfl
@[simp] theorem State.setFctx_wallUnits (s : State) (x : Ctx) : (s.setFctx x).wallUnits = s.wallUnits := rfl
@[simp] theorem State.setFctx_ppm (s : State) (x : Ctx) : (s.setFctx x).ppm = s.ppm := rfl
@[simp] theorem State.setFctx_mem (s : State) (x : Ctx) : (s.setFctx x).mem = s.mem := rfl
@[simp] theorem State.setFctx_tags (s : State) (x : Ctx) : (s.setFctx x).tags = s.tags := rfl
@[simp] theorem State.setFctx_poison (s : State) (x : Ctx) : (s.setFctx x).poison = s.poison := rfl
@[simp] theorem State.setFctx_cores (s : State) (x : Ctx) : (s.setFctx x).cores = mapSet s.cores s.focusCore (s.fcore.setCtx s.focusCtx x) := rfl
@[simp] theorem State.setFctx_octets (s : State) (x : Ctx) : (s.setFctx x).octets = s.octets := rfl
@[simp] theorem State.setFctx_ports (s : State) (x : Ctx) : (s.setFctx x).ports = s.ports := rfl
@[simp] theorem State.setFctx_parts (s : State) (x : Ctx) : (s.setFctx x).parts = s.parts := rfl
@[simp] theorem State.setFctx_tlbs (s : State) (x : Ctx) : (s.setFctx x).tlbs = s.tlbs := rfl
@[simp] theorem State.setFctx_walkCache (s : State) (x : Ctx) : (s.setFctx x).walkCache = s.walkCache := rfl
@[simp] theorem State.setFctx_walkers (s : State) (x : Ctx) : (s.setFctx x).walkers = s.walkers := rfl
@[simp] theorem State.setFctx_commonOctet (s : State) (x : Ctx) : (s.setFctx x).commonOctet = s.commonOctet := rfl
@[simp] theorem State.setFctx_routes (s : State) (x : Ctx) : (s.setFctx x).routes = s.routes := rfl
@[simp] theorem State.setFctx_farMoves (s : State) (x : Ctx) : (s.setFctx x).farMoves = s.farMoves := rfl
@[simp] theorem State.setFctx_rmas (s : State) (x : Ctx) : (s.setFctx x).rmas = s.rmas := rfl
@[simp] theorem State.setFctx_rails (s : State) (x : Ctx) : (s.setFctx x).rails = s.rails := rfl
@[simp] theorem State.setFctx_fabPorts (s : State) (x : Ctx) : (s.setFctx x).fabPorts = s.fabPorts := rfl
@[simp] theorem State.setFctx_fabric (s : State) (x : Ctx) : (s.setFctx x).fabric = s.fabric := rfl
@[simp] theorem State.setFctx_module (s : State) (x : Ctx) : (s.setFctx x).module = s.module := rfl
@[simp] theorem State.setFctx_boot (s : State) (x : Ctx) : (s.setFctx x).boot = s.boot := rfl
@[simp] theorem State.setFctx_measF (s : State) (x : Ctx) : (s.setFctx x).measF = s.measF := rfl
@[simp] theorem State.setFctx_evseq (s : State) (x : Ctx) : (s.setFctx x).evseq = s.evseq := rfl
@[simp] theorem State.setFctx_mchecks (s : State) (x : Ctx) : (s.setFctx x).mchecks = s.mchecks := rfl
@[simp] theorem State.setFctx_snapAt (s : State) (x : Ctx) : (s.setFctx x).snapAt = s.snapAt := rfl
@[simp] theorem State.setFctx_snapshot (s : State) (x : Ctx) : (s.setFctx x).snapshot = s.snapshot := rfl
@[simp] theorem State.setFctx_reports (s : State) (x : Ctx) : (s.setFctx x).reports = s.reports := rfl
@[simp] theorem State.setFctx_hostOut (s : State) (x : Ctx) : (s.setFctx x).hostOut = s.hostOut := rfl
@[simp] theorem State.setFctx_fabOut (s : State) (x : Ctx) : (s.setFctx x).fabOut = s.fabOut := rfl
@[simp] theorem State.setFctx_fabAcks (s : State) (x : Ctx) : (s.setFctx x).fabAcks = s.fabAcks := rfl
@[simp] theorem State.setFctx_focusCore (s : State) (x : Ctx) : (s.setFctx x).focusCore = s.focusCore := rfl
@[simp] theorem State.setFctx_focusCtx (s : State) (x : Ctx) : (s.setFctx x).focusCtx = s.focusCtx := rfl
@[simp] theorem State.setFctx_flights (s : State) (x : Ctx) : (s.setFctx x).flights = s.flights := rfl
@[simp] theorem State.setFctx_timers (s : State) (x : Ctx) : (s.setFctx x).timers = s.timers := rfl
@[simp] theorem State.setFctx_turns (s : State) (x : Ctx) : (s.setFctx x).turns = s.turns := rfl
@[simp] theorem State.setFctx_serial (s : State) (x : Ctx) : (s.setFctx x).serial = s.serial := rfl
@[simp] theorem State.setFctx_freeCount (s : State) (x : Ctx) : (s.setFctx x).freeCount = s.freeCount := rfl

/-! ### State.modF -/

@[simp] theorem State.modF_now (s : State) (f : Ctx → Ctx) : (s.modF f).now = s.now := rfl
@[simp] theorem State.modF_wallUnits (s : State) (f : Ctx → Ctx) : (s.modF f).wallUnits = s.wallUnits := rfl
@[simp] theorem State.modF_ppm (s : State) (f : Ctx → Ctx) : (s.modF f).ppm = s.ppm := rfl
@[simp] theorem State.modF_mem (s : State) (f : Ctx → Ctx) : (s.modF f).mem = s.mem := rfl
@[simp] theorem State.modF_tags (s : State) (f : Ctx → Ctx) : (s.modF f).tags = s.tags := rfl
@[simp] theorem State.modF_poison (s : State) (f : Ctx → Ctx) : (s.modF f).poison = s.poison := rfl
@[simp] theorem State.modF_cores (s : State) (f : Ctx → Ctx) : (s.modF f).cores = mapSet s.cores s.focusCore (s.fcore.setCtx s.focusCtx (f s.fctx)) := rfl
@[simp] theorem State.modF_octets (s : State) (f : Ctx → Ctx) : (s.modF f).octets = s.octets := rfl
@[simp] theorem State.modF_ports (s : State) (f : Ctx → Ctx) : (s.modF f).ports = s.ports := rfl
@[simp] theorem State.modF_parts (s : State) (f : Ctx → Ctx) : (s.modF f).parts = s.parts := rfl
@[simp] theorem State.modF_tlbs (s : State) (f : Ctx → Ctx) : (s.modF f).tlbs = s.tlbs := rfl
@[simp] theorem State.modF_walkCache (s : State) (f : Ctx → Ctx) : (s.modF f).walkCache = s.walkCache := rfl
@[simp] theorem State.modF_walkers (s : State) (f : Ctx → Ctx) : (s.modF f).walkers = s.walkers := rfl
@[simp] theorem State.modF_commonOctet (s : State) (f : Ctx → Ctx) : (s.modF f).commonOctet = s.commonOctet := rfl
@[simp] theorem State.modF_routes (s : State) (f : Ctx → Ctx) : (s.modF f).routes = s.routes := rfl
@[simp] theorem State.modF_farMoves (s : State) (f : Ctx → Ctx) : (s.modF f).farMoves = s.farMoves := rfl
@[simp] theorem State.modF_rmas (s : State) (f : Ctx → Ctx) : (s.modF f).rmas = s.rmas := rfl
@[simp] theorem State.modF_rails (s : State) (f : Ctx → Ctx) : (s.modF f).rails = s.rails := rfl
@[simp] theorem State.modF_fabPorts (s : State) (f : Ctx → Ctx) : (s.modF f).fabPorts = s.fabPorts := rfl
@[simp] theorem State.modF_fabric (s : State) (f : Ctx → Ctx) : (s.modF f).fabric = s.fabric := rfl
@[simp] theorem State.modF_module (s : State) (f : Ctx → Ctx) : (s.modF f).module = s.module := rfl
@[simp] theorem State.modF_boot (s : State) (f : Ctx → Ctx) : (s.modF f).boot = s.boot := rfl
@[simp] theorem State.modF_measF (s : State) (f : Ctx → Ctx) : (s.modF f).measF = s.measF := rfl
@[simp] theorem State.modF_evseq (s : State) (f : Ctx → Ctx) : (s.modF f).evseq = s.evseq := rfl
@[simp] theorem State.modF_mchecks (s : State) (f : Ctx → Ctx) : (s.modF f).mchecks = s.mchecks := rfl
@[simp] theorem State.modF_snapAt (s : State) (f : Ctx → Ctx) : (s.modF f).snapAt = s.snapAt := rfl
@[simp] theorem State.modF_snapshot (s : State) (f : Ctx → Ctx) : (s.modF f).snapshot = s.snapshot := rfl
@[simp] theorem State.modF_reports (s : State) (f : Ctx → Ctx) : (s.modF f).reports = s.reports := rfl
@[simp] theorem State.modF_hostOut (s : State) (f : Ctx → Ctx) : (s.modF f).hostOut = s.hostOut := rfl
@[simp] theorem State.modF_fabOut (s : State) (f : Ctx → Ctx) : (s.modF f).fabOut = s.fabOut := rfl
@[simp] theorem State.modF_fabAcks (s : State) (f : Ctx → Ctx) : (s.modF f).fabAcks = s.fabAcks := rfl
@[simp] theorem State.modF_focusCore (s : State) (f : Ctx → Ctx) : (s.modF f).focusCore = s.focusCore := rfl
@[simp] theorem State.modF_focusCtx (s : State) (f : Ctx → Ctx) : (s.modF f).focusCtx = s.focusCtx := rfl
@[simp] theorem State.modF_flights (s : State) (f : Ctx → Ctx) : (s.modF f).flights = s.flights := rfl
@[simp] theorem State.modF_timers (s : State) (f : Ctx → Ctx) : (s.modF f).timers = s.timers := rfl
@[simp] theorem State.modF_turns (s : State) (f : Ctx → Ctx) : (s.modF f).turns = s.turns := rfl
@[simp] theorem State.modF_serial (s : State) (f : Ctx → Ctx) : (s.modF f).serial = s.serial := rfl
@[simp] theorem State.modF_freeCount (s : State) (f : Ctx → Ctx) : (s.modF f).freeCount = s.freeCount := rfl

/-! ### State.modFcore -/

@[simp] theorem State.modFcore_now (s : State) (f : Core → Core) : (s.modFcore f).now = s.now := rfl
@[simp] theorem State.modFcore_wallUnits (s : State) (f : Core → Core) : (s.modFcore f).wallUnits = s.wallUnits := rfl
@[simp] theorem State.modFcore_ppm (s : State) (f : Core → Core) : (s.modFcore f).ppm = s.ppm := rfl
@[simp] theorem State.modFcore_mem (s : State) (f : Core → Core) : (s.modFcore f).mem = s.mem := rfl
@[simp] theorem State.modFcore_tags (s : State) (f : Core → Core) : (s.modFcore f).tags = s.tags := rfl
@[simp] theorem State.modFcore_poison (s : State) (f : Core → Core) : (s.modFcore f).poison = s.poison := rfl
@[simp] theorem State.modFcore_cores (s : State) (f : Core → Core) : (s.modFcore f).cores = mapSet s.cores s.focusCore (f s.fcore) := rfl
@[simp] theorem State.modFcore_octets (s : State) (f : Core → Core) : (s.modFcore f).octets = s.octets := rfl
@[simp] theorem State.modFcore_ports (s : State) (f : Core → Core) : (s.modFcore f).ports = s.ports := rfl
@[simp] theorem State.modFcore_parts (s : State) (f : Core → Core) : (s.modFcore f).parts = s.parts := rfl
@[simp] theorem State.modFcore_tlbs (s : State) (f : Core → Core) : (s.modFcore f).tlbs = s.tlbs := rfl
@[simp] theorem State.modFcore_walkCache (s : State) (f : Core → Core) : (s.modFcore f).walkCache = s.walkCache := rfl
@[simp] theorem State.modFcore_walkers (s : State) (f : Core → Core) : (s.modFcore f).walkers = s.walkers := rfl
@[simp] theorem State.modFcore_commonOctet (s : State) (f : Core → Core) : (s.modFcore f).commonOctet = s.commonOctet := rfl
@[simp] theorem State.modFcore_routes (s : State) (f : Core → Core) : (s.modFcore f).routes = s.routes := rfl
@[simp] theorem State.modFcore_farMoves (s : State) (f : Core → Core) : (s.modFcore f).farMoves = s.farMoves := rfl
@[simp] theorem State.modFcore_rmas (s : State) (f : Core → Core) : (s.modFcore f).rmas = s.rmas := rfl
@[simp] theorem State.modFcore_rails (s : State) (f : Core → Core) : (s.modFcore f).rails = s.rails := rfl
@[simp] theorem State.modFcore_fabPorts (s : State) (f : Core → Core) : (s.modFcore f).fabPorts = s.fabPorts := rfl
@[simp] theorem State.modFcore_fabric (s : State) (f : Core → Core) : (s.modFcore f).fabric = s.fabric := rfl
@[simp] theorem State.modFcore_module (s : State) (f : Core → Core) : (s.modFcore f).module = s.module := rfl
@[simp] theorem State.modFcore_boot (s : State) (f : Core → Core) : (s.modFcore f).boot = s.boot := rfl
@[simp] theorem State.modFcore_measF (s : State) (f : Core → Core) : (s.modFcore f).measF = s.measF := rfl
@[simp] theorem State.modFcore_evseq (s : State) (f : Core → Core) : (s.modFcore f).evseq = s.evseq := rfl
@[simp] theorem State.modFcore_mchecks (s : State) (f : Core → Core) : (s.modFcore f).mchecks = s.mchecks := rfl
@[simp] theorem State.modFcore_snapAt (s : State) (f : Core → Core) : (s.modFcore f).snapAt = s.snapAt := rfl
@[simp] theorem State.modFcore_snapshot (s : State) (f : Core → Core) : (s.modFcore f).snapshot = s.snapshot := rfl
@[simp] theorem State.modFcore_reports (s : State) (f : Core → Core) : (s.modFcore f).reports = s.reports := rfl
@[simp] theorem State.modFcore_hostOut (s : State) (f : Core → Core) : (s.modFcore f).hostOut = s.hostOut := rfl
@[simp] theorem State.modFcore_fabOut (s : State) (f : Core → Core) : (s.modFcore f).fabOut = s.fabOut := rfl
@[simp] theorem State.modFcore_fabAcks (s : State) (f : Core → Core) : (s.modFcore f).fabAcks = s.fabAcks := rfl
@[simp] theorem State.modFcore_focusCore (s : State) (f : Core → Core) : (s.modFcore f).focusCore = s.focusCore := rfl
@[simp] theorem State.modFcore_focusCtx (s : State) (f : Core → Core) : (s.modFcore f).focusCtx = s.focusCtx := rfl
@[simp] theorem State.modFcore_flights (s : State) (f : Core → Core) : (s.modFcore f).flights = s.flights := rfl
@[simp] theorem State.modFcore_timers (s : State) (f : Core → Core) : (s.modFcore f).timers = s.timers := rfl
@[simp] theorem State.modFcore_turns (s : State) (f : Core → Core) : (s.modFcore f).turns = s.turns := rfl
@[simp] theorem State.modFcore_serial (s : State) (f : Core → Core) : (s.modFcore f).serial = s.serial := rfl
@[simp] theorem State.modFcore_freeCount (s : State) (f : Core → Core) : (s.modFcore f).freeCount = s.freeCount := rfl

/-! ### State.setOctet -/

@[simp] theorem State.setOctet_now (s : State) (o : Nat) (x : Octet) : (s.setOctet o x).now = s.now := rfl
@[simp] theorem State.setOctet_wallUnits (s : State) (o : Nat) (x : Octet) : (s.setOctet o x).wallUnits = s.wallUnits := rfl
@[simp] theorem State.setOctet_ppm (s : State) (o : Nat) (x : Octet) : (s.setOctet o x).ppm = s.ppm := rfl
@[simp] theorem State.setOctet_mem (s : State) (o : Nat) (x : Octet) : (s.setOctet o x).mem = s.mem := rfl
@[simp] theorem State.setOctet_tags (s : State) (o : Nat) (x : Octet) : (s.setOctet o x).tags = s.tags := rfl
@[simp] theorem State.setOctet_poison (s : State) (o : Nat) (x : Octet) : (s.setOctet o x).poison = s.poison := rfl
@[simp] theorem State.setOctet_cores (s : State) (o : Nat) (x : Octet) : (s.setOctet o x).cores = s.cores := rfl
@[simp] theorem State.setOctet_octets (s : State) (o : Nat) (x : Octet) : (s.setOctet o x).octets = mapSet s.octets o x := rfl
@[simp] theorem State.setOctet_ports (s : State) (o : Nat) (x : Octet) : (s.setOctet o x).ports = s.ports := rfl
@[simp] theorem State.setOctet_parts (s : State) (o : Nat) (x : Octet) : (s.setOctet o x).parts = s.parts := rfl
@[simp] theorem State.setOctet_tlbs (s : State) (o : Nat) (x : Octet) : (s.setOctet o x).tlbs = s.tlbs := rfl
@[simp] theorem State.setOctet_walkCache (s : State) (o : Nat) (x : Octet) : (s.setOctet o x).walkCache = s.walkCache := rfl
@[simp] theorem State.setOctet_walkers (s : State) (o : Nat) (x : Octet) : (s.setOctet o x).walkers = s.walkers := rfl
@[simp] theorem State.setOctet_commonOctet (s : State) (o : Nat) (x : Octet) : (s.setOctet o x).commonOctet = s.commonOctet := rfl
@[simp] theorem State.setOctet_routes (s : State) (o : Nat) (x : Octet) : (s.setOctet o x).routes = s.routes := rfl
@[simp] theorem State.setOctet_farMoves (s : State) (o : Nat) (x : Octet) : (s.setOctet o x).farMoves = s.farMoves := rfl
@[simp] theorem State.setOctet_rmas (s : State) (o : Nat) (x : Octet) : (s.setOctet o x).rmas = s.rmas := rfl
@[simp] theorem State.setOctet_rails (s : State) (o : Nat) (x : Octet) : (s.setOctet o x).rails = s.rails := rfl
@[simp] theorem State.setOctet_fabPorts (s : State) (o : Nat) (x : Octet) : (s.setOctet o x).fabPorts = s.fabPorts := rfl
@[simp] theorem State.setOctet_fabric (s : State) (o : Nat) (x : Octet) : (s.setOctet o x).fabric = s.fabric := rfl
@[simp] theorem State.setOctet_module (s : State) (o : Nat) (x : Octet) : (s.setOctet o x).module = s.module := rfl
@[simp] theorem State.setOctet_boot (s : State) (o : Nat) (x : Octet) : (s.setOctet o x).boot = s.boot := rfl
@[simp] theorem State.setOctet_measF (s : State) (o : Nat) (x : Octet) : (s.setOctet o x).measF = s.measF := rfl
@[simp] theorem State.setOctet_evseq (s : State) (o : Nat) (x : Octet) : (s.setOctet o x).evseq = s.evseq := rfl
@[simp] theorem State.setOctet_mchecks (s : State) (o : Nat) (x : Octet) : (s.setOctet o x).mchecks = s.mchecks := rfl
@[simp] theorem State.setOctet_snapAt (s : State) (o : Nat) (x : Octet) : (s.setOctet o x).snapAt = s.snapAt := rfl
@[simp] theorem State.setOctet_snapshot (s : State) (o : Nat) (x : Octet) : (s.setOctet o x).snapshot = s.snapshot := rfl
@[simp] theorem State.setOctet_reports (s : State) (o : Nat) (x : Octet) : (s.setOctet o x).reports = s.reports := rfl
@[simp] theorem State.setOctet_hostOut (s : State) (o : Nat) (x : Octet) : (s.setOctet o x).hostOut = s.hostOut := rfl
@[simp] theorem State.setOctet_fabOut (s : State) (o : Nat) (x : Octet) : (s.setOctet o x).fabOut = s.fabOut := rfl
@[simp] theorem State.setOctet_fabAcks (s : State) (o : Nat) (x : Octet) : (s.setOctet o x).fabAcks = s.fabAcks := rfl
@[simp] theorem State.setOctet_focusCore (s : State) (o : Nat) (x : Octet) : (s.setOctet o x).focusCore = s.focusCore := rfl
@[simp] theorem State.setOctet_focusCtx (s : State) (o : Nat) (x : Octet) : (s.setOctet o x).focusCtx = s.focusCtx := rfl
@[simp] theorem State.setOctet_flights (s : State) (o : Nat) (x : Octet) : (s.setOctet o x).flights = s.flights := rfl
@[simp] theorem State.setOctet_timers (s : State) (o : Nat) (x : Octet) : (s.setOctet o x).timers = s.timers := rfl
@[simp] theorem State.setOctet_turns (s : State) (o : Nat) (x : Octet) : (s.setOctet o x).turns = s.turns := rfl
@[simp] theorem State.setOctet_serial (s : State) (o : Nat) (x : Octet) : (s.setOctet o x).serial = s.serial := rfl
@[simp] theorem State.setOctet_freeCount (s : State) (o : Nat) (x : Octet) : (s.setOctet o x).freeCount = s.freeCount := rfl

/-! ### State.modOctet -/

@[simp] theorem State.modOctet_now (s : State) (o : Nat) (f : Octet → Octet) : (s.modOctet o f).now = s.now := rfl
@[simp] theorem State.modOctet_wallUnits (s : State) (o : Nat) (f : Octet → Octet) : (s.modOctet o f).wallUnits = s.wallUnits := rfl
@[simp] theorem State.modOctet_ppm (s : State) (o : Nat) (f : Octet → Octet) : (s.modOctet o f).ppm = s.ppm := rfl
@[simp] theorem State.modOctet_mem (s : State) (o : Nat) (f : Octet → Octet) : (s.modOctet o f).mem = s.mem := rfl
@[simp] theorem State.modOctet_tags (s : State) (o : Nat) (f : Octet → Octet) : (s.modOctet o f).tags = s.tags := rfl
@[simp] theorem State.modOctet_poison (s : State) (o : Nat) (f : Octet → Octet) : (s.modOctet o f).poison = s.poison := rfl
@[simp] theorem State.modOctet_cores (s : State) (o : Nat) (f : Octet → Octet) : (s.modOctet o f).cores = s.cores := rfl
@[simp] theorem State.modOctet_octets (s : State) (o : Nat) (f : Octet → Octet) : (s.modOctet o f).octets = mapSet s.octets o (f (s.octet o)) := rfl
@[simp] theorem State.modOctet_ports (s : State) (o : Nat) (f : Octet → Octet) : (s.modOctet o f).ports = s.ports := rfl
@[simp] theorem State.modOctet_parts (s : State) (o : Nat) (f : Octet → Octet) : (s.modOctet o f).parts = s.parts := rfl
@[simp] theorem State.modOctet_tlbs (s : State) (o : Nat) (f : Octet → Octet) : (s.modOctet o f).tlbs = s.tlbs := rfl
@[simp] theorem State.modOctet_walkCache (s : State) (o : Nat) (f : Octet → Octet) : (s.modOctet o f).walkCache = s.walkCache := rfl
@[simp] theorem State.modOctet_walkers (s : State) (o : Nat) (f : Octet → Octet) : (s.modOctet o f).walkers = s.walkers := rfl
@[simp] theorem State.modOctet_commonOctet (s : State) (o : Nat) (f : Octet → Octet) : (s.modOctet o f).commonOctet = s.commonOctet := rfl
@[simp] theorem State.modOctet_routes (s : State) (o : Nat) (f : Octet → Octet) : (s.modOctet o f).routes = s.routes := rfl
@[simp] theorem State.modOctet_farMoves (s : State) (o : Nat) (f : Octet → Octet) : (s.modOctet o f).farMoves = s.farMoves := rfl
@[simp] theorem State.modOctet_rmas (s : State) (o : Nat) (f : Octet → Octet) : (s.modOctet o f).rmas = s.rmas := rfl
@[simp] theorem State.modOctet_rails (s : State) (o : Nat) (f : Octet → Octet) : (s.modOctet o f).rails = s.rails := rfl
@[simp] theorem State.modOctet_fabPorts (s : State) (o : Nat) (f : Octet → Octet) : (s.modOctet o f).fabPorts = s.fabPorts := rfl
@[simp] theorem State.modOctet_fabric (s : State) (o : Nat) (f : Octet → Octet) : (s.modOctet o f).fabric = s.fabric := rfl
@[simp] theorem State.modOctet_module (s : State) (o : Nat) (f : Octet → Octet) : (s.modOctet o f).module = s.module := rfl
@[simp] theorem State.modOctet_boot (s : State) (o : Nat) (f : Octet → Octet) : (s.modOctet o f).boot = s.boot := rfl
@[simp] theorem State.modOctet_measF (s : State) (o : Nat) (f : Octet → Octet) : (s.modOctet o f).measF = s.measF := rfl
@[simp] theorem State.modOctet_evseq (s : State) (o : Nat) (f : Octet → Octet) : (s.modOctet o f).evseq = s.evseq := rfl
@[simp] theorem State.modOctet_mchecks (s : State) (o : Nat) (f : Octet → Octet) : (s.modOctet o f).mchecks = s.mchecks := rfl
@[simp] theorem State.modOctet_snapAt (s : State) (o : Nat) (f : Octet → Octet) : (s.modOctet o f).snapAt = s.snapAt := rfl
@[simp] theorem State.modOctet_snapshot (s : State) (o : Nat) (f : Octet → Octet) : (s.modOctet o f).snapshot = s.snapshot := rfl
@[simp] theorem State.modOctet_reports (s : State) (o : Nat) (f : Octet → Octet) : (s.modOctet o f).reports = s.reports := rfl
@[simp] theorem State.modOctet_hostOut (s : State) (o : Nat) (f : Octet → Octet) : (s.modOctet o f).hostOut = s.hostOut := rfl
@[simp] theorem State.modOctet_fabOut (s : State) (o : Nat) (f : Octet → Octet) : (s.modOctet o f).fabOut = s.fabOut := rfl
@[simp] theorem State.modOctet_fabAcks (s : State) (o : Nat) (f : Octet → Octet) : (s.modOctet o f).fabAcks = s.fabAcks := rfl
@[simp] theorem State.modOctet_focusCore (s : State) (o : Nat) (f : Octet → Octet) : (s.modOctet o f).focusCore = s.focusCore := rfl
@[simp] theorem State.modOctet_focusCtx (s : State) (o : Nat) (f : Octet → Octet) : (s.modOctet o f).focusCtx = s.focusCtx := rfl
@[simp] theorem State.modOctet_flights (s : State) (o : Nat) (f : Octet → Octet) : (s.modOctet o f).flights = s.flights := rfl
@[simp] theorem State.modOctet_timers (s : State) (o : Nat) (f : Octet → Octet) : (s.modOctet o f).timers = s.timers := rfl
@[simp] theorem State.modOctet_turns (s : State) (o : Nat) (f : Octet → Octet) : (s.modOctet o f).turns = s.turns := rfl
@[simp] theorem State.modOctet_serial (s : State) (o : Nat) (f : Octet → Octet) : (s.modOctet o f).serial = s.serial := rfl
@[simp] theorem State.modOctet_freeCount (s : State) (o : Nat) (f : Octet → Octet) : (s.modOctet o f).freeCount = s.freeCount := rfl

/-! ### State.modPort -/

@[simp] theorem State.modPort_now (s : State) (p : Nat) (f : Port → Port) : (s.modPort p f).now = s.now := rfl
@[simp] theorem State.modPort_wallUnits (s : State) (p : Nat) (f : Port → Port) : (s.modPort p f).wallUnits = s.wallUnits := rfl
@[simp] theorem State.modPort_ppm (s : State) (p : Nat) (f : Port → Port) : (s.modPort p f).ppm = s.ppm := rfl
@[simp] theorem State.modPort_mem (s : State) (p : Nat) (f : Port → Port) : (s.modPort p f).mem = s.mem := rfl
@[simp] theorem State.modPort_tags (s : State) (p : Nat) (f : Port → Port) : (s.modPort p f).tags = s.tags := rfl
@[simp] theorem State.modPort_poison (s : State) (p : Nat) (f : Port → Port) : (s.modPort p f).poison = s.poison := rfl
@[simp] theorem State.modPort_cores (s : State) (p : Nat) (f : Port → Port) : (s.modPort p f).cores = s.cores := rfl
@[simp] theorem State.modPort_octets (s : State) (p : Nat) (f : Port → Port) : (s.modPort p f).octets = s.octets := rfl
@[simp] theorem State.modPort_ports (s : State) (p : Nat) (f : Port → Port) : (s.modPort p f).ports = mapSet s.ports p (f (s.port p)) := rfl
@[simp] theorem State.modPort_parts (s : State) (p : Nat) (f : Port → Port) : (s.modPort p f).parts = s.parts := rfl
@[simp] theorem State.modPort_tlbs (s : State) (p : Nat) (f : Port → Port) : (s.modPort p f).tlbs = s.tlbs := rfl
@[simp] theorem State.modPort_walkCache (s : State) (p : Nat) (f : Port → Port) : (s.modPort p f).walkCache = s.walkCache := rfl
@[simp] theorem State.modPort_walkers (s : State) (p : Nat) (f : Port → Port) : (s.modPort p f).walkers = s.walkers := rfl
@[simp] theorem State.modPort_commonOctet (s : State) (p : Nat) (f : Port → Port) : (s.modPort p f).commonOctet = s.commonOctet := rfl
@[simp] theorem State.modPort_routes (s : State) (p : Nat) (f : Port → Port) : (s.modPort p f).routes = s.routes := rfl
@[simp] theorem State.modPort_farMoves (s : State) (p : Nat) (f : Port → Port) : (s.modPort p f).farMoves = s.farMoves := rfl
@[simp] theorem State.modPort_rmas (s : State) (p : Nat) (f : Port → Port) : (s.modPort p f).rmas = s.rmas := rfl
@[simp] theorem State.modPort_rails (s : State) (p : Nat) (f : Port → Port) : (s.modPort p f).rails = s.rails := rfl
@[simp] theorem State.modPort_fabPorts (s : State) (p : Nat) (f : Port → Port) : (s.modPort p f).fabPorts = s.fabPorts := rfl
@[simp] theorem State.modPort_fabric (s : State) (p : Nat) (f : Port → Port) : (s.modPort p f).fabric = s.fabric := rfl
@[simp] theorem State.modPort_module (s : State) (p : Nat) (f : Port → Port) : (s.modPort p f).module = s.module := rfl
@[simp] theorem State.modPort_boot (s : State) (p : Nat) (f : Port → Port) : (s.modPort p f).boot = s.boot := rfl
@[simp] theorem State.modPort_measF (s : State) (p : Nat) (f : Port → Port) : (s.modPort p f).measF = s.measF := rfl
@[simp] theorem State.modPort_evseq (s : State) (p : Nat) (f : Port → Port) : (s.modPort p f).evseq = s.evseq := rfl
@[simp] theorem State.modPort_mchecks (s : State) (p : Nat) (f : Port → Port) : (s.modPort p f).mchecks = s.mchecks := rfl
@[simp] theorem State.modPort_snapAt (s : State) (p : Nat) (f : Port → Port) : (s.modPort p f).snapAt = s.snapAt := rfl
@[simp] theorem State.modPort_snapshot (s : State) (p : Nat) (f : Port → Port) : (s.modPort p f).snapshot = s.snapshot := rfl
@[simp] theorem State.modPort_reports (s : State) (p : Nat) (f : Port → Port) : (s.modPort p f).reports = s.reports := rfl
@[simp] theorem State.modPort_hostOut (s : State) (p : Nat) (f : Port → Port) : (s.modPort p f).hostOut = s.hostOut := rfl
@[simp] theorem State.modPort_fabOut (s : State) (p : Nat) (f : Port → Port) : (s.modPort p f).fabOut = s.fabOut := rfl
@[simp] theorem State.modPort_fabAcks (s : State) (p : Nat) (f : Port → Port) : (s.modPort p f).fabAcks = s.fabAcks := rfl
@[simp] theorem State.modPort_focusCore (s : State) (p : Nat) (f : Port → Port) : (s.modPort p f).focusCore = s.focusCore := rfl
@[simp] theorem State.modPort_focusCtx (s : State) (p : Nat) (f : Port → Port) : (s.modPort p f).focusCtx = s.focusCtx := rfl
@[simp] theorem State.modPort_flights (s : State) (p : Nat) (f : Port → Port) : (s.modPort p f).flights = s.flights := rfl
@[simp] theorem State.modPort_timers (s : State) (p : Nat) (f : Port → Port) : (s.modPort p f).timers = s.timers := rfl
@[simp] theorem State.modPort_turns (s : State) (p : Nat) (f : Port → Port) : (s.modPort p f).turns = s.turns := rfl
@[simp] theorem State.modPort_serial (s : State) (p : Nat) (f : Port → Port) : (s.modPort p f).serial = s.serial := rfl
@[simp] theorem State.modPort_freeCount (s : State) (p : Nat) (f : Port → Port) : (s.modPort p f).freeCount = s.freeCount := rfl

/-! ### State.write -/

@[simp] theorem State.write_now (s : State) (key n v : Nat) : (s.write key n v).now = s.now := rfl
@[simp] theorem State.write_wallUnits (s : State) (key n v : Nat) : (s.write key n v).wallUnits = s.wallUnits := rfl
@[simp] theorem State.write_ppm (s : State) (key n v : Nat) : (s.write key n v).ppm = s.ppm := rfl
@[simp] theorem State.write_mem (s : State) (key n v : Nat) : (s.write key n v).mem = memWrite s.mem key n v := rfl
@[simp] theorem State.write_tags (s : State) (key n v : Nat) : (s.write key n v).tags = s.tags := rfl
@[simp] theorem State.write_poison (s : State) (key n v : Nat) : (s.write key n v).poison = s.poison := rfl
@[simp] theorem State.write_cores (s : State) (key n v : Nat) : (s.write key n v).cores = s.cores := rfl
@[simp] theorem State.write_octets (s : State) (key n v : Nat) : (s.write key n v).octets = s.octets := rfl
@[simp] theorem State.write_ports (s : State) (key n v : Nat) : (s.write key n v).ports = s.ports := rfl
@[simp] theorem State.write_parts (s : State) (key n v : Nat) : (s.write key n v).parts = s.parts := rfl
@[simp] theorem State.write_tlbs (s : State) (key n v : Nat) : (s.write key n v).tlbs = s.tlbs := rfl
@[simp] theorem State.write_walkCache (s : State) (key n v : Nat) : (s.write key n v).walkCache = s.walkCache := rfl
@[simp] theorem State.write_walkers (s : State) (key n v : Nat) : (s.write key n v).walkers = s.walkers := rfl
@[simp] theorem State.write_commonOctet (s : State) (key n v : Nat) : (s.write key n v).commonOctet = s.commonOctet := rfl
@[simp] theorem State.write_routes (s : State) (key n v : Nat) : (s.write key n v).routes = s.routes := rfl
@[simp] theorem State.write_farMoves (s : State) (key n v : Nat) : (s.write key n v).farMoves = s.farMoves := rfl
@[simp] theorem State.write_rmas (s : State) (key n v : Nat) : (s.write key n v).rmas = s.rmas := rfl
@[simp] theorem State.write_rails (s : State) (key n v : Nat) : (s.write key n v).rails = s.rails := rfl
@[simp] theorem State.write_fabPorts (s : State) (key n v : Nat) : (s.write key n v).fabPorts = s.fabPorts := rfl
@[simp] theorem State.write_fabric (s : State) (key n v : Nat) : (s.write key n v).fabric = s.fabric := rfl
@[simp] theorem State.write_module (s : State) (key n v : Nat) : (s.write key n v).module = s.module := rfl
@[simp] theorem State.write_boot (s : State) (key n v : Nat) : (s.write key n v).boot = s.boot := rfl
@[simp] theorem State.write_measF (s : State) (key n v : Nat) : (s.write key n v).measF = s.measF := rfl
@[simp] theorem State.write_evseq (s : State) (key n v : Nat) : (s.write key n v).evseq = s.evseq := rfl
@[simp] theorem State.write_mchecks (s : State) (key n v : Nat) : (s.write key n v).mchecks = s.mchecks := rfl
@[simp] theorem State.write_snapAt (s : State) (key n v : Nat) : (s.write key n v).snapAt = s.snapAt := rfl
@[simp] theorem State.write_snapshot (s : State) (key n v : Nat) : (s.write key n v).snapshot = s.snapshot := rfl
@[simp] theorem State.write_reports (s : State) (key n v : Nat) : (s.write key n v).reports = s.reports := rfl
@[simp] theorem State.write_hostOut (s : State) (key n v : Nat) : (s.write key n v).hostOut = s.hostOut := rfl
@[simp] theorem State.write_fabOut (s : State) (key n v : Nat) : (s.write key n v).fabOut = s.fabOut := rfl
@[simp] theorem State.write_fabAcks (s : State) (key n v : Nat) : (s.write key n v).fabAcks = s.fabAcks := rfl
@[simp] theorem State.write_focusCore (s : State) (key n v : Nat) : (s.write key n v).focusCore = s.focusCore := rfl
@[simp] theorem State.write_focusCtx (s : State) (key n v : Nat) : (s.write key n v).focusCtx = s.focusCtx := rfl
@[simp] theorem State.write_flights (s : State) (key n v : Nat) : (s.write key n v).flights = s.flights := rfl
@[simp] theorem State.write_timers (s : State) (key n v : Nat) : (s.write key n v).timers = s.timers := rfl
@[simp] theorem State.write_turns (s : State) (key n v : Nat) : (s.write key n v).turns = s.turns := rfl
@[simp] theorem State.write_serial (s : State) (key n v : Nat) : (s.write key n v).serial = s.serial := rfl
@[simp] theorem State.write_freeCount (s : State) (key n v : Nat) : (s.write key n v).freeCount = s.freeCount := rfl

/-! ### State.setTag -/

@[simp] theorem State.setTag_now (s : State) (key : Nat) (b : Bool) : (s.setTag key b).now = s.now := by unfold State.setTag; split <;> rfl
@[simp] theorem State.setTag_wallUnits (s : State) (key : Nat) (b : Bool) : (s.setTag key b).wallUnits = s.wallUnits := by unfold State.setTag; split <;> rfl
@[simp] theorem State.setTag_ppm (s : State) (key : Nat) (b : Bool) : (s.setTag key b).ppm = s.ppm := by unfold State.setTag; split <;> rfl
@[simp] theorem State.setTag_mem (s : State) (key : Nat) (b : Bool) : (s.setTag key b).mem = s.mem := by unfold State.setTag; split <;> rfl
@[simp] theorem State.setTag_poison (s : State) (key : Nat) (b : Bool) : (s.setTag key b).poison = s.poison := by unfold State.setTag; split <;> rfl
@[simp] theorem State.setTag_cores (s : State) (key : Nat) (b : Bool) : (s.setTag key b).cores = s.cores := by unfold State.setTag; split <;> rfl
@[simp] theorem State.setTag_octets (s : State) (key : Nat) (b : Bool) : (s.setTag key b).octets = s.octets := by unfold State.setTag; split <;> rfl
@[simp] theorem State.setTag_ports (s : State) (key : Nat) (b : Bool) : (s.setTag key b).ports = s.ports := by unfold State.setTag; split <;> rfl
@[simp] theorem State.setTag_parts (s : State) (key : Nat) (b : Bool) : (s.setTag key b).parts = s.parts := by unfold State.setTag; split <;> rfl
@[simp] theorem State.setTag_tlbs (s : State) (key : Nat) (b : Bool) : (s.setTag key b).tlbs = s.tlbs := by unfold State.setTag; split <;> rfl
@[simp] theorem State.setTag_walkCache (s : State) (key : Nat) (b : Bool) : (s.setTag key b).walkCache = s.walkCache := by unfold State.setTag; split <;> rfl
@[simp] theorem State.setTag_walkers (s : State) (key : Nat) (b : Bool) : (s.setTag key b).walkers = s.walkers := by unfold State.setTag; split <;> rfl
@[simp] theorem State.setTag_commonOctet (s : State) (key : Nat) (b : Bool) : (s.setTag key b).commonOctet = s.commonOctet := by unfold State.setTag; split <;> rfl
@[simp] theorem State.setTag_routes (s : State) (key : Nat) (b : Bool) : (s.setTag key b).routes = s.routes := by unfold State.setTag; split <;> rfl
@[simp] theorem State.setTag_farMoves (s : State) (key : Nat) (b : Bool) : (s.setTag key b).farMoves = s.farMoves := by unfold State.setTag; split <;> rfl
@[simp] theorem State.setTag_rmas (s : State) (key : Nat) (b : Bool) : (s.setTag key b).rmas = s.rmas := by unfold State.setTag; split <;> rfl
@[simp] theorem State.setTag_rails (s : State) (key : Nat) (b : Bool) : (s.setTag key b).rails = s.rails := by unfold State.setTag; split <;> rfl
@[simp] theorem State.setTag_fabPorts (s : State) (key : Nat) (b : Bool) : (s.setTag key b).fabPorts = s.fabPorts := by unfold State.setTag; split <;> rfl
@[simp] theorem State.setTag_fabric (s : State) (key : Nat) (b : Bool) : (s.setTag key b).fabric = s.fabric := by unfold State.setTag; split <;> rfl
@[simp] theorem State.setTag_module (s : State) (key : Nat) (b : Bool) : (s.setTag key b).module = s.module := by unfold State.setTag; split <;> rfl
@[simp] theorem State.setTag_boot (s : State) (key : Nat) (b : Bool) : (s.setTag key b).boot = s.boot := by unfold State.setTag; split <;> rfl
@[simp] theorem State.setTag_measF (s : State) (key : Nat) (b : Bool) : (s.setTag key b).measF = s.measF := by unfold State.setTag; split <;> rfl
@[simp] theorem State.setTag_evseq (s : State) (key : Nat) (b : Bool) : (s.setTag key b).evseq = s.evseq := by unfold State.setTag; split <;> rfl
@[simp] theorem State.setTag_mchecks (s : State) (key : Nat) (b : Bool) : (s.setTag key b).mchecks = s.mchecks := by unfold State.setTag; split <;> rfl
@[simp] theorem State.setTag_snapAt (s : State) (key : Nat) (b : Bool) : (s.setTag key b).snapAt = s.snapAt := by unfold State.setTag; split <;> rfl
@[simp] theorem State.setTag_snapshot (s : State) (key : Nat) (b : Bool) : (s.setTag key b).snapshot = s.snapshot := by unfold State.setTag; split <;> rfl
@[simp] theorem State.setTag_reports (s : State) (key : Nat) (b : Bool) : (s.setTag key b).reports = s.reports := by unfold State.setTag; split <;> rfl
@[simp] theorem State.setTag_hostOut (s : State) (key : Nat) (b : Bool) : (s.setTag key b).hostOut = s.hostOut := by unfold State.setTag; split <;> rfl
@[simp] theorem State.setTag_fabOut (s : State) (key : Nat) (b : Bool) : (s.setTag key b).fabOut = s.fabOut := by unfold State.setTag; split <;> rfl
@[simp] theorem State.setTag_fabAcks (s : State) (key : Nat) (b : Bool) : (s.setTag key b).fabAcks = s.fabAcks := by unfold State.setTag; split <;> rfl
@[simp] theorem State.setTag_focusCore (s : State) (key : Nat) (b : Bool) : (s.setTag key b).focusCore = s.focusCore := by unfold State.setTag; split <;> rfl
@[simp] theorem State.setTag_focusCtx (s : State) (key : Nat) (b : Bool) : (s.setTag key b).focusCtx = s.focusCtx := by unfold State.setTag; split <;> rfl
@[simp] theorem State.setTag_flights (s : State) (key : Nat) (b : Bool) : (s.setTag key b).flights = s.flights := by unfold State.setTag; split <;> rfl
@[simp] theorem State.setTag_timers (s : State) (key : Nat) (b : Bool) : (s.setTag key b).timers = s.timers := by unfold State.setTag; split <;> rfl
@[simp] theorem State.setTag_turns (s : State) (key : Nat) (b : Bool) : (s.setTag key b).turns = s.turns := by unfold State.setTag; split <;> rfl
@[simp] theorem State.setTag_serial (s : State) (key : Nat) (b : Bool) : (s.setTag key b).serial = s.serial := by unfold State.setTag; split <;> rfl
@[simp] theorem State.setTag_freeCount (s : State) (key : Nat) (b : Bool) : (s.setTag key b).freeCount = s.freeCount := by unfold State.setTag; split <;> rfl

/-! ### State.setPoison -/

@[simp] theorem State.setPoison_now (s : State) (key : Nat) : (s.setPoison key).now = s.now := rfl
@[simp] theorem State.setPoison_wallUnits (s : State) (key : Nat) : (s.setPoison key).wallUnits = s.wallUnits := rfl
@[simp] theorem State.setPoison_ppm (s : State) (key : Nat) : (s.setPoison key).ppm = s.ppm := rfl
@[simp] theorem State.setPoison_mem (s : State) (key : Nat) : (s.setPoison key).mem = s.mem := rfl
@[simp] theorem State.setPoison_tags (s : State) (key : Nat) : (s.setPoison key).tags = s.tags := rfl
@[simp] theorem State.setPoison_poison (s : State) (key : Nat) : (s.setPoison key).poison = insertKey s.poison (wordKey key) := rfl
@[simp] theorem State.setPoison_cores (s : State) (key : Nat) : (s.setPoison key).cores = s.cores := rfl
@[simp] theorem State.setPoison_octets (s : State) (key : Nat) : (s.setPoison key).octets = s.octets := rfl
@[simp] theorem State.setPoison_ports (s : State) (key : Nat) : (s.setPoison key).ports = s.ports := rfl
@[simp] theorem State.setPoison_parts (s : State) (key : Nat) : (s.setPoison key).parts = s.parts := rfl
@[simp] theorem State.setPoison_tlbs (s : State) (key : Nat) : (s.setPoison key).tlbs = s.tlbs := rfl
@[simp] theorem State.setPoison_walkCache (s : State) (key : Nat) : (s.setPoison key).walkCache = s.walkCache := rfl
@[simp] theorem State.setPoison_walkers (s : State) (key : Nat) : (s.setPoison key).walkers = s.walkers := rfl
@[simp] theorem State.setPoison_commonOctet (s : State) (key : Nat) : (s.setPoison key).commonOctet = s.commonOctet := rfl
@[simp] theorem State.setPoison_routes (s : State) (key : Nat) : (s.setPoison key).routes = s.routes := rfl
@[simp] theorem State.setPoison_farMoves (s : State) (key : Nat) : (s.setPoison key).farMoves = s.farMoves := rfl
@[simp] theorem State.setPoison_rmas (s : State) (key : Nat) : (s.setPoison key).rmas = s.rmas := rfl
@[simp] theorem State.setPoison_rails (s : State) (key : Nat) : (s.setPoison key).rails = s.rails := rfl
@[simp] theorem State.setPoison_fabPorts (s : State) (key : Nat) : (s.setPoison key).fabPorts = s.fabPorts := rfl
@[simp] theorem State.setPoison_fabric (s : State) (key : Nat) : (s.setPoison key).fabric = s.fabric := rfl
@[simp] theorem State.setPoison_module (s : State) (key : Nat) : (s.setPoison key).module = s.module := rfl
@[simp] theorem State.setPoison_boot (s : State) (key : Nat) : (s.setPoison key).boot = s.boot := rfl
@[simp] theorem State.setPoison_measF (s : State) (key : Nat) : (s.setPoison key).measF = s.measF := rfl
@[simp] theorem State.setPoison_evseq (s : State) (key : Nat) : (s.setPoison key).evseq = s.evseq := rfl
@[simp] theorem State.setPoison_mchecks (s : State) (key : Nat) : (s.setPoison key).mchecks = s.mchecks := rfl
@[simp] theorem State.setPoison_snapAt (s : State) (key : Nat) : (s.setPoison key).snapAt = s.snapAt := rfl
@[simp] theorem State.setPoison_snapshot (s : State) (key : Nat) : (s.setPoison key).snapshot = s.snapshot := rfl
@[simp] theorem State.setPoison_reports (s : State) (key : Nat) : (s.setPoison key).reports = s.reports := rfl
@[simp] theorem State.setPoison_hostOut (s : State) (key : Nat) : (s.setPoison key).hostOut = s.hostOut := rfl
@[simp] theorem State.setPoison_fabOut (s : State) (key : Nat) : (s.setPoison key).fabOut = s.fabOut := rfl
@[simp] theorem State.setPoison_fabAcks (s : State) (key : Nat) : (s.setPoison key).fabAcks = s.fabAcks := rfl
@[simp] theorem State.setPoison_focusCore (s : State) (key : Nat) : (s.setPoison key).focusCore = s.focusCore := rfl
@[simp] theorem State.setPoison_focusCtx (s : State) (key : Nat) : (s.setPoison key).focusCtx = s.focusCtx := rfl
@[simp] theorem State.setPoison_flights (s : State) (key : Nat) : (s.setPoison key).flights = s.flights := rfl
@[simp] theorem State.setPoison_timers (s : State) (key : Nat) : (s.setPoison key).timers = s.timers := rfl
@[simp] theorem State.setPoison_turns (s : State) (key : Nat) : (s.setPoison key).turns = s.turns := rfl
@[simp] theorem State.setPoison_serial (s : State) (key : Nat) : (s.setPoison key).serial = s.serial := rfl
@[simp] theorem State.setPoison_freeCount (s : State) (key : Nat) : (s.setPoison key).freeCount = s.freeCount := rfl

/-! ### State.clearPoison -/

@[simp] theorem State.clearPoison_now (s : State) (key : Nat) : (s.clearPoison key).now = s.now := by unfold State.clearPoison; split <;> rfl
@[simp] theorem State.clearPoison_wallUnits (s : State) (key : Nat) : (s.clearPoison key).wallUnits = s.wallUnits := by unfold State.clearPoison; split <;> rfl
@[simp] theorem State.clearPoison_ppm (s : State) (key : Nat) : (s.clearPoison key).ppm = s.ppm := by unfold State.clearPoison; split <;> rfl
@[simp] theorem State.clearPoison_mem (s : State) (key : Nat) : (s.clearPoison key).mem = s.mem := by unfold State.clearPoison; split <;> rfl
@[simp] theorem State.clearPoison_cores (s : State) (key : Nat) : (s.clearPoison key).cores = s.cores := by unfold State.clearPoison; split <;> rfl
@[simp] theorem State.clearPoison_octets (s : State) (key : Nat) : (s.clearPoison key).octets = s.octets := by unfold State.clearPoison; split <;> rfl
@[simp] theorem State.clearPoison_ports (s : State) (key : Nat) : (s.clearPoison key).ports = s.ports := by unfold State.clearPoison; split <;> rfl
@[simp] theorem State.clearPoison_parts (s : State) (key : Nat) : (s.clearPoison key).parts = s.parts := by unfold State.clearPoison; split <;> rfl
@[simp] theorem State.clearPoison_tlbs (s : State) (key : Nat) : (s.clearPoison key).tlbs = s.tlbs := by unfold State.clearPoison; split <;> rfl
@[simp] theorem State.clearPoison_walkCache (s : State) (key : Nat) : (s.clearPoison key).walkCache = s.walkCache := by unfold State.clearPoison; split <;> rfl
@[simp] theorem State.clearPoison_walkers (s : State) (key : Nat) : (s.clearPoison key).walkers = s.walkers := by unfold State.clearPoison; split <;> rfl
@[simp] theorem State.clearPoison_commonOctet (s : State) (key : Nat) : (s.clearPoison key).commonOctet = s.commonOctet := by unfold State.clearPoison; split <;> rfl
@[simp] theorem State.clearPoison_routes (s : State) (key : Nat) : (s.clearPoison key).routes = s.routes := by unfold State.clearPoison; split <;> rfl
@[simp] theorem State.clearPoison_farMoves (s : State) (key : Nat) : (s.clearPoison key).farMoves = s.farMoves := by unfold State.clearPoison; split <;> rfl
@[simp] theorem State.clearPoison_rmas (s : State) (key : Nat) : (s.clearPoison key).rmas = s.rmas := by unfold State.clearPoison; split <;> rfl
@[simp] theorem State.clearPoison_rails (s : State) (key : Nat) : (s.clearPoison key).rails = s.rails := by unfold State.clearPoison; split <;> rfl
@[simp] theorem State.clearPoison_fabPorts (s : State) (key : Nat) : (s.clearPoison key).fabPorts = s.fabPorts := by unfold State.clearPoison; split <;> rfl
@[simp] theorem State.clearPoison_fabric (s : State) (key : Nat) : (s.clearPoison key).fabric = s.fabric := by unfold State.clearPoison; split <;> rfl
@[simp] theorem State.clearPoison_module (s : State) (key : Nat) : (s.clearPoison key).module = s.module := by unfold State.clearPoison; split <;> rfl
@[simp] theorem State.clearPoison_boot (s : State) (key : Nat) : (s.clearPoison key).boot = s.boot := by unfold State.clearPoison; split <;> rfl
@[simp] theorem State.clearPoison_measF (s : State) (key : Nat) : (s.clearPoison key).measF = s.measF := by unfold State.clearPoison; split <;> rfl
@[simp] theorem State.clearPoison_evseq (s : State) (key : Nat) : (s.clearPoison key).evseq = s.evseq := by unfold State.clearPoison; split <;> rfl
@[simp] theorem State.clearPoison_mchecks (s : State) (key : Nat) : (s.clearPoison key).mchecks = s.mchecks := by unfold State.clearPoison; split <;> rfl
@[simp] theorem State.clearPoison_snapAt (s : State) (key : Nat) : (s.clearPoison key).snapAt = s.snapAt := by unfold State.clearPoison; split <;> rfl
@[simp] theorem State.clearPoison_snapshot (s : State) (key : Nat) : (s.clearPoison key).snapshot = s.snapshot := by unfold State.clearPoison; split <;> rfl
@[simp] theorem State.clearPoison_reports (s : State) (key : Nat) : (s.clearPoison key).reports = s.reports := by unfold State.clearPoison; split <;> rfl
@[simp] theorem State.clearPoison_hostOut (s : State) (key : Nat) : (s.clearPoison key).hostOut = s.hostOut := by unfold State.clearPoison; split <;> rfl
@[simp] theorem State.clearPoison_fabOut (s : State) (key : Nat) : (s.clearPoison key).fabOut = s.fabOut := by unfold State.clearPoison; split <;> rfl
@[simp] theorem State.clearPoison_fabAcks (s : State) (key : Nat) : (s.clearPoison key).fabAcks = s.fabAcks := by unfold State.clearPoison; split <;> rfl
@[simp] theorem State.clearPoison_focusCore (s : State) (key : Nat) : (s.clearPoison key).focusCore = s.focusCore := by unfold State.clearPoison; split <;> rfl
@[simp] theorem State.clearPoison_focusCtx (s : State) (key : Nat) : (s.clearPoison key).focusCtx = s.focusCtx := by unfold State.clearPoison; split <;> rfl
@[simp] theorem State.clearPoison_flights (s : State) (key : Nat) : (s.clearPoison key).flights = s.flights := by unfold State.clearPoison; split <;> rfl
@[simp] theorem State.clearPoison_timers (s : State) (key : Nat) : (s.clearPoison key).timers = s.timers := by unfold State.clearPoison; split <;> rfl
@[simp] theorem State.clearPoison_turns (s : State) (key : Nat) : (s.clearPoison key).turns = s.turns := by unfold State.clearPoison; split <;> rfl
@[simp] theorem State.clearPoison_serial (s : State) (key : Nat) : (s.clearPoison key).serial = s.serial := by unfold State.clearPoison; split <;> rfl
@[simp] theorem State.clearPoison_freeCount (s : State) (key : Nat) : (s.clearPoison key).freeCount = s.freeCount := by unfold State.clearPoison; split <;> rfl

/-! ### State.modPart -/

@[simp] theorem State.modPart_now (s : State) (p : Nat) (f : Partition → Partition) : (s.modPart p f).now = s.now := by unfold State.modPart; split <;> rfl
@[simp] theorem State.modPart_wallUnits (s : State) (p : Nat) (f : Partition → Partition) : (s.modPart p f).wallUnits = s.wallUnits := by unfold State.modPart; split <;> rfl
@[simp] theorem State.modPart_ppm (s : State) (p : Nat) (f : Partition → Partition) : (s.modPart p f).ppm = s.ppm := by unfold State.modPart; split <;> rfl
@[simp] theorem State.modPart_mem (s : State) (p : Nat) (f : Partition → Partition) : (s.modPart p f).mem = s.mem := by unfold State.modPart; split <;> rfl
@[simp] theorem State.modPart_tags (s : State) (p : Nat) (f : Partition → Partition) : (s.modPart p f).tags = s.tags := by unfold State.modPart; split <;> rfl
@[simp] theorem State.modPart_poison (s : State) (p : Nat) (f : Partition → Partition) : (s.modPart p f).poison = s.poison := by unfold State.modPart; split <;> rfl
@[simp] theorem State.modPart_cores (s : State) (p : Nat) (f : Partition → Partition) : (s.modPart p f).cores = s.cores := by unfold State.modPart; split <;> rfl
@[simp] theorem State.modPart_octets (s : State) (p : Nat) (f : Partition → Partition) : (s.modPart p f).octets = s.octets := by unfold State.modPart; split <;> rfl
@[simp] theorem State.modPart_ports (s : State) (p : Nat) (f : Partition → Partition) : (s.modPart p f).ports = s.ports := by unfold State.modPart; split <;> rfl
@[simp] theorem State.modPart_tlbs (s : State) (p : Nat) (f : Partition → Partition) : (s.modPart p f).tlbs = s.tlbs := by unfold State.modPart; split <;> rfl
@[simp] theorem State.modPart_walkCache (s : State) (p : Nat) (f : Partition → Partition) : (s.modPart p f).walkCache = s.walkCache := by unfold State.modPart; split <;> rfl
@[simp] theorem State.modPart_walkers (s : State) (p : Nat) (f : Partition → Partition) : (s.modPart p f).walkers = s.walkers := by unfold State.modPart; split <;> rfl
@[simp] theorem State.modPart_commonOctet (s : State) (p : Nat) (f : Partition → Partition) : (s.modPart p f).commonOctet = s.commonOctet := by unfold State.modPart; split <;> rfl
@[simp] theorem State.modPart_routes (s : State) (p : Nat) (f : Partition → Partition) : (s.modPart p f).routes = s.routes := by unfold State.modPart; split <;> rfl
@[simp] theorem State.modPart_farMoves (s : State) (p : Nat) (f : Partition → Partition) : (s.modPart p f).farMoves = s.farMoves := by unfold State.modPart; split <;> rfl
@[simp] theorem State.modPart_rmas (s : State) (p : Nat) (f : Partition → Partition) : (s.modPart p f).rmas = s.rmas := by unfold State.modPart; split <;> rfl
@[simp] theorem State.modPart_rails (s : State) (p : Nat) (f : Partition → Partition) : (s.modPart p f).rails = s.rails := by unfold State.modPart; split <;> rfl
@[simp] theorem State.modPart_fabPorts (s : State) (p : Nat) (f : Partition → Partition) : (s.modPart p f).fabPorts = s.fabPorts := by unfold State.modPart; split <;> rfl
@[simp] theorem State.modPart_fabric (s : State) (p : Nat) (f : Partition → Partition) : (s.modPart p f).fabric = s.fabric := by unfold State.modPart; split <;> rfl
@[simp] theorem State.modPart_module (s : State) (p : Nat) (f : Partition → Partition) : (s.modPart p f).module = s.module := by unfold State.modPart; split <;> rfl
@[simp] theorem State.modPart_boot (s : State) (p : Nat) (f : Partition → Partition) : (s.modPart p f).boot = s.boot := by unfold State.modPart; split <;> rfl
@[simp] theorem State.modPart_measF (s : State) (p : Nat) (f : Partition → Partition) : (s.modPart p f).measF = s.measF := by unfold State.modPart; split <;> rfl
@[simp] theorem State.modPart_evseq (s : State) (p : Nat) (f : Partition → Partition) : (s.modPart p f).evseq = s.evseq := by unfold State.modPart; split <;> rfl
@[simp] theorem State.modPart_mchecks (s : State) (p : Nat) (f : Partition → Partition) : (s.modPart p f).mchecks = s.mchecks := by unfold State.modPart; split <;> rfl
@[simp] theorem State.modPart_snapAt (s : State) (p : Nat) (f : Partition → Partition) : (s.modPart p f).snapAt = s.snapAt := by unfold State.modPart; split <;> rfl
@[simp] theorem State.modPart_snapshot (s : State) (p : Nat) (f : Partition → Partition) : (s.modPart p f).snapshot = s.snapshot := by unfold State.modPart; split <;> rfl
@[simp] theorem State.modPart_reports (s : State) (p : Nat) (f : Partition → Partition) : (s.modPart p f).reports = s.reports := by unfold State.modPart; split <;> rfl
@[simp] theorem State.modPart_hostOut (s : State) (p : Nat) (f : Partition → Partition) : (s.modPart p f).hostOut = s.hostOut := by unfold State.modPart; split <;> rfl
@[simp] theorem State.modPart_fabOut (s : State) (p : Nat) (f : Partition → Partition) : (s.modPart p f).fabOut = s.fabOut := by unfold State.modPart; split <;> rfl
@[simp] theorem State.modPart_fabAcks (s : State) (p : Nat) (f : Partition → Partition) : (s.modPart p f).fabAcks = s.fabAcks := by unfold State.modPart; split <;> rfl
@[simp] theorem State.modPart_focusCore (s : State) (p : Nat) (f : Partition → Partition) : (s.modPart p f).focusCore = s.focusCore := by unfold State.modPart; split <;> rfl
@[simp] theorem State.modPart_focusCtx (s : State) (p : Nat) (f : Partition → Partition) : (s.modPart p f).focusCtx = s.focusCtx := by unfold State.modPart; split <;> rfl
@[simp] theorem State.modPart_flights (s : State) (p : Nat) (f : Partition → Partition) : (s.modPart p f).flights = s.flights := by unfold State.modPart; split <;> rfl
@[simp] theorem State.modPart_timers (s : State) (p : Nat) (f : Partition → Partition) : (s.modPart p f).timers = s.timers := by unfold State.modPart; split <;> rfl
@[simp] theorem State.modPart_turns (s : State) (p : Nat) (f : Partition → Partition) : (s.modPart p f).turns = s.turns := by unfold State.modPart; split <;> rfl
@[simp] theorem State.modPart_serial (s : State) (p : Nat) (f : Partition → Partition) : (s.modPart p f).serial = s.serial := by unfold State.modPart; split <;> rfl
@[simp] theorem State.modPart_freeCount (s : State) (p : Nat) (f : Partition → Partition) : (s.modPart p f).freeCount = s.freeCount := by unfold State.modPart; split <;> rfl

/-! ### State.fly -/

@[simp] theorem State.fly_now (s : State) (src dst vn : Nat) (e : Event) : (s.fly src dst vn e).now = s.now := rfl
@[simp] theorem State.fly_wallUnits (s : State) (src dst vn : Nat) (e : Event) : (s.fly src dst vn e).wallUnits = s.wallUnits := rfl
@[simp] theorem State.fly_ppm (s : State) (src dst vn : Nat) (e : Event) : (s.fly src dst vn e).ppm = s.ppm := rfl
@[simp] theorem State.fly_mem (s : State) (src dst vn : Nat) (e : Event) : (s.fly src dst vn e).mem = s.mem := rfl
@[simp] theorem State.fly_tags (s : State) (src dst vn : Nat) (e : Event) : (s.fly src dst vn e).tags = s.tags := rfl
@[simp] theorem State.fly_poison (s : State) (src dst vn : Nat) (e : Event) : (s.fly src dst vn e).poison = s.poison := rfl
@[simp] theorem State.fly_cores (s : State) (src dst vn : Nat) (e : Event) : (s.fly src dst vn e).cores = s.cores := rfl
@[simp] theorem State.fly_octets (s : State) (src dst vn : Nat) (e : Event) : (s.fly src dst vn e).octets = s.octets := rfl
@[simp] theorem State.fly_ports (s : State) (src dst vn : Nat) (e : Event) : (s.fly src dst vn e).ports = s.ports := rfl
@[simp] theorem State.fly_parts (s : State) (src dst vn : Nat) (e : Event) : (s.fly src dst vn e).parts = s.parts := rfl
@[simp] theorem State.fly_tlbs (s : State) (src dst vn : Nat) (e : Event) : (s.fly src dst vn e).tlbs = s.tlbs := rfl
@[simp] theorem State.fly_walkCache (s : State) (src dst vn : Nat) (e : Event) : (s.fly src dst vn e).walkCache = s.walkCache := rfl
@[simp] theorem State.fly_walkers (s : State) (src dst vn : Nat) (e : Event) : (s.fly src dst vn e).walkers = s.walkers := rfl
@[simp] theorem State.fly_commonOctet (s : State) (src dst vn : Nat) (e : Event) : (s.fly src dst vn e).commonOctet = s.commonOctet := rfl
@[simp] theorem State.fly_routes (s : State) (src dst vn : Nat) (e : Event) : (s.fly src dst vn e).routes = s.routes := rfl
@[simp] theorem State.fly_farMoves (s : State) (src dst vn : Nat) (e : Event) : (s.fly src dst vn e).farMoves = s.farMoves := rfl
@[simp] theorem State.fly_rmas (s : State) (src dst vn : Nat) (e : Event) : (s.fly src dst vn e).rmas = s.rmas := rfl
@[simp] theorem State.fly_rails (s : State) (src dst vn : Nat) (e : Event) : (s.fly src dst vn e).rails = s.rails := rfl
@[simp] theorem State.fly_fabPorts (s : State) (src dst vn : Nat) (e : Event) : (s.fly src dst vn e).fabPorts = s.fabPorts := rfl
@[simp] theorem State.fly_fabric (s : State) (src dst vn : Nat) (e : Event) : (s.fly src dst vn e).fabric = s.fabric := rfl
@[simp] theorem State.fly_module (s : State) (src dst vn : Nat) (e : Event) : (s.fly src dst vn e).module = s.module := rfl
@[simp] theorem State.fly_boot (s : State) (src dst vn : Nat) (e : Event) : (s.fly src dst vn e).boot = s.boot := rfl
@[simp] theorem State.fly_measF (s : State) (src dst vn : Nat) (e : Event) : (s.fly src dst vn e).measF = s.measF := rfl
@[simp] theorem State.fly_evseq (s : State) (src dst vn : Nat) (e : Event) : (s.fly src dst vn e).evseq = s.evseq := rfl
@[simp] theorem State.fly_mchecks (s : State) (src dst vn : Nat) (e : Event) : (s.fly src dst vn e).mchecks = s.mchecks := rfl
@[simp] theorem State.fly_snapAt (s : State) (src dst vn : Nat) (e : Event) : (s.fly src dst vn e).snapAt = s.snapAt := rfl
@[simp] theorem State.fly_snapshot (s : State) (src dst vn : Nat) (e : Event) : (s.fly src dst vn e).snapshot = s.snapshot := rfl
@[simp] theorem State.fly_reports (s : State) (src dst vn : Nat) (e : Event) : (s.fly src dst vn e).reports = s.reports := rfl
@[simp] theorem State.fly_hostOut (s : State) (src dst vn : Nat) (e : Event) : (s.fly src dst vn e).hostOut = s.hostOut := rfl
@[simp] theorem State.fly_fabOut (s : State) (src dst vn : Nat) (e : Event) : (s.fly src dst vn e).fabOut = s.fabOut := rfl
@[simp] theorem State.fly_fabAcks (s : State) (src dst vn : Nat) (e : Event) : (s.fly src dst vn e).fabAcks = s.fabAcks := rfl
@[simp] theorem State.fly_focusCore (s : State) (src dst vn : Nat) (e : Event) : (s.fly src dst vn e).focusCore = s.focusCore := rfl
@[simp] theorem State.fly_focusCtx (s : State) (src dst vn : Nat) (e : Event) : (s.fly src dst vn e).focusCtx = s.focusCtx := rfl
@[simp] theorem State.fly_flights (s : State) (src dst vn : Nat) (e : Event) : (s.fly src dst vn e).flights = s.flights ++ [⟨src, dst, vn, e, [], false⟩] := rfl
@[simp] theorem State.fly_timers (s : State) (src dst vn : Nat) (e : Event) : (s.fly src dst vn e).timers = s.timers := rfl
@[simp] theorem State.fly_turns (s : State) (src dst vn : Nat) (e : Event) : (s.fly src dst vn e).turns = s.turns := rfl
@[simp] theorem State.fly_serial (s : State) (src dst vn : Nat) (e : Event) : (s.fly src dst vn e).serial = s.serial := rfl
@[simp] theorem State.fly_freeCount (s : State) (src dst vn : Nat) (e : Event) : (s.fly src dst vn e).freeCount = s.freeCount := rfl

/-! ### State.arm -/

@[simp] theorem State.arm_now (s : State) (due : Nat) (e : Event) : (s.arm due e).now = s.now := rfl
@[simp] theorem State.arm_wallUnits (s : State) (due : Nat) (e : Event) : (s.arm due e).wallUnits = s.wallUnits := rfl
@[simp] theorem State.arm_ppm (s : State) (due : Nat) (e : Event) : (s.arm due e).ppm = s.ppm := rfl
@[simp] theorem State.arm_mem (s : State) (due : Nat) (e : Event) : (s.arm due e).mem = s.mem := rfl
@[simp] theorem State.arm_tags (s : State) (due : Nat) (e : Event) : (s.arm due e).tags = s.tags := rfl
@[simp] theorem State.arm_poison (s : State) (due : Nat) (e : Event) : (s.arm due e).poison = s.poison := rfl
@[simp] theorem State.arm_cores (s : State) (due : Nat) (e : Event) : (s.arm due e).cores = s.cores := rfl
@[simp] theorem State.arm_octets (s : State) (due : Nat) (e : Event) : (s.arm due e).octets = s.octets := rfl
@[simp] theorem State.arm_ports (s : State) (due : Nat) (e : Event) : (s.arm due e).ports = s.ports := rfl
@[simp] theorem State.arm_parts (s : State) (due : Nat) (e : Event) : (s.arm due e).parts = s.parts := rfl
@[simp] theorem State.arm_tlbs (s : State) (due : Nat) (e : Event) : (s.arm due e).tlbs = s.tlbs := rfl
@[simp] theorem State.arm_walkCache (s : State) (due : Nat) (e : Event) : (s.arm due e).walkCache = s.walkCache := rfl
@[simp] theorem State.arm_walkers (s : State) (due : Nat) (e : Event) : (s.arm due e).walkers = s.walkers := rfl
@[simp] theorem State.arm_commonOctet (s : State) (due : Nat) (e : Event) : (s.arm due e).commonOctet = s.commonOctet := rfl
@[simp] theorem State.arm_routes (s : State) (due : Nat) (e : Event) : (s.arm due e).routes = s.routes := rfl
@[simp] theorem State.arm_farMoves (s : State) (due : Nat) (e : Event) : (s.arm due e).farMoves = s.farMoves := rfl
@[simp] theorem State.arm_rmas (s : State) (due : Nat) (e : Event) : (s.arm due e).rmas = s.rmas := rfl
@[simp] theorem State.arm_rails (s : State) (due : Nat) (e : Event) : (s.arm due e).rails = s.rails := rfl
@[simp] theorem State.arm_fabPorts (s : State) (due : Nat) (e : Event) : (s.arm due e).fabPorts = s.fabPorts := rfl
@[simp] theorem State.arm_fabric (s : State) (due : Nat) (e : Event) : (s.arm due e).fabric = s.fabric := rfl
@[simp] theorem State.arm_module (s : State) (due : Nat) (e : Event) : (s.arm due e).module = s.module := rfl
@[simp] theorem State.arm_boot (s : State) (due : Nat) (e : Event) : (s.arm due e).boot = s.boot := rfl
@[simp] theorem State.arm_measF (s : State) (due : Nat) (e : Event) : (s.arm due e).measF = s.measF := rfl
@[simp] theorem State.arm_evseq (s : State) (due : Nat) (e : Event) : (s.arm due e).evseq = s.evseq := rfl
@[simp] theorem State.arm_mchecks (s : State) (due : Nat) (e : Event) : (s.arm due e).mchecks = s.mchecks := rfl
@[simp] theorem State.arm_snapAt (s : State) (due : Nat) (e : Event) : (s.arm due e).snapAt = s.snapAt := rfl
@[simp] theorem State.arm_snapshot (s : State) (due : Nat) (e : Event) : (s.arm due e).snapshot = s.snapshot := rfl
@[simp] theorem State.arm_reports (s : State) (due : Nat) (e : Event) : (s.arm due e).reports = s.reports := rfl
@[simp] theorem State.arm_hostOut (s : State) (due : Nat) (e : Event) : (s.arm due e).hostOut = s.hostOut := rfl
@[simp] theorem State.arm_fabOut (s : State) (due : Nat) (e : Event) : (s.arm due e).fabOut = s.fabOut := rfl
@[simp] theorem State.arm_fabAcks (s : State) (due : Nat) (e : Event) : (s.arm due e).fabAcks = s.fabAcks := rfl
@[simp] theorem State.arm_focusCore (s : State) (due : Nat) (e : Event) : (s.arm due e).focusCore = s.focusCore := rfl
@[simp] theorem State.arm_focusCtx (s : State) (due : Nat) (e : Event) : (s.arm due e).focusCtx = s.focusCtx := rfl
@[simp] theorem State.arm_flights (s : State) (due : Nat) (e : Event) : (s.arm due e).flights = s.flights := rfl
@[simp] theorem State.arm_timers (s : State) (due : Nat) (e : Event) : (s.arm due e).timers = timerIns due e s.timers := rfl
@[simp] theorem State.arm_turns (s : State) (due : Nat) (e : Event) : (s.arm due e).turns = s.turns := rfl
@[simp] theorem State.arm_serial (s : State) (due : Nat) (e : Event) : (s.arm due e).serial = s.serial := rfl
@[simp] theorem State.arm_freeCount (s : State) (due : Nat) (e : Event) : (s.arm due e).freeCount = s.freeCount := rfl

/-! ### State.disarm -/

@[simp] theorem State.disarm_now (s : State) (e : Event) : (s.disarm e).now = s.now := rfl
@[simp] theorem State.disarm_wallUnits (s : State) (e : Event) : (s.disarm e).wallUnits = s.wallUnits := rfl
@[simp] theorem State.disarm_ppm (s : State) (e : Event) : (s.disarm e).ppm = s.ppm := rfl
@[simp] theorem State.disarm_mem (s : State) (e : Event) : (s.disarm e).mem = s.mem := rfl
@[simp] theorem State.disarm_tags (s : State) (e : Event) : (s.disarm e).tags = s.tags := rfl
@[simp] theorem State.disarm_poison (s : State) (e : Event) : (s.disarm e).poison = s.poison := rfl
@[simp] theorem State.disarm_cores (s : State) (e : Event) : (s.disarm e).cores = s.cores := rfl
@[simp] theorem State.disarm_octets (s : State) (e : Event) : (s.disarm e).octets = s.octets := rfl
@[simp] theorem State.disarm_ports (s : State) (e : Event) : (s.disarm e).ports = s.ports := rfl
@[simp] theorem State.disarm_parts (s : State) (e : Event) : (s.disarm e).parts = s.parts := rfl
@[simp] theorem State.disarm_tlbs (s : State) (e : Event) : (s.disarm e).tlbs = s.tlbs := rfl
@[simp] theorem State.disarm_walkCache (s : State) (e : Event) : (s.disarm e).walkCache = s.walkCache := rfl
@[simp] theorem State.disarm_walkers (s : State) (e : Event) : (s.disarm e).walkers = s.walkers := rfl
@[simp] theorem State.disarm_commonOctet (s : State) (e : Event) : (s.disarm e).commonOctet = s.commonOctet := rfl
@[simp] theorem State.disarm_routes (s : State) (e : Event) : (s.disarm e).routes = s.routes := rfl
@[simp] theorem State.disarm_farMoves (s : State) (e : Event) : (s.disarm e).farMoves = s.farMoves := rfl
@[simp] theorem State.disarm_rmas (s : State) (e : Event) : (s.disarm e).rmas = s.rmas := rfl
@[simp] theorem State.disarm_rails (s : State) (e : Event) : (s.disarm e).rails = s.rails := rfl
@[simp] theorem State.disarm_fabPorts (s : State) (e : Event) : (s.disarm e).fabPorts = s.fabPorts := rfl
@[simp] theorem State.disarm_fabric (s : State) (e : Event) : (s.disarm e).fabric = s.fabric := rfl
@[simp] theorem State.disarm_module (s : State) (e : Event) : (s.disarm e).module = s.module := rfl
@[simp] theorem State.disarm_boot (s : State) (e : Event) : (s.disarm e).boot = s.boot := rfl
@[simp] theorem State.disarm_measF (s : State) (e : Event) : (s.disarm e).measF = s.measF := rfl
@[simp] theorem State.disarm_evseq (s : State) (e : Event) : (s.disarm e).evseq = s.evseq := rfl
@[simp] theorem State.disarm_mchecks (s : State) (e : Event) : (s.disarm e).mchecks = s.mchecks := rfl
@[simp] theorem State.disarm_snapAt (s : State) (e : Event) : (s.disarm e).snapAt = s.snapAt := rfl
@[simp] theorem State.disarm_snapshot (s : State) (e : Event) : (s.disarm e).snapshot = s.snapshot := rfl
@[simp] theorem State.disarm_reports (s : State) (e : Event) : (s.disarm e).reports = s.reports := rfl
@[simp] theorem State.disarm_hostOut (s : State) (e : Event) : (s.disarm e).hostOut = s.hostOut := rfl
@[simp] theorem State.disarm_fabOut (s : State) (e : Event) : (s.disarm e).fabOut = s.fabOut := rfl
@[simp] theorem State.disarm_fabAcks (s : State) (e : Event) : (s.disarm e).fabAcks = s.fabAcks := rfl
@[simp] theorem State.disarm_focusCore (s : State) (e : Event) : (s.disarm e).focusCore = s.focusCore := rfl
@[simp] theorem State.disarm_focusCtx (s : State) (e : Event) : (s.disarm e).focusCtx = s.focusCtx := rfl
@[simp] theorem State.disarm_flights (s : State) (e : Event) : (s.disarm e).flights = s.flights := rfl
@[simp] theorem State.disarm_timers (s : State) (e : Event) : (s.disarm e).timers = s.timers.filter fun t => t.2 != e := rfl
@[simp] theorem State.disarm_turns (s : State) (e : Event) : (s.disarm e).turns = s.turns := rfl
@[simp] theorem State.disarm_serial (s : State) (e : Event) : (s.disarm e).serial = s.serial := rfl
@[simp] theorem State.disarm_freeCount (s : State) (e : Event) : (s.disarm e).freeCount = s.freeCount := rfl

end Sys2Proof.Machine
end

