-- ==== Sys2Proof/Laws/Ops.lean ====
section
/-! SUPPORT. What the named operations of Machine/Ops.lean do: tables, memory, contexts, and the shape of an instruction's
outcome. -/

namespace Sys2Proof.Machine

/-! ### Tables -/

theorem mapGet_mapSet_same {α : Type} (d : α) (l : SMap α) (k : Nat) (v : α) : mapGet d (mapSet l k v) k = v := by
  induction l with
  | nil => simp [mapSet, mapGet]
  | cons p t ih =>
    obtain ⟨j, w⟩ := p
    simp only [mapSet]
    split
    · simp [mapGet]
    · split
      · simp [mapGet]
      · simp [mapGet, *]

theorem mapGet_mapSet_other {α : Type} (d : α) (l : SMap α) (k n : Nat) (v : α) (h : n ≠ k) :
    mapGet d (mapSet l k v) n = mapGet d l n := by
  induction l with
  | nil => simp [mapSet, mapGet, h]
  | cons p t ih =>
    obtain ⟨j, w⟩ := p
    simp only [mapSet]
    split
    · simp [mapGet, h]
    · split
      · rename_i h1 h2; subst h2; simp [mapGet, h]
      · simp [mapGet, ih]

theorem mapSet_mapSet {α : Type} (l : SMap α) (k : Nat) (v w : α) : mapSet (mapSet l k v) k w = mapSet l k w := by
  induction l with
  | nil => simp [mapSet]
  | cons p t ih =>
    obtain ⟨j, x⟩ := p
    by_cases h1 : k < j
    · simp [mapSet, h1]
    · by_cases h2 : k = j
      · simp [mapSet, h2]
      · simp [mapSet, h1, h2, ih]

theorem mapFind_mapSet_same {α : Type} (l : SMap α) (k : Nat) (v : α) : mapFind (mapSet l k v) k = some v := by
  induction l with
  | nil => simp [mapSet, mapFind]
  | cons p t ih =>
    obtain ⟨j, w⟩ := p
    simp only [mapSet]
    split
    · simp [mapFind]
    · split
      · simp [mapFind]
      · simp [mapFind, *]

theorem mapFind_mapSet_other {α : Type} (l : SMap α) (k n : Nat) (v : α) (h : n ≠ k) :
    mapFind (mapSet l k v) n = mapFind l n := by
  induction l with
  | nil => simp [mapSet, mapFind, h]
  | cons p t ih =>
    obtain ⟨j, w⟩ := p
    simp only [mapSet]
    split
    · simp [mapFind, h]
    · split
      · rename_i h1 h2; subst h2; simp [mapFind, h]
      · simp [mapFind, ih]

/-! ### Memory -/

theorem memSorted_mono {m : List Host.Cell} {a b : Nat} (h : memSorted b m = true) (hab : a ≤ b) : memSorted a m = true := by
  cases m with
  | nil => rfl
  | cons c t =>
    obtain ⟨k, v⟩ := c
    simp only [memSorted, Bool.and_eq_true, decide_eq_true_eq] at *
    exact ⟨⟨by omega, h.1.2⟩, h.2⟩

theorem memSorted_del {m : List Host.Cell} {lo : Nat} (k : Nat) (h : memSorted lo m = true) : memSorted lo (memDel m k) = true := by
  induction m generalizing lo with
  | nil => rfl
  | cons c t ih =>
    obtain ⟨j, w⟩ := c
    simp only [memSorted, Bool.and_eq_true, decide_eq_true_eq] at h
    simp only [memDel]
    split
    · exact memSorted_mono (ih h.2) (by omega)
    · simp only [memSorted, Bool.and_eq_true, decide_eq_true_eq]
      exact ⟨h.1, ih h.2⟩

theorem memSorted_ins {m : List Host.Cell} {lo : Nat} (k : Nat) (v : Byte) (hv : v ≠ 0) (hk : lo ≤ k)
    (h : memSorted lo m = true) : memSorted lo (memIns m k v) = true := by
  induction m generalizing lo with
  | nil =>
    simp only [memIns, memSorted, Bool.and_eq_true, decide_eq_true_eq, bne_iff_ne]
    exact ⟨⟨hk, hv⟩, trivial⟩
  | cons c t ih =>
    obtain ⟨j, w⟩ := c
    simp only [memSorted, Bool.and_eq_true, decide_eq_true_eq, bne_iff_ne] at h
    simp only [memIns]
    split
    · simp only [memSorted, Bool.and_eq_true, decide_eq_true_eq, bne_iff_ne]
      exact ⟨⟨hk, hv⟩, ⟨by omega, h.1.2⟩, h.2⟩
    · split
      · rename_i h1 h2; subst h2
        simp only [memSorted, Bool.and_eq_true, decide_eq_true_eq, bne_iff_ne]
        exact ⟨⟨hk, hv⟩, h.2⟩
      · simp only [memSorted, Bool.and_eq_true, decide_eq_true_eq, bne_iff_ne]
        exact ⟨h.1, ih (by omega) h.2⟩

/-- One byte stored keeps the canonical form. -/
theorem memSet_wf {m : List Host.Cell} (k : Nat) (v : Byte) (h : Memory.wf m = true) : Memory.wf (memSet m k v) = true := by
  unfold memSet
  split
  · exact memSorted_del k h
  · exact memSorted_ins k v ‹_› (Nat.zero_le _) h

/-- A value stored keeps the canonical form. -/
theorem memWrite_wf (n : Nat) {m : List Host.Cell} (k v : Nat) (h : Memory.wf m = true) : Memory.wf (memWrite m k n v) = true := by
  induction n generalizing m k v with
  | zero => exact h
  | succ n ih => exact ih _ _ (memSet_wf _ _ h)

theorem memPut_wf (l : List Host.Cell) {m : List Host.Cell} (h : Memory.wf m = true) : Memory.wf (memPut m l) = true := by
  induction l generalizing m with
  | nil => exact h
  | cons c t ih => exact ih (memSet_wf _ _ h)

theorem memSorted_filter (p : Host.Cell → Bool) {m : List Host.Cell} {lo : Nat} (h : memSorted lo m = true) :
    memSorted lo (m.filter p) = true := by
  induction m generalizing lo with
  | nil => rfl
  | cons c t ih =>
    obtain ⟨j, w⟩ := c
    simp only [memSorted, Bool.and_eq_true, decide_eq_true_eq] at h
    by_cases hp : p (j, w) = true
    · simp only [List.filter_cons, hp, if_true, memSorted, Bool.and_eq_true, decide_eq_true_eq]
      exact ⟨h.1, ih h.2⟩
    · simp only [List.filter_cons, hp]
      exact memSorted_mono (ih h.2) (by omega)

theorem filter_wf (p : Host.Cell → Bool) {m : List Host.Cell} (h : Memory.wf m = true) : Memory.wf (m.filter p) = true :=
  memSorted_filter p h

/-- A range cleared keeps the canonical form. -/
theorem memClear_wf {m : List Host.Cell} (lo n : Nat) (h : Memory.wf m = true) : Memory.wf (memClear m lo n) = true :=
  filter_wf _ h

theorem memGet_of_lt {m : List Host.Cell} {lo k : Nat} (h : memSorted lo m = true) (hk : k < lo) : memGet m k = 0 := by
  induction m generalizing lo with
  | nil => rfl
  | cons c t ih =>
    obtain ⟨j, w⟩ := c
    simp only [memSorted, Bool.and_eq_true, decide_eq_true_eq] at h
    have hne : k ≠ j := by omega
    simp only [memGet, hne, if_false]
    exact ih h.2 (by omega)

theorem memGet_del_same (m : List Host.Cell) (k : Nat) : memGet (memDel m k) k = 0 := by
  induction m with
  | nil => rfl
  | cons c t ih =>
    obtain ⟨j, w⟩ := c
    by_cases h : k = j
    · simp [memDel, h] at *; exact ih
    · simp [memDel, h, memGet, ih]

theorem memGet_del_other (m : List Host.Cell) (k a : Nat) (h : a ≠ k) : memGet (memDel m k) a = memGet m a := by
  induction m with
  | nil => rfl
  | cons c t ih =>
    obtain ⟨j, w⟩ := c
    by_cases hj : k = j
    · have : a ≠ j := by omega
      simp [memDel, hj, memGet, this] at *; exact ih
    · by_cases ha : a = j <;> simp [memDel, hj, memGet, ha, ih]

theorem memGet_ins_same (m : List Host.Cell) (k : Nat) (v : Byte) : memGet (memIns m k v) k = v := by
  induction m with
  | nil => simp [memIns, memGet]
  | cons c t ih =>
    obtain ⟨j, w⟩ := c
    simp only [memIns]
    split
    · simp [memGet]
    · split <;> simp [memGet, *]

theorem memGet_ins_other (m : List Host.Cell) (k a : Nat) (v : Byte) (h : a ≠ k) : memGet (memIns m k v) a = memGet m a := by
  induction m with
  | nil => simp [memIns, memGet, h]
  | cons c t ih =>
    obtain ⟨j, w⟩ := c
    simp only [memIns]
    split
    · simp [memGet, h]
    · split
      · rename_i h1 h2; subst h2; simp [memGet, h]
      · simp [memGet, ih]

/-- A byte read where it has been stored. -/
theorem memGet_memSet_same (m : List Host.Cell) (k : Nat) (v : Byte) : memGet (memSet m k v) k = v := by
  unfold memSet
  split
  · rename_i h; rw [h]; exact memGet_del_same m k
  · exact memGet_ins_same m k v

/-- Another byte is as before. -/
theorem memGet_memSet_other (m : List Host.Cell) (k a : Nat) (v : Byte) (h : a ≠ k) : memGet (memSet m k v) a = memGet m a := by
  unfold memSet
  split
  · exact memGet_del_other m k a h
  · exact memGet_ins_other m k a v h

/-- Bytes outside the stored ones are as before. -/
theorem memGet_memWrite_other (n : Nat) (m : List Host.Cell) (k v a : Nat) (h : a < k ∨ k + n ≤ a) :
    memGet (memWrite m k n v) a = memGet m a := by
  induction n generalizing m k v with
  | zero => rfl
  | succ n ih =>
    simp only [memWrite]
    rw [ih _ _ _ (by omega)]
    exact memGet_memSet_other m k a _ (by omega)

theorem memRead_congr (n : Nat) (m m' : List Host.Cell) (k : Nat) (h : ∀ a, k ≤ a → a < k + n → memGet m a = memGet m' a) :
    memRead m k n = memRead m' k n := by
  induction n generalizing k with
  | zero => rfl
  | succ n ih =>
    simp only [memRead]
    rw [h k (Nat.le_refl _) (by omega), ih (k + 1) (fun a h1 h2 => h a (by omega) (by omega))]

/-- What was stored is read back. -/
theorem memRead_memWrite_same (n : Nat) (m : List Host.Cell) (k v : Nat) : memRead (memWrite m k n v) k n = v % 256 ^ n := by
  induction n generalizing m k v with
  | zero => simp [memRead, Nat.mod_one]
  | succ n ih =>
    simp only [memRead, memWrite]
    rw [ih, memGet_memWrite_other _ _ _ _ _ (Or.inl (Nat.lt_succ_self k)), memGet_memSet_same]
    have e : v % 256 ^ (n + 1) = v % 256 + 256 * (v / 256 % 256 ^ n) := by
      rw [show 256 ^ (n + 1) = 256 * 256 ^ n from by rw [Nat.pow_succ, Nat.mul_comm]]
      exact Nat.mod_mul
    rw [BitVec.toNat_ofNat, e]

/-! ### Contexts -/

@[simp] theorem State.core_setCore (s : State) (c : Nat) (k : Core) : (s.setCore c k).core c = k :=
  mapGet_mapSet_same _ _ _ _

theorem State.core_setCore_other (s : State) (c n : Nat) (k : Core) (h : n ≠ c) : (s.setCore c k).core n = s.core n :=
  mapGet_mapSet_other _ _ _ _ _ h

@[simp] theorem State.setCore_setCore (s : State) (c : Nat) (k q : Core) : (s.setCore c k).setCore c q = s.setCore c q := by
  simp [State.setCore, mapSet_mapSet]

@[simp] theorem Core.ctx_setCtx (k : Core) (i : Nat) (c : Ctx) : (k.setCtx i c).ctx i = c := by
  simp [Core.setCtx, Core.ctx]

theorem Core.ctx_setCtx_other (k : Core) (i j : Nat) (c : Ctx) (h : j % 8 ≠ i % 8) : (k.setCtx i c).ctx j = k.ctx j := by
  simp [Core.setCtx, Core.ctx, Vector.getElem_set_ne, Ne.symm h]

@[simp] theorem Core.setCtx_setCtx (k : Core) (i : Nat) (c d : Ctx) : (k.setCtx i c).setCtx i d = k.setCtx i d := by
  simp [Core.setCtx]

@[simp] theorem State.ctx_setCtx (s : State) (c k : Nat) (x : Ctx) : (s.setCtx c k x).ctx c k = x := by
  simp [State.setCtx, State.ctx]

@[simp] theorem State.setCtx_setCtx (s : State) (c k : Nat) (x y : Ctx) : (s.setCtx c k x).setCtx c k y = s.setCtx c k y := by
  simp [State.setCtx]

@[simp] theorem State.fctx_setFctx (s : State) (x : Ctx) : (s.setFctx x).fctx = x := by
  simp [State.setFctx, State.fctx]

@[simp] theorem State.fctx_modF (s : State) (f : Ctx → Ctx) : (s.modF f).fctx = f s.fctx := by
  simp [State.modF]

@[simp] theorem State.fctx_setCtx (s : State) (x : Ctx) : (s.setCtx s.focusCore s.focusCtx x).fctx = x :=
  State.ctx_setCtx _ _ _ _

@[simp] theorem State.modF_modF (s : State) (f g : Ctx → Ctx) : (s.modF f).modF g = s.modF (fun c => g (f c)) := by
  simp [State.modF, State.setFctx]

/-- The state with nothing changed in the focus context, where its core is listed as it stands. -/
theorem State.fcore_modF (s : State) (f : Ctx → Ctx) : (s.modF f).fcore = s.fcore.setCtx s.focusCtx (f s.fctx) := by
  simp [State.modF, State.setFctx, State.setCtx, State.fcore]

/-! ### Registers -/

@[simp] theorem Ctx.getX_zero (c : Ctx) : c.getX 0 = 0 := by simp [Ctx.getX]

theorem Ctx.getX_putX_same (c : Ctx) (r : Reg) (v : Word) (h : r ≠ 0) : (c.putX r v).getX r = v := by
  have h' : ¬ r = 0#5 := h
  simp [Ctx.putX, Ctx.getX, h']

theorem Ctx.getX_putX_other (c : Ctx) (r q : Reg) (v : Word) (h : q ≠ r) : (c.putX r v).getX q = c.getX q := by
  have : r.toNat ≠ q.toNat := fun e => h (BitVec.eq_of_toNat_eq e.symm)
  by_cases hr : r = 0
  · simp [Ctx.putX, hr]
  · by_cases hq : q = 0
    · simp [Ctx.getX, hq]
    · have hr' : ¬ r = 0#5 := hr
      have hq' : ¬ q = 0#5 := hq
      simp [Ctx.putX, Ctx.getX, hr', hq', Vector.getElem_set_ne, this]

@[simp] theorem Ctx.putX_zero (c : Ctx) (v : Word) : c.putX 0 v = c := by simp [Ctx.putX]

end Sys2Proof.Machine
end

