-- ==== Sys2Proof/Laws/Operands.lean ====
section
/-! SUPPORT. What reading a register, writing one, and running an instruction's body give. -/

namespace Sys2Proof.Machine

/-! ### Running -/

theorem run_bind {α β : Type} (m : M α) (f : α → M β) (s : State) :
    (m >>= f).run s = match m.run s with
      | .ok (a, t) => (f a).run t
      | .error e => .error e := by
  show StateT.run (StateT.bind m f) s = _
  simp only [StateT.run, StateT.bind, bind, Except.bind]
  cases m s <;> rfl

theorem run_bind_ok {α β : Type} {m : M α} {f : α → M β} {s t : State} {a : α} (h : m.run s = .ok (a, t)) :
    (m >>= f).run s = (f a).run t := by rw [run_bind, h]

theorem run_bind_error {α β : Type} {m : M α} {f : α → M β} {s : State} {e : Stop} (h : m.run s = .error e) :
    (m >>= f).run s = .error e := by rw [run_bind, h]

@[simp] theorem run_pure {α : Type} (a : α) (s : State) : (pure a : M α).run s = .ok (a, s) := rfl

@[simp] theorem run_modF (f : Ctx → Ctx) (s : State) : (modF f).run s = .ok ((), s.modF f) := rfl

@[simp] theorem run_modify (f : State → State) (s : State) : (modify f : M Unit).run s = .ok ((), f s) := rfl

@[simp] theorem run_get (s : State) : (get : M State).run s = .ok (s, s) := rfl

@[simp] theorem run_fctx (s : State) : fctx.run s = .ok (s.fctx, s) := rfl

@[simp] theorem run_trap {α : Type} (c : BitVec 8) (v : Word) (s : State) : (trap c v : M α).run s = .error (.trap c v) := rfl

@[simp] theorem run_block {α : Type} (s : State) : (block : M α).run s = .error .block := rfl

@[simp] theorem run_advance (n : Nat) (s : State) : (advance n).run s = .ok ((), s.done n id) := rfl

@[simp] theorem run_writeX (r : Reg) (v : Word) (s : State) :
    (writeX r v).run s = .ok ((), s.modF fun c => c.result r v) := rfl

@[simp] theorem run_writeV (r : VReg) (v : VWord) (s : State) :
    (writeV r v).run s = .ok ((), s.modF fun c => c.resultV r v) := rfl

/-- An instruction whose body completes. -/
theorem runInstr_ok {m : M Unit} {s t : State} (h : m.run s = .ok ((), t)) : runInstr m s = .next t := by
  unfold runInstr; rw [h]

/-- An instruction whose body traps before it has changed anything. -/
theorem runInstr_trap {m : M Unit} {s : State} {c : BitVec 8} {v : Word} (h : m.run s = .error (.trap c v)) :
    runInstr m s = .next (s.trapHere c v) := by
  unfold runInstr; rw [h]

/-- An instruction whose body waits before it has changed anything. -/
theorem runInstr_block {m : M Unit} {s : State} (h : m.run s = .error .block) : runInstr m s = .next s.waits := by
  unfold runInstr; rw [h]

/-- A sequential instruction whose body completes. -/
theorem seq4_ok {m : M Unit} {s t : State} (h : m.run s = .ok ((), t)) : seq4 m s = .next (t.done 4 id) :=
  runInstr_ok (by rw [run_bind_ok h]; rfl)

theorem seq2_ok {m : M Unit} {s t : State} (h : m.run s = .ok ((), t)) : seq2 m s = .next (t.done 2 id) :=
  runInstr_ok (by rw [run_bind_ok h]; rfl)

theorem seq4_trap {m : M Unit} {s : State} {c : BitVec 8} {v : Word} (h : m.run s = .error (.trap c v)) :
    seq4 m s = .next (s.trapHere c v) := runInstr_trap (run_bind_error h)

theorem seq2_trap {m : M Unit} {s : State} {c : BitVec 8} {v : Word} (h : m.run s = .error (.trap c v)) :
    seq2 m s = .next (s.trapHere c v) := runInstr_trap (run_bind_error h)

@[simp] theorem State.done_modF (s : State) (f g : Ctx → Ctx) (n : Nat) : (s.modF f).done n g = s.done n (fun c => g (f c)) := by
  simp [State.done]

/-! ### Reading -/

theorem readX_plain {s : State} {r : Reg} (h : s.fctx.Plain r) : (readX r).run s = .ok (s.fctx.getX r, s) := by
  unfold readX
  rw [run_bind_ok (run_fctx s)]
  by_cases h0 : r = 0
  · subst h0; simp; rfl
  · obtain h | ⟨hb, hp, hm⟩ := h
    · exact absurd h h0
    · have : (readX.plain r s.fctx).run s = .ok (s.fctx.getX r, s) := by
        unfold readX.plain
        simp [hp, hm]
        rfl
      simp only [if_neg h0]
      cases hx : xSlot r with
      | none => exact this
      | some i => rw [hx] at hb; simp only [hb]; exact this

theorem popStream_ready {s : State} {i : Fin 6} {t : Stream} {v : VWord} {rest : List (Option VWord)}
    (hp : t.pos < t.length) (ha : t.ahead = some v :: rest) : (popStream i t).run s = .ok (v, s.popped i t) := by
  have hn : ¬ t.length ≤ t.pos := by omega
  unfold popStream State.popped
  simp only [if_neg hn, ha, List.tail]
  rfl

theorem xSlot_ne_zero {r : Reg} {i : Fin 6} (h : xSlot r = some i) : r ≠ 0 := by
  intro e; subst e; simp [xSlot] at h

/-- What reading an x register does where it can be read. -/
theorem readX_reads {s t : State} {r : Reg} {v : Word} (h : Reads s r v t) : (readX r).run s = .ok (v, t) := by
  cases h with
  | plain h => exact readX_plain h
  | pop i q w rest h hb hp ha =>
    unfold readX
    rw [run_bind_ok (run_fctx s)]
    simp only [if_neg (xSlot_ne_zero h), h, hb]
    rw [run_bind_ok (popStream_ready hp ha)]
    rfl

/-- What reading a v register does where it can be read. -/
theorem readV_reads {s t : State} {r : VReg} {v : VWord} (h : ReadsV s r v t) : (readV r).run s = .ok (v, t) := by
  cases h with
  | plain h =>
    unfold readV
    rw [run_bind_ok (run_fctx s)]
    cases hx : vSlot r with
    | none => rfl
    | some i => unfold Ctx.PlainV at h; rw [hx] at h; simp only [h]; rfl
  | pop i q w rest h hb hp ha =>
    unfold readV
    rw [run_bind_ok (run_fctx s)]
    simp only [h, hb]
    exact popStream_ready hp ha

end Sys2Proof.Machine
end

