-- ==== Sys2Proof/Laws/Memory.lean ====
section
/-! SUPPORT. What the checks and waits of a memory instruction give in a state where nothing holds it back. -/

namespace Sys2Proof.Machine

/-! ### A pop changes only its stream and the flights -/

/-- What a read of a register leaves as it was: everything but the flights and the streams of its context. -/
structure SameButStreams (s t : State) : Prop where
  mem : t.mem = s.mem
  tags : t.tags = s.tags
  poison : t.poison = s.poison
  parts : t.parts = s.parts
  octets : t.octets = s.octets
  ports : t.ports = s.ports
  module : t.module = s.module
  focusCore : t.focusCore = s.focusCore
  focusCtx : t.focusCtx = s.focusCtx
  serial : t.serial = s.serial
  now : t.now = s.now
  wallUnits : t.wallUnits = s.wallUnits
  timers : t.timers = s.timers
  core : ∃ b, t.fcore = s.fcore.setCtx s.focusCtx { s.fctx with streams := b }
  ctx : ∃ b, t.fctx = { s.fctx with streams := b }

theorem SameButStreams.rfl' (s : State) : SameButStreams s s := by
  refine ⟨rfl, rfl, rfl, rfl, rfl, rfl, rfl, rfl, rfl, rfl, rfl, rfl, rfl, ⟨s.fctx.streams, ?_⟩, ⟨s.fctx.streams, rfl⟩⟩
  show s.fcore = s.fcore.setCtx s.focusCtx (s.fcore.ctx s.focusCtx)
  simp [Core.setCtx, Core.ctx]

theorem SameButStreams.trans {s t u : State} (h : SameButStreams s t) (g : SameButStreams t u) : SameButStreams s u := by
  obtain ⟨b, hb⟩ := h.core
  obtain ⟨b', hb'⟩ := g.core
  obtain ⟨d, hd⟩ := h.ctx
  obtain ⟨d', hd'⟩ := g.ctx
  exact ⟨g.mem.trans h.mem, g.tags.trans h.tags, g.poison.trans h.poison, g.parts.trans h.parts, g.octets.trans h.octets,
    g.ports.trans h.ports, g.module.trans h.module, g.focusCore.trans h.focusCore, g.focusCtx.trans h.focusCtx,
    g.serial.trans h.serial, g.now.trans h.now, g.wallUnits.trans h.wallUnits, g.timers.trans h.timers,
    ⟨b', by rw [hb', hb, hd, h.focusCtx, Core.setCtx_setCtx]⟩, ⟨d', by rw [hd', hd]⟩⟩

theorem SameButStreams.kick (s : State) (c k i : Nat) : SameButStreams s (s.kickStream c k i) := by
  have h := SameButStreams.rfl' s
  unfold State.kickStream State.flyOnce State.fly
  split
  · exact h
  · exact ⟨h.mem, h.tags, h.poison, h.parts, h.octets, h.ports, h.module, h.focusCore, h.focusCtx, h.serial, h.now,
      h.wallUnits, h.timers, h.core, h.ctx⟩

theorem SameButStreams.stream (s : State) (i : Fin 6) (b : Option Stream) :
    SameButStreams s (s.modF fun c => c.setStream i b) :=
  ⟨rfl, rfl, rfl, rfl, rfl, rfl, rfl, rfl, rfl, rfl, rfl, rfl, rfl, ⟨_, State.fcore_modF s _⟩, ⟨_, State.fctx_modF s _⟩⟩

theorem SameButStreams.popped (s : State) (i : Fin 6) (q : Stream) : SameButStreams s (s.popped i q) :=
  (SameButStreams.stream s i _).trans (.kick _ _ _ _)

/-- A read of an x register changes only the streams of its context and the flights. -/
theorem Reads.same {s t : State} {r : Reg} {v : Word} (h : Reads s r v t) : SameButStreams s t := by
  cases h with
  | plain => exact .rfl' s
  | pop i q w rest h hb hp ha => exact .popped s i q

theorem ReadsV.same {s t : State} {r : VReg} {v : VWord} (h : ReadsV s r v t) : SameButStreams s t := by
  cases h with
  | plain => exact .rfl' s
  | pop i q w rest h hb hp ha => exact .popped s i q

theorem ReadsAll.same {s t : State} {l : List Reg} {vs : List Word} (h : ReadsAll s l vs t) : SameButStreams s t := by
  induction h with
  | nil s => exact .rfl' s
  | cons h _ ih => exact h.same.trans ih

theorem SameButStreams.fpart {s t : State} (h : SameButStreams s t) : t.fpart = s.fpart := by
  unfold State.fpart State.partAt State.partOf; rw [h.parts, h.focusCore]

theorem SameButStreams.pidOf {s t : State} (h : SameButStreams s t) (c : Nat) : t.pidOf c = s.pidOf c := by
  unfold State.pidOf State.partOf; rw [h.parts]

theorem SameButStreams.clear {s t : State} (h : SameButStreams s t) (c : s.Clear) : t.Clear := by
  obtain ⟨b, hb⟩ := h.core
  obtain ⟨d, hd⟩ := h.ctx
  exact ⟨by rw [hd]; exact c.pend, by rw [hd]; exact c.posted, by rw [hd]; exact c.fences, by rw [hb]; exact c.sb,
    by rw [hb]; exact c.exch⟩

/-- An access resolves after its sources are read as it did before. -/
theorem Resolves.same {s t : State} {va : Word} {w : Nat} {k : Access} {d : Dest} (h : SameButStreams s t)
    (r : Resolves s va w k d) : Resolves t va w k d := by
  cases r with
  | core c o hr ha =>
    rw [← h.module]
    exact .core c o (by rw [h.fpart, h.focusCore]; exact hr) ha
  | page pte big hr ha he hl hp =>
    obtain ⟨b, hb⟩ := h.core
    exact .page pte big (by rw [h.fpart, h.focusCore]; exact hr) ha (by rw [h.fpart]; exact he)
      (by rw [h.pidOf, h.focusCore, hb]; exact hl) hp

/-! ### Checks and waits -/

/-- The checks of an access that resolves. -/
theorem run_dataTarget {s : State} {va : Word} {w : Nat} {k : Access} {d : Dest} (h : Resolves s va w k d) :
    (dataTarget va w k).run s = .ok (d, s) := by
  unfold dataTarget
  rw [run_bind_ok (run_get s)]
  cases h with
  | core c o hr ha => simp only [hr, ha]; rfl
  | page pte big hr ha he hl hp =>
    simp only [hr, ha]
    unfold translate
    simp only [ne_eq, not_true_eq_false, if_false]
    show ((get : M State) >>= _).run s = _
    rw [run_bind_ok (run_get s)]
    have hf : s.lookUp s.focusCore va = (some (pte, big), s) := by
      have hd : tlbFind (s.pidOf s.focusCore) va (s.core s.focusCore).dtlb = some (pte, big) := hl
      unfold State.lookUp
      simp only [hd]
    simp only [he, hf, hp]
    rfl

/-- The checks of an access whose form is none of R65's. -/
theorem run_dataTarget_access {s : State} {va : Word} {w : Nat} {k : Access} (h : target s.fpart s.focusCore va = none) :
    (dataTarget va w k).run s = .error (.trap 0x05 va) := by
  unfold dataTarget
  rw [run_bind_ok (run_get s)]
  simp only [h]; rfl

/-- The checks of a misaligned access. -/
theorem run_dataTarget_misalign {s : State} {va : Word} {w : Nat} {k : Access}
    (h : target s.fpart s.focusCore va ≠ none) (ha : va.toNat % w ≠ 0) :
    (dataTarget va w k).run s = .error (.trap 0x04 va) := by
  unfold dataTarget
  rw [run_bind_ok (run_get s)]
  cases ht : target s.fpart s.focusCore va with
  | none => exact absurd ht h
  | some t => simp only [if_pos ha]; rfl

theorem run_noAmo {s : State} (h : s.Clear) : noAmo.run s = .ok ((), s) := by
  unfold noAmo; rw [run_bind_ok (run_fctx s), h.pend]; rfl

theorem run_noLoad {s : State} (h : s.Clear) : noLoad.run s = .ok ((), s) := by
  unfold noLoad; rw [run_bind_ok (run_fctx s)]; unfold Ctx.ahead; rw [h.pend]; rfl

theorem run_fenced {s : State} (h : s.Clear) (l : List Nat) : (fenced l).run s = .ok ((), s) := by
  unfold fenced; rw [run_bind_ok (run_get s)]; simp only [h.fences]; rfl

theorem run_fullFence {s : State} (h : s.Clear) : fullFence.run s = .ok ((), s) := by
  unfold fullFence; rw [run_bind_ok (run_get s)]; simp only [h.pend, h.posted, h.sb]; rfl

theorem run_swapHold {s : State} (d : Dest) (h : (s.core (homePlace d.key)).exch = none) : (swapHold d).run s = .ok ((), s) := by
  unfold swapHold; rw [run_bind_ok (run_get s)]; simp only [h]; rfl

theorem run_decideHere {o s : State} (ty data mask : Nat) (vals : List Word) (h2 : o.fctx.lmode ≠ 2) (h3 : o.fctx.lmode ≠ 3) :
    (decideHere o ty data mask vals).run s = .ok (none, s) := by
  unfold decideHere; rw [run_bind_ok (run_get s)]
  have : ¬ (o.fctx.lmode = 2 ∨ o.fctx.lmode = 3) := by rintro (h | h) <;> contradiction
  simp only [if_neg this]; rfl

/-- The place of a byte of a core's local memory. -/
theorem homePlace_localKey (c o : Nat) (h : o < 65536) : homePlace (localKey c o) = c := by
  unfold homePlace isDevice localKey
  have : decide (0x1000000000000 + c * 65536 + o < 0x1000000000000) = false := by simp; omega
  simp only [this]
  show (_ : Nat) = _
  simp; omega

theorem isDevice_localKey (c o : Nat) : isDevice (localKey c o) = false := by
  unfold isDevice localKey; simp; omega

/-- A core form names an offset below 65,536. -/
theorem coreForm_off {p : Partition} {c k o : Nat} {a : Word} (h : coreForm p c a = some (k, o)) : o < 65536 := by
  have hb : bits a 15 0 < 65536 := by unfold bits; omega
  unfold coreForm at h
  simp only at h
  repeat' split at h
  all_goals simp_all
  all_goals omega

theorem target_off {p : Partition} {c k o : Nat} {a : Word} (h : target p c a = some (.here k o)) : o < 65536 := by
  unfold target at h
  split at h
  · split at h <;> simp at h
  · split at h
    · rename_i k' o' hc; simp at h; obtain ⟨rfl, rfl⟩ := h; exact coreForm_off hc
    · simp at h

end Sys2Proof.Machine
end

