-- ==== Sys2Proof/Laws/PerInstr.lean ====
section
/-! SUPPORT. Decoding what the encoder writes, one instruction at a time. -/

set_option Elab.async false
set_option linter.all false

namespace Sys2Proof.Laws.RoundTrip

/-- The bytes of a well-formed instruction decode to it, whatever follows them. -/
def Statement (i : Instr) : Prop :=
  i.wf = true → encode i ≠ .none → ∀ rest : List Byte, decode ((encode i).bytes ++ rest) = .ok (i, rest)

theorem add (d : Reg) (a : Reg) (b : Reg) : Statement (.add d a b) := by
  intro wf _ rest
  refine (decode_w32 (rForm 0 b a d 0x01) rest (len_rForm ..)).trans ?_
  rw [major_01 _ (fMajor_rForm ..)]
  simp (disch := decide) only [decOp, need, fRd_rForm, fRs1_rForm, fRs2_rForm, fFn_rForm, top_rForm, bit_rForm, BitVec.extractLsb'_eq_self, Nat.reduceSub]
  rfl

theorem sub (d : Reg) (a : Reg) (b : Reg) : Statement (.sub d a b) := by
  intro wf _ rest
  refine (decode_w32 (rForm 1 b a d 0x01) rest (len_rForm ..)).trans ?_
  rw [major_01 _ (fMajor_rForm ..)]
  simp (disch := decide) only [decOp, need, fRd_rForm, fRs1_rForm, fRs2_rForm, fFn_rForm, top_rForm, bit_rForm, BitVec.extractLsb'_eq_self, Nat.reduceSub]
  rfl

theorem and (d : Reg) (a : Reg) (b : Reg) : Statement (.and d a b) := by
  intro wf _ rest
  refine (decode_w32 (rForm 2 b a d 0x01) rest (len_rForm ..)).trans ?_
  rw [major_01 _ (fMajor_rForm ..)]
  simp (disch := decide) only [decOp, need, fRd_rForm, fRs1_rForm, fRs2_rForm, fFn_rForm, top_rForm, bit_rForm, BitVec.extractLsb'_eq_self, Nat.reduceSub]
  rfl

theorem or (d : Reg) (a : Reg) (b : Reg) : Statement (.or d a b) := by
  intro wf _ rest
  refine (decode_w32 (rForm 3 b a d 0x01) rest (len_rForm ..)).trans ?_
  rw [major_01 _ (fMajor_rForm ..)]
  simp (disch := decide) only [decOp, need, fRd_rForm, fRs1_rForm, fRs2_rForm, fFn_rForm, top_rForm, bit_rForm, BitVec.extractLsb'_eq_self, Nat.reduceSub]
  rfl

theorem xor (d : Reg) (a : Reg) (b : Reg) : Statement (.xor d a b) := by
  intro wf _ rest
  refine (decode_w32 (rForm 4 b a d 0x01) rest (len_rForm ..)).trans ?_
  rw [major_01 _ (fMajor_rForm ..)]
  simp (disch := decide) only [decOp, need, fRd_rForm, fRs1_rForm, fRs2_rForm, fFn_rForm, top_rForm, bit_rForm, BitVec.extractLsb'_eq_self, Nat.reduceSub]
  rfl

theorem sll (d : Reg) (a : Reg) (b : Reg) : Statement (.sll d a b) := by
  intro wf _ rest
  refine (decode_w32 (rForm 5 b a d 0x01) rest (len_rForm ..)).trans ?_
  rw [major_01 _ (fMajor_rForm ..)]
  simp (disch := decide) only [decOp, need, fRd_rForm, fRs1_rForm, fRs2_rForm, fFn_rForm, top_rForm, bit_rForm, BitVec.extractLsb'_eq_self, Nat.reduceSub]
  rfl

theorem srl (d : Reg) (a : Reg) (b : Reg) : Statement (.srl d a b) := by
  intro wf _ rest
  refine (decode_w32 (rForm 6 b a d 0x01) rest (len_rForm ..)).trans ?_
  rw [major_01 _ (fMajor_rForm ..)]
  simp (disch := decide) only [decOp, need, fRd_rForm, fRs1_rForm, fRs2_rForm, fFn_rForm, top_rForm, bit_rForm, BitVec.extractLsb'_eq_self, Nat.reduceSub]
  rfl

theorem sra (d : Reg) (a : Reg) (b : Reg) : Statement (.sra d a b) := by
  intro wf _ rest
  refine (decode_w32 (rForm 7 b a d 0x01) rest (len_rForm ..)).trans ?_
  rw [major_01 _ (fMajor_rForm ..)]
  simp (disch := decide) only [decOp, need, fRd_rForm, fRs1_rForm, fRs2_rForm, fFn_rForm, top_rForm, bit_rForm, BitVec.extractLsb'_eq_self, Nat.reduceSub]
  rfl

theorem slt (d : Reg) (a : Reg) (b : Reg) : Statement (.slt d a b) := by
  intro wf _ rest
  refine (decode_w32 (rForm 8 b a d 0x01) rest (len_rForm ..)).trans ?_
  rw [major_01 _ (fMajor_rForm ..)]
  simp (disch := decide) only [decOp, need, fRd_rForm, fRs1_rForm, fRs2_rForm, fFn_rForm, top_rForm, bit_rForm, BitVec.extractLsb'_eq_self, Nat.reduceSub]
  rfl

theorem sltu (d : Reg) (a : Reg) (b : Reg) : Statement (.sltu d a b) := by
  intro wf _ rest
  refine (decode_w32 (rForm 9 b a d 0x01) rest (len_rForm ..)).trans ?_
  rw [major_01 _ (fMajor_rForm ..)]
  simp (disch := decide) only [decOp, need, fRd_rForm, fRs1_rForm, fRs2_rForm, fFn_rForm, top_rForm, bit_rForm, BitVec.extractLsb'_eq_self, Nat.reduceSub]
  rfl

theorem min (d : Reg) (a : Reg) (b : Reg) : Statement (.min d a b) := by
  intro wf _ rest
  refine (decode_w32 (rForm 10 b a d 0x01) rest (len_rForm ..)).trans ?_
  rw [major_01 _ (fMajor_rForm ..)]
  simp (disch := decide) only [decOp, need, fRd_rForm, fRs1_rForm, fRs2_rForm, fFn_rForm, top_rForm, bit_rForm, BitVec.extractLsb'_eq_self, Nat.reduceSub]
  rfl

theorem max (d : Reg) (a : Reg) (b : Reg) : Statement (.max d a b) := by
  intro wf _ rest
  refine (decode_w32 (rForm 11 b a d 0x01) rest (len_rForm ..)).trans ?_
  rw [major_01 _ (fMajor_rForm ..)]
  simp (disch := decide) only [decOp, need, fRd_rForm, fRs1_rForm, fRs2_rForm, fFn_rForm, top_rForm, bit_rForm, BitVec.extractLsb'_eq_self, Nat.reduceSub]
  rfl

theorem minu (d : Reg) (a : Reg) (b : Reg) : Statement (.minu d a b) := by
  intro wf _ rest
  refine (decode_w32 (rForm 12 b a d 0x01) rest (len_rForm ..)).trans ?_
  rw [major_01 _ (fMajor_rForm ..)]
  simp (disch := decide) only [decOp, need, fRd_rForm, fRs1_rForm, fRs2_rForm, fFn_rForm, top_rForm, bit_rForm, BitVec.extractLsb'_eq_self, Nat.reduceSub]
  rfl

theorem maxu (d : Reg) (a : Reg) (b : Reg) : Statement (.maxu d a b) := by
  intro wf _ rest
  refine (decode_w32 (rForm 13 b a d 0x01) rest (len_rForm ..)).trans ?_
  rw [major_01 _ (fMajor_rForm ..)]
  simp (disch := decide) only [decOp, need, fRd_rForm, fRs1_rForm, fRs2_rForm, fFn_rForm, top_rForm, bit_rForm, BitVec.extractLsb'_eq_self, Nat.reduceSub]
  rfl

theorem rol (d : Reg) (a : Reg) (b : Reg) : Statement (.rol d a b) := by
  intro wf _ rest
  refine (decode_w32 (rForm 14 b a d 0x01) rest (len_rForm ..)).trans ?_
  rw [major_01 _ (fMajor_rForm ..)]
  simp (disch := decide) only [decOp, need, fRd_rForm, fRs1_rForm, fRs2_rForm, fFn_rForm, top_rForm, bit_rForm, BitVec.extractLsb'_eq_self, Nat.reduceSub]
  rfl

theorem ror (d : Reg) (a : Reg) (b : Reg) : Statement (.ror d a b) := by
  intro wf _ rest
  refine (decode_w32 (rForm 15 b a d 0x01) rest (len_rForm ..)).trans ?_
  rw [major_01 _ (fMajor_rForm ..)]
  simp (disch := decide) only [decOp, need, fRd_rForm, fRs1_rForm, fRs2_rForm, fFn_rForm, top_rForm, bit_rForm, BitVec.extractLsb'_eq_self, Nat.reduceSub]
  rfl

theorem andn (d : Reg) (a : Reg) (b : Reg) : Statement (.andn d a b) := by
  intro wf _ rest
  refine (decode_w32 (rForm 16 b a d 0x01) rest (len_rForm ..)).trans ?_
  rw [major_01 _ (fMajor_rForm ..)]
  simp (disch := decide) only [decOp, need, fRd_rForm, fRs1_rForm, fRs2_rForm, fFn_rForm, top_rForm, bit_rForm, BitVec.extractLsb'_eq_self, Nat.reduceSub]
  rfl

theorem orn (d : Reg) (a : Reg) (b : Reg) : Statement (.orn d a b) := by
  intro wf _ rest
  refine (decode_w32 (rForm 17 b a d 0x01) rest (len_rForm ..)).trans ?_
  rw [major_01 _ (fMajor_rForm ..)]
  simp (disch := decide) only [decOp, need, fRd_rForm, fRs1_rForm, fRs2_rForm, fFn_rForm, top_rForm, bit_rForm, BitVec.extractLsb'_eq_self, Nat.reduceSub]
  rfl

theorem xnor (d : Reg) (a : Reg) (b : Reg) : Statement (.xnor d a b) := by
  intro wf _ rest
  refine (decode_w32 (rForm 18 b a d 0x01) rest (len_rForm ..)).trans ?_
  rw [major_01 _ (fMajor_rForm ..)]
  simp (disch := decide) only [decOp, need, fRd_rForm, fRs1_rForm, fRs2_rForm, fFn_rForm, top_rForm, bit_rForm, BitVec.extractLsb'_eq_self, Nat.reduceSub]
  rfl

theorem addw (d : Reg) (a : Reg) (b : Reg) : Statement (.addw d a b) := by
  intro wf _ rest
  refine (decode_w32 (rForm 0 b a d 0x02) rest (len_rForm ..)).trans ?_
  rw [major_02 _ (fMajor_rForm ..)]
  simp (disch := decide) only [decOpw, need, fRd_rForm, fRs1_rForm, fRs2_rForm, fFn_rForm, top_rForm, bit_rForm, BitVec.extractLsb'_eq_self, Nat.reduceSub]
  rfl

theorem subw (d : Reg) (a : Reg) (b : Reg) : Statement (.subw d a b) := by
  intro wf _ rest
  refine (decode_w32 (rForm 1 b a d 0x02) rest (len_rForm ..)).trans ?_
  rw [major_02 _ (fMajor_rForm ..)]
  simp (disch := decide) only [decOpw, need, fRd_rForm, fRs1_rForm, fRs2_rForm, fFn_rForm, top_rForm, bit_rForm, BitVec.extractLsb'_eq_self, Nat.reduceSub]
  rfl

theorem sllw (d : Reg) (a : Reg) (b : Reg) : Statement (.sllw d a b) := by
  intro wf _ rest
  refine (decode_w32 (rForm 5 b a d 0x02) rest (len_rForm ..)).trans ?_
  rw [major_02 _ (fMajor_rForm ..)]
  simp (disch := decide) only [decOpw, need, fRd_rForm, fRs1_rForm, fRs2_rForm, fFn_rForm, top_rForm, bit_rForm, BitVec.extractLsb'_eq_self, Nat.reduceSub]
  rfl

theorem srlw (d : Reg) (a : Reg) (b : Reg) : Statement (.srlw d a b) := by
  intro wf _ rest
  refine (decode_w32 (rForm 6 b a d 0x02) rest (len_rForm ..)).trans ?_
  rw [major_02 _ (fMajor_rForm ..)]
  simp (disch := decide) only [decOpw, need, fRd_rForm, fRs1_rForm, fRs2_rForm, fFn_rForm, top_rForm, bit_rForm, BitVec.extractLsb'_eq_self, Nat.reduceSub]
  rfl

theorem sraw (d : Reg) (a : Reg) (b : Reg) : Statement (.sraw d a b) := by
  intro wf _ rest
  refine (decode_w32 (rForm 7 b a d 0x02) rest (len_rForm ..)).trans ?_
  rw [major_02 _ (fMajor_rForm ..)]
  simp (disch := decide) only [decOpw, need, fRd_rForm, fRs1_rForm, fRs2_rForm, fFn_rForm, top_rForm, bit_rForm, BitVec.extractLsb'_eq_self, Nat.reduceSub]
  rfl

theorem mul (d : Reg) (a : Reg) (b : Reg) : Statement (.mul d a b) := by
  intro wf _ rest
  refine (decode_w32 (rForm 0 b a d 0x03) rest (len_rForm ..)).trans ?_
  rw [major_03 _ (fMajor_rForm ..)]
  simp (disch := decide) only [decMulDiv, need, fRd_rForm, fRs1_rForm, fRs2_rForm, fFn_rForm, top_rForm, bit_rForm, BitVec.extractLsb'_eq_self, Nat.reduceSub]
  rfl

theorem mulh (d : Reg) (a : Reg) (b : Reg) : Statement (.mulh d a b) := by
  intro wf _ rest
  refine (decode_w32 (rForm 1 b a d 0x03) rest (len_rForm ..)).trans ?_
  rw [major_03 _ (fMajor_rForm ..)]
  simp (disch := decide) only [decMulDiv, need, fRd_rForm, fRs1_rForm, fRs2_rForm, fFn_rForm, top_rForm, bit_rForm, BitVec.extractLsb'_eq_self, Nat.reduceSub]
  rfl

theorem mulhu (d : Reg) (a : Reg) (b : Reg) : Statement (.mulhu d a b) := by
  intro wf _ rest
  refine (decode_w32 (rForm 2 b a d 0x03) rest (len_rForm ..)).trans ?_
  rw [major_03 _ (fMajor_rForm ..)]
  simp (disch := decide) only [decMulDiv, need, fRd_rForm, fRs1_rForm, fRs2_rForm, fFn_rForm, top_rForm, bit_rForm, BitVec.extractLsb'_eq_self, Nat.reduceSub]
  rfl

theorem mulhsu (d : Reg) (a : Reg) (b : Reg) : Statement (.mulhsu d a b) := by
  intro wf _ rest
  refine (decode_w32 (rForm 3 b a d 0x03) rest (len_rForm ..)).trans ?_
  rw [major_03 _ (fMajor_rForm ..)]
  simp (disch := decide) only [decMulDiv, need, fRd_rForm, fRs1_rForm, fRs2_rForm, fFn_rForm, top_rForm, bit_rForm, BitVec.extractLsb'_eq_self, Nat.reduceSub]
  rfl

theorem div (d : Reg) (a : Reg) (b : Reg) : Statement (.div d a b) := by
  intro wf _ rest
  refine (decode_w32 (rForm 4 b a d 0x03) rest (len_rForm ..)).trans ?_
  rw [major_03 _ (fMajor_rForm ..)]
  simp (disch := decide) only [decMulDiv, need, fRd_rForm, fRs1_rForm, fRs2_rForm, fFn_rForm, top_rForm, bit_rForm, BitVec.extractLsb'_eq_self, Nat.reduceSub]
  rfl

theorem divu (d : Reg) (a : Reg) (b : Reg) : Statement (.divu d a b) := by
  intro wf _ rest
  refine (decode_w32 (rForm 5 b a d 0x03) rest (len_rForm ..)).trans ?_
  rw [major_03 _ (fMajor_rForm ..)]
  simp (disch := decide) only [decMulDiv, need, fRd_rForm, fRs1_rForm, fRs2_rForm, fFn_rForm, top_rForm, bit_rForm, BitVec.extractLsb'_eq_self, Nat.reduceSub]
  rfl

theorem rem (d : Reg) (a : Reg) (b : Reg) : Statement (.rem d a b) := by
  intro wf _ rest
  refine (decode_w32 (rForm 6 b a d 0x03) rest (len_rForm ..)).trans ?_
  rw [major_03 _ (fMajor_rForm ..)]
  simp (disch := decide) only [decMulDiv, need, fRd_rForm, fRs1_rForm, fRs2_rForm, fFn_rForm, top_rForm, bit_rForm, BitVec.extractLsb'_eq_self, Nat.reduceSub]
  rfl

theorem remu (d : Reg) (a : Reg) (b : Reg) : Statement (.remu d a b) := by
  intro wf _ rest
  refine (decode_w32 (rForm 7 b a d 0x03) rest (len_rForm ..)).trans ?_
  rw [major_03 _ (fMajor_rForm ..)]
  simp (disch := decide) only [decMulDiv, need, fRd_rForm, fRs1_rForm, fRs2_rForm, fFn_rForm, top_rForm, bit_rForm, BitVec.extractLsb'_eq_self, Nat.reduceSub]
  rfl

theorem clz (d : Reg) (a : Reg) : Statement (.clz d a) := by
  intro wf _ rest
  refine (decode_w32 (rForm 0 0 a d 0x0E) rest (len_rForm ..)).trans ?_
  rw [major_0E _ (fMajor_rForm ..)]
  simp (disch := decide) only [decBitop, need, fRd_rForm, fRs1_rForm, fRs2_rForm, fFn_rForm, top_rForm, bit_rForm, BitVec.extractLsb'_eq_self, Nat.reduceSub]
  rfl

theorem ctz (d : Reg) (a : Reg) : Statement (.ctz d a) := by
  intro wf _ rest
  refine (decode_w32 (rForm 1 0 a d 0x0E) rest (len_rForm ..)).trans ?_
  rw [major_0E _ (fMajor_rForm ..)]
  simp (disch := decide) only [decBitop, need, fRd_rForm, fRs1_rForm, fRs2_rForm, fFn_rForm, top_rForm, bit_rForm, BitVec.extractLsb'_eq_self, Nat.reduceSub]
  rfl

theorem popc (d : Reg) (a : Reg) : Statement (.popc d a) := by
  intro wf _ rest
  refine (decode_w32 (rForm 2 0 a d 0x0E) rest (len_rForm ..)).trans ?_
  rw [major_0E _ (fMajor_rForm ..)]
  simp (disch := decide) only [decBitop, need, fRd_rForm, fRs1_rForm, fRs2_rForm, fFn_rForm, top_rForm, bit_rForm, BitVec.extractLsb'_eq_self, Nat.reduceSub]
  rfl

theorem bswap (d : Reg) (a : Reg) : Statement (.bswap d a) := by
  intro wf _ rest
  refine (decode_w32 (rForm 3 0 a d 0x0E) rest (len_rForm ..)).trans ?_
  rw [major_0E _ (fMajor_rForm ..)]
  simp (disch := decide) only [decBitop, need, fRd_rForm, fRs1_rForm, fRs2_rForm, fFn_rForm, top_rForm, bit_rForm, BitVec.extractLsb'_eq_self, Nat.reduceSub]
  rfl

theorem sextb (d : Reg) (a : Reg) : Statement (.sextb d a) := by
  intro wf _ rest
  refine (decode_w32 (rForm 4 0 a d 0x0E) rest (len_rForm ..)).trans ?_
  rw [major_0E _ (fMajor_rForm ..)]
  simp (disch := decide) only [decBitop, need, fRd_rForm, fRs1_rForm, fRs2_rForm, fFn_rForm, top_rForm, bit_rForm, BitVec.extractLsb'_eq_self, Nat.reduceSub]
  rfl

theorem sexth (d : Reg) (a : Reg) : Statement (.sexth d a) := by
  intro wf _ rest
  refine (decode_w32 (rForm 5 0 a d 0x0E) rest (len_rForm ..)).trans ?_
  rw [major_0E _ (fMajor_rForm ..)]
  simp (disch := decide) only [decBitop, need, fRd_rForm, fRs1_rForm, fRs2_rForm, fFn_rForm, top_rForm, bit_rForm, BitVec.extractLsb'_eq_self, Nat.reduceSub]
  rfl

theorem zextw (d : Reg) (a : Reg) : Statement (.zextw d a) := by
  intro wf _ rest
  refine (decode_w32 (rForm 6 0 a d 0x0E) rest (len_rForm ..)).trans ?_
  rw [major_0E _ (fMajor_rForm ..)]
  simp (disch := decide) only [decBitop, need, fRd_rForm, fRs1_rForm, fRs2_rForm, fFn_rForm, top_rForm, bit_rForm, BitVec.extractLsb'_eq_self, Nat.reduceSub]
  rfl

theorem addi (d : Reg) (a : Reg) (i : BitVec 15) : Statement (.addi d a i) := by
  intro wf _ rest
  refine (decode_w32 (iForm i a d 0x04) rest (len_iForm ..)).trans ?_
  rw [major_04 _ (fMajor_iForm ..)]
  simp (disch := decide) only [fRd_iForm, fRs1_iForm, fImm15_iForm, top_iForm, bit_iForm, BitVec.extractLsb'_eq_self, Nat.reduceSub]
  rfl

theorem andi (d : Reg) (a : Reg) (i : BitVec 15) : Statement (.andi d a i) := by
  intro wf _ rest
  refine (decode_w32 (iForm i a d 0x05) rest (len_iForm ..)).trans ?_
  rw [major_05 _ (fMajor_iForm ..)]
  simp (disch := decide) only [fRd_iForm, fRs1_iForm, fImm15_iForm, top_iForm, bit_iForm, BitVec.extractLsb'_eq_self, Nat.reduceSub]
  rfl

theorem ori (d : Reg) (a : Reg) (i : BitVec 15) : Statement (.ori d a i) := by
  intro wf _ rest
  refine (decode_w32 (iForm i a d 0x06) rest (len_iForm ..)).trans ?_
  rw [major_06 _ (fMajor_iForm ..)]
  simp (disch := decide) only [fRd_iForm, fRs1_iForm, fImm15_iForm, top_iForm, bit_iForm, BitVec.extractLsb'_eq_self, Nat.reduceSub]
  rfl

theorem xori (d : Reg) (a : Reg) (i : BitVec 15) : Statement (.xori d a i) := by
  intro wf _ rest
  refine (decode_w32 (iForm i a d 0x07) rest (len_iForm ..)).trans ?_
  rw [major_07 _ (fMajor_iForm ..)]
  simp (disch := decide) only [fRd_iForm, fRs1_iForm, fImm15_iForm, top_iForm, bit_iForm, BitVec.extractLsb'_eq_self, Nat.reduceSub]
  rfl

theorem slli (d : Reg) (a : Reg) (s : BitVec 6) : Statement (.slli d a s) := by
  intro wf _ rest
  refine (decode_w32 (iForm (0#7 ++ 0#2 ++ s) a d 0x08) rest (len_iForm ..)).trans ?_
  rw [major_08 _ (fMajor_iForm ..)]
  simp (disch := decide) only [decShifti, need, fRd_iForm, fRs1_iForm, fImm15_iForm, top_iForm, bit_iForm, hi_5_5, hi_1_4, hi_8_2, hi_4_3, hi_4_3_3, hi_5_1, hi_5_1_4, hi_6_4, hi_3_12, hi_7_2, hi_7_2_6, hi_1_14, hi_2_3, hi_2_2, hi_2_2_1, hi_4_1, hi_1_2, hi_1_2_2, hi_1_1, hi_1_1_3, hi_5_7, hi_3_9, hi_3_2, lo_5_5, lo_1_4, lo_8_2, lo_4_3, lo_4_3_3, lo_5_1, lo_5_1_4, lo_6_4, lo_3_12, lo_7_2, lo_7_2_6, lo_1_14, lo_2_3, lo_2_2, lo_2_2_1, lo_4_1, lo_1_2, lo_1_2_2, lo_1_1, lo_1_1_3, lo_5_7, lo_3_9, lo_3_2, bh_5_5, bh_1_4, bh_8_2, bh_4_3, bh_4_3_3, bh_5_1, bh_5_1_4, bh_6_4, bh_3_12, bh_7_2, bh_7_2_6, bh_1_14, bh_2_3, bh_2_2, bh_2_2_1, bh_4_1, bh_1_2, bh_1_2_2, bh_1_1, bh_1_1_3, bh_5_7, bh_3_9, bh_3_2, bl_5_5, bl_1_4, bl_8_2, bl_4_3, bl_4_3_3, bl_5_1, bl_5_1_4, bl_6_4, bl_3_12, bl_7_2, bl_7_2_6, bl_1_14, bl_2_3, bl_2_2, bl_2_2_1, bl_4_1, bl_1_2, bl_1_2_2, bl_1_1, bl_1_1_3, bl_5_7, bl_3_9, bl_3_2, BitVec.extractLsb'_eq_self, Nat.reduceSub]
  rfl

theorem srli (d : Reg) (a : Reg) (s : BitVec 6) : Statement (.srli d a s) := by
  intro wf _ rest
  refine (decode_w32 (iForm (0#7 ++ 1#2 ++ s) a d 0x08) rest (len_iForm ..)).trans ?_
  rw [major_08 _ (fMajor_iForm ..)]
  simp (disch := decide) only [decShifti, need, fRd_iForm, fRs1_iForm, fImm15_iForm, top_iForm, bit_iForm, hi_5_5, hi_1_4, hi_8_2, hi_4_3, hi_4_3_3, hi_5_1, hi_5_1_4, hi_6_4, hi_3_12, hi_7_2, hi_7_2_6, hi_1_14, hi_2_3, hi_2_2, hi_2_2_1, hi_4_1, hi_1_2, hi_1_2_2, hi_1_1, hi_1_1_3, hi_5_7, hi_3_9, hi_3_2, lo_5_5, lo_1_4, lo_8_2, lo_4_3, lo_4_3_3, lo_5_1, lo_5_1_4, lo_6_4, lo_3_12, lo_7_2, lo_7_2_6, lo_1_14, lo_2_3, lo_2_2, lo_2_2_1, lo_4_1, lo_1_2, lo_1_2_2, lo_1_1, lo_1_1_3, lo_5_7, lo_3_9, lo_3_2, bh_5_5, bh_1_4, bh_8_2, bh_4_3, bh_4_3_3, bh_5_1, bh_5_1_4, bh_6_4, bh_3_12, bh_7_2, bh_7_2_6, bh_1_14, bh_2_3, bh_2_2, bh_2_2_1, bh_4_1, bh_1_2, bh_1_2_2, bh_1_1, bh_1_1_3, bh_5_7, bh_3_9, bh_3_2, bl_5_5, bl_1_4, bl_8_2, bl_4_3, bl_4_3_3, bl_5_1, bl_5_1_4, bl_6_4, bl_3_12, bl_7_2, bl_7_2_6, bl_1_14, bl_2_3, bl_2_2, bl_2_2_1, bl_4_1, bl_1_2, bl_1_2_2, bl_1_1, bl_1_1_3, bl_5_7, bl_3_9, bl_3_2, BitVec.extractLsb'_eq_self, Nat.reduceSub]
  rfl

theorem srai (d : Reg) (a : Reg) (s : BitVec 6) : Statement (.srai d a s) := by
  intro wf _ rest
  refine (decode_w32 (iForm (0#7 ++ 2#2 ++ s) a d 0x08) rest (len_iForm ..)).trans ?_
  rw [major_08 _ (fMajor_iForm ..)]
  simp (disch := decide) only [decShifti, need, fRd_iForm, fRs1_iForm, fImm15_iForm, top_iForm, bit_iForm, hi_5_5, hi_1_4, hi_8_2, hi_4_3, hi_4_3_3, hi_5_1, hi_5_1_4, hi_6_4, hi_3_12, hi_7_2, hi_7_2_6, hi_1_14, hi_2_3, hi_2_2, hi_2_2_1, hi_4_1, hi_1_2, hi_1_2_2, hi_1_1, hi_1_1_3, hi_5_7, hi_3_9, hi_3_2, lo_5_5, lo_1_4, lo_8_2, lo_4_3, lo_4_3_3, lo_5_1, lo_5_1_4, lo_6_4, lo_3_12, lo_7_2, lo_7_2_6, lo_1_14, lo_2_3, lo_2_2, lo_2_2_1, lo_4_1, lo_1_2, lo_1_2_2, lo_1_1, lo_1_1_3, lo_5_7, lo_3_9, lo_3_2, bh_5_5, bh_1_4, bh_8_2, bh_4_3, bh_4_3_3, bh_5_1, bh_5_1_4, bh_6_4, bh_3_12, bh_7_2, bh_7_2_6, bh_1_14, bh_2_3, bh_2_2, bh_2_2_1, bh_4_1, bh_1_2, bh_1_2_2, bh_1_1, bh_1_1_3, bh_5_7, bh_3_9, bh_3_2, bl_5_5, bl_1_4, bl_8_2, bl_4_3, bl_4_3_3, bl_5_1, bl_5_1_4, bl_6_4, bl_3_12, bl_7_2, bl_7_2_6, bl_1_14, bl_2_3, bl_2_2, bl_2_2_1, bl_4_1, bl_1_2, bl_1_2_2, bl_1_1, bl_1_1_3, bl_5_7, bl_3_9, bl_3_2, BitVec.extractLsb'_eq_self, Nat.reduceSub]
  rfl

theorem slti (d : Reg) (a : Reg) (i : BitVec 15) : Statement (.slti d a i) := by
  intro wf _ rest
  refine (decode_w32 (iForm i a d 0x09) rest (len_iForm ..)).trans ?_
  rw [major_09 _ (fMajor_iForm ..)]
  simp (disch := decide) only [fRd_iForm, fRs1_iForm, fImm15_iForm, top_iForm, bit_iForm, BitVec.extractLsb'_eq_self, Nat.reduceSub]
  rfl

theorem sltiu (d : Reg) (a : Reg) (i : BitVec 15) : Statement (.sltiu d a i) := by
  intro wf _ rest
  refine (decode_w32 (iForm i a d 0x0A) rest (len_iForm ..)).trans ?_
  rw [major_0A _ (fMajor_iForm ..)]
  simp (disch := decide) only [fRd_iForm, fRs1_iForm, fImm15_iForm, top_iForm, bit_iForm, BitVec.extractLsb'_eq_self, Nat.reduceSub]
  rfl

theorem addiw (d : Reg) (a : Reg) (i : BitVec 15) : Statement (.addiw d a i) := by
  intro wf _ rest
  refine (decode_w32 (iForm i a d 0x0B) rest (len_iForm ..)).trans ?_
  rw [major_0B _ (fMajor_iForm ..)]
  simp (disch := decide) only [fRd_iForm, fRs1_iForm, fImm15_iForm, top_iForm, bit_iForm, BitVec.extractLsb'_eq_self, Nat.reduceSub]
  rfl

theorem lui (d : Reg) (i : BitVec 20) : Statement (.lui d i) := by
  intro wf _ rest
  refine (decode_w32 (uForm i d 0x0C) rest (len_uForm ..)).trans ?_
  rw [major_0C _ (fMajor_uForm ..)]
  simp (disch := decide) only [fRd_uForm, fImm20_uForm, top_uForm, bit_uForm, BitVec.extractLsb'_eq_self, Nat.reduceSub]
  rfl

theorem addpc (d : Reg) (i : BitVec 20) : Statement (.addpc d i) := by
  intro wf _ rest
  refine (decode_w32 (uForm i d 0x0D) rest (len_uForm ..)).trans ?_
  rw [major_0D _ (fMajor_uForm ..)]
  simp (disch := decide) only [fRd_uForm, fImm20_uForm, top_uForm, bit_uForm, BitVec.extractLsb'_eq_self, Nat.reduceSub]
  rfl

theorem lca (d : Reg) (a : Reg) (i : BitVec 14) : Statement (.lca d a i) := by
  intro wf _ rest
  refine (decode_w32 (iForm (0#1 ++ i) a d 0x0F) rest (len_iForm ..)).trans ?_
  rw [major_0F _ (fMajor_iForm ..)]
  simp (disch := decide) only [decAddr, need, fRd_iForm, fRs1_iForm, fImm15_iForm, top_iForm, bit_iForm, hi_5_5, hi_1_4, hi_8_2, hi_4_3, hi_4_3_3, hi_5_1, hi_5_1_4, hi_6_4, hi_3_12, hi_7_2, hi_7_2_6, hi_1_14, hi_2_3, hi_2_2, hi_2_2_1, hi_4_1, hi_1_2, hi_1_2_2, hi_1_1, hi_1_1_3, hi_5_7, hi_3_9, hi_3_2, lo_5_5, lo_1_4, lo_8_2, lo_4_3, lo_4_3_3, lo_5_1, lo_5_1_4, lo_6_4, lo_3_12, lo_7_2, lo_7_2_6, lo_1_14, lo_2_3, lo_2_2, lo_2_2_1, lo_4_1, lo_1_2, lo_1_2_2, lo_1_1, lo_1_1_3, lo_5_7, lo_3_9, lo_3_2, bh_5_5, bh_1_4, bh_8_2, bh_4_3, bh_4_3_3, bh_5_1, bh_5_1_4, bh_6_4, bh_3_12, bh_7_2, bh_7_2_6, bh_1_14, bh_2_3, bh_2_2, bh_2_2_1, bh_4_1, bh_1_2, bh_1_2_2, bh_1_1, bh_1_1_3, bh_5_7, bh_3_9, bh_3_2, bl_5_5, bl_1_4, bl_8_2, bl_4_3, bl_4_3_3, bl_5_1, bl_5_1_4, bl_6_4, bl_3_12, bl_7_2, bl_7_2_6, bl_1_14, bl_2_3, bl_2_2, bl_2_2_1, bl_4_1, bl_1_2, bl_1_2_2, bl_1_1, bl_1_1_3, bl_5_7, bl_3_9, bl_3_2, BitVec.extractLsb'_eq_self, Nat.reduceSub]
  rfl

theorem addx2 (d : Reg) (a : Reg) (b : Reg) : Statement (.addx2 d a b) := by
  intro wf _ rest
  refine (decode_w32 (rForm 0x200 b a d 0x0F) rest (len_rForm ..)).trans ?_
  rw [major_0F _ (fMajor_rForm ..)]
  simp (disch := decide) only [decAddr, need, fRd_rForm, fRs1_rForm, fRs2_rForm, fFn_rForm, top_rForm, bit_rForm, BitVec.extractLsb'_eq_self, Nat.reduceSub]
  rfl

theorem addx4 (d : Reg) (a : Reg) (b : Reg) : Statement (.addx4 d a b) := by
  intro wf _ rest
  refine (decode_w32 (rForm 0x201 b a d 0x0F) rest (len_rForm ..)).trans ?_
  rw [major_0F _ (fMajor_rForm ..)]
  simp (disch := decide) only [decAddr, need, fRd_rForm, fRs1_rForm, fRs2_rForm, fFn_rForm, top_rForm, bit_rForm, BitVec.extractLsb'_eq_self, Nat.reduceSub]
  rfl

theorem addx8 (d : Reg) (a : Reg) (b : Reg) : Statement (.addx8 d a b) := by
  intro wf _ rest
  refine (decode_w32 (rForm 0x202 b a d 0x0F) rest (len_rForm ..)).trans ?_
  rw [major_0F _ (fMajor_rForm ..)]
  simp (disch := decide) only [decAddr, need, fRd_rForm, fRs1_rForm, fRs2_rForm, fFn_rForm, top_rForm, bit_rForm, BitVec.extractLsb'_eq_self, Nat.reduceSub]
  rfl

theorem lcr (d : Reg) (a : Reg) (b : Reg) : Statement (.lcr d a b) := by
  intro wf _ rest
  refine (decode_w32 (rForm 0x203 b a d 0x0F) rest (len_rForm ..)).trans ?_
  rw [major_0F _ (fMajor_rForm ..)]
  simp (disch := decide) only [decAddr, need, fRd_rForm, fRs1_rForm, fRs2_rForm, fFn_rForm, top_rForm, bit_rForm, BitVec.extractLsb'_eq_self, Nat.reduceSub]
  rfl

theorem lcx (d : Reg) (a : Reg) : Statement (.lcx d a) := by
  intro wf _ rest
  refine (decode_w32 (rForm 0x204 0 a d 0x0F) rest (len_rForm ..)).trans ?_
  rw [major_0F _ (fMajor_rForm ..)]
  simp (disch := decide) only [decAddr, need, fRd_rForm, fRs1_rForm, fRs2_rForm, fFn_rForm, top_rForm, bit_rForm, BitVec.extractLsb'_eq_self, Nat.reduceSub]
  rfl

theorem beq (a : Reg) (b : Reg) (i : BitVec 12) : Statement (.beq a b i) := by
  intro wf _ rest
  refine (decode_w32 (lForm i 0 b a 0x10) rest (len_lForm ..)).trans ?_
  rw [major_10 _ (fMajor_lForm ..)]
  simp (disch := decide) only [decBranch, need, fRd_lForm, fRs1_lForm, fImm12_lForm, fSize_lForm, top_lForm, bit_lForm, BitVec.extractLsb'_eq_self, Nat.reduceSub]
  rfl

theorem bne (a : Reg) (b : Reg) (i : BitVec 12) : Statement (.bne a b i) := by
  intro wf _ rest
  refine (decode_w32 (lForm i 1 b a 0x10) rest (len_lForm ..)).trans ?_
  rw [major_10 _ (fMajor_lForm ..)]
  simp (disch := decide) only [decBranch, need, fRd_lForm, fRs1_lForm, fImm12_lForm, fSize_lForm, top_lForm, bit_lForm, BitVec.extractLsb'_eq_self, Nat.reduceSub]
  rfl

theorem blt (a : Reg) (b : Reg) (i : BitVec 12) : Statement (.blt a b i) := by
  intro wf _ rest
  refine (decode_w32 (lForm i 2 b a 0x10) rest (len_lForm ..)).trans ?_
  rw [major_10 _ (fMajor_lForm ..)]
  simp (disch := decide) only [decBranch, need, fRd_lForm, fRs1_lForm, fImm12_lForm, fSize_lForm, top_lForm, bit_lForm, BitVec.extractLsb'_eq_self, Nat.reduceSub]
  rfl

theorem bge (a : Reg) (b : Reg) (i : BitVec 12) : Statement (.bge a b i) := by
  intro wf _ rest
  refine (decode_w32 (lForm i 3 b a 0x10) rest (len_lForm ..)).trans ?_
  rw [major_10 _ (fMajor_lForm ..)]
  simp (disch := decide) only [decBranch, need, fRd_lForm, fRs1_lForm, fImm12_lForm, fSize_lForm, top_lForm, bit_lForm, BitVec.extractLsb'_eq_self, Nat.reduceSub]
  rfl

theorem bltu (a : Reg) (b : Reg) (i : BitVec 12) : Statement (.bltu a b i) := by
  intro wf _ rest
  refine (decode_w32 (lForm i 4 b a 0x10) rest (len_lForm ..)).trans ?_
  rw [major_10 _ (fMajor_lForm ..)]
  simp (disch := decide) only [decBranch, need, fRd_lForm, fRs1_lForm, fImm12_lForm, fSize_lForm, top_lForm, bit_lForm, BitVec.extractLsb'_eq_self, Nat.reduceSub]
  rfl

theorem bgeu (a : Reg) (b : Reg) (i : BitVec 12) : Statement (.bgeu a b i) := by
  intro wf _ rest
  refine (decode_w32 (lForm i 5 b a 0x10) rest (len_lForm ..)).trans ?_
  rw [major_10 _ (fMajor_lForm ..)]
  simp (disch := decide) only [decBranch, need, fRd_lForm, fRs1_lForm, fImm12_lForm, fSize_lForm, top_lForm, bit_lForm, BitVec.extractLsb'_eq_self, Nat.reduceSub]
  rfl

theorem bto (i : BitVec 12) : Statement (.bto i) := by
  intro wf _ rest
  refine (decode_w32 (lForm i 6 0 0 0x10) rest (len_lForm ..)).trans ?_
  rw [major_10 _ (fMajor_lForm ..)]
  simp (disch := decide) only [decBranch, need, fRd_lForm, fRs1_lForm, fImm12_lForm, fSize_lForm, top_lForm, bit_lForm, BitVec.extractLsb'_eq_self, Nat.reduceSub]
  rfl

theorem bnto (i : BitVec 12) : Statement (.bnto i) := by
  intro wf _ rest
  refine (decode_w32 (lForm i 7 0 0 0x10) rest (len_lForm ..)).trans ?_
  rw [major_10 _ (fMajor_lForm ..)]
  simp (disch := decide) only [decBranch, need, fRd_lForm, fRs1_lForm, fImm12_lForm, fSize_lForm, top_lForm, bit_lForm, BitVec.extractLsb'_eq_self, Nat.reduceSub]
  rfl

theorem jal (d : Reg) (i : BitVec 20) : Statement (.jal d i) := by
  intro wf _ rest
  refine (decode_w32 (uForm i d 0x11) rest (len_uForm ..)).trans ?_
  rw [major_11 _ (fMajor_uForm ..)]
  simp (disch := decide) only [fRd_uForm, fImm20_uForm, top_uForm, bit_uForm, BitVec.extractLsb'_eq_self, Nat.reduceSub]
  rfl

theorem jalr (d : Reg) (a : Reg) (i : BitVec 15) : Statement (.jalr d a i) := by
  intro wf _ rest
  refine (decode_w32 (iForm i a d 0x12) rest (len_iForm ..)).trans ?_
  rw [major_12 _ (fMajor_iForm ..)]
  simp (disch := decide) only [fRd_iForm, fRs1_iForm, fImm15_iForm, top_iForm, bit_iForm, BitVec.extractLsb'_eq_self, Nat.reduceSub]
  rfl

theorem lb (d : Reg) (a : Reg) (i : BitVec 12) : Statement (.lb d a i) := by
  intro wf _ rest
  refine (decode_w32 (lForm i 0 a d 0x14) rest (len_lForm ..)).trans ?_
  rw [major_14 _ (fMajor_lForm ..)]
  simp (disch := decide) only [decLoad, need, fRd_lForm, fRs1_lForm, fImm12_lForm, fSize_lForm, top_lForm, bit_lForm, BitVec.extractLsb'_eq_self, Nat.reduceSub]
  rfl

theorem lh (d : Reg) (a : Reg) (i : BitVec 12) : Statement (.lh d a i) := by
  intro wf _ rest
  refine (decode_w32 (lForm i 1 a d 0x14) rest (len_lForm ..)).trans ?_
  rw [major_14 _ (fMajor_lForm ..)]
  simp (disch := decide) only [decLoad, need, fRd_lForm, fRs1_lForm, fImm12_lForm, fSize_lForm, top_lForm, bit_lForm, BitVec.extractLsb'_eq_self, Nat.reduceSub]
  rfl

theorem lw (d : Reg) (a : Reg) (i : BitVec 12) : Statement (.lw d a i) := by
  intro wf _ rest
  refine (decode_w32 (lForm i 2 a d 0x14) rest (len_lForm ..)).trans ?_
  rw [major_14 _ (fMajor_lForm ..)]
  simp (disch := decide) only [decLoad, need, fRd_lForm, fRs1_lForm, fImm12_lForm, fSize_lForm, top_lForm, bit_lForm, BitVec.extractLsb'_eq_self, Nat.reduceSub]
  rfl

theorem ld (d : Reg) (a : Reg) (i : BitVec 12) : Statement (.ld d a i) := by
  intro wf _ rest
  refine (decode_w32 (lForm i 3 a d 0x14) rest (len_lForm ..)).trans ?_
  rw [major_14 _ (fMajor_lForm ..)]
  simp (disch := decide) only [decLoad, need, fRd_lForm, fRs1_lForm, fImm12_lForm, fSize_lForm, top_lForm, bit_lForm, BitVec.extractLsb'_eq_self, Nat.reduceSub]
  rfl

theorem lbu (d : Reg) (a : Reg) (i : BitVec 12) : Statement (.lbu d a i) := by
  intro wf _ rest
  refine (decode_w32 (lForm i 4 a d 0x14) rest (len_lForm ..)).trans ?_
  rw [major_14 _ (fMajor_lForm ..)]
  simp (disch := decide) only [decLoad, need, fRd_lForm, fRs1_lForm, fImm12_lForm, fSize_lForm, top_lForm, bit_lForm, BitVec.extractLsb'_eq_self, Nat.reduceSub]
  rfl

theorem lhu (d : Reg) (a : Reg) (i : BitVec 12) : Statement (.lhu d a i) := by
  intro wf _ rest
  refine (decode_w32 (lForm i 5 a d 0x14) rest (len_lForm ..)).trans ?_
  rw [major_14 _ (fMajor_lForm ..)]
  simp (disch := decide) only [decLoad, need, fRd_lForm, fRs1_lForm, fImm12_lForm, fSize_lForm, top_lForm, bit_lForm, BitVec.extractLsb'_eq_self, Nat.reduceSub]
  rfl

theorem lwu (d : Reg) (a : Reg) (i : BitVec 12) : Statement (.lwu d a i) := by
  intro wf _ rest
  refine (decode_w32 (lForm i 6 a d 0x14) rest (len_lForm ..)).trans ?_
  rw [major_14 _ (fMajor_lForm ..)]
  simp (disch := decide) only [decLoad, need, fRd_lForm, fRs1_lForm, fImm12_lForm, fSize_lForm, top_lForm, bit_lForm, BitVec.extractLsb'_eq_self, Nat.reduceSub]
  rfl

theorem sb (d : Reg) (a : Reg) (i : BitVec 12) : Statement (.sb d a i) := by
  intro wf _ rest
  refine (decode_w32 (lForm i 0 a d 0x15) rest (len_lForm ..)).trans ?_
  rw [major_15 _ (fMajor_lForm ..)]
  simp (disch := decide) only [decStore, need, fRd_lForm, fRs1_lForm, fImm12_lForm, fSize_lForm, top_lForm, bit_lForm, BitVec.extractLsb'_eq_self, Nat.reduceSub]
  rfl

theorem sh (d : Reg) (a : Reg) (i : BitVec 12) : Statement (.sh d a i) := by
  intro wf _ rest
  refine (decode_w32 (lForm i 1 a d 0x15) rest (len_lForm ..)).trans ?_
  rw [major_15 _ (fMajor_lForm ..)]
  simp (disch := decide) only [decStore, need, fRd_lForm, fRs1_lForm, fImm12_lForm, fSize_lForm, top_lForm, bit_lForm, BitVec.extractLsb'_eq_self, Nat.reduceSub]
  rfl

theorem sw (d : Reg) (a : Reg) (i : BitVec 12) : Statement (.sw d a i) := by
  intro wf _ rest
  refine (decode_w32 (lForm i 2 a d 0x15) rest (len_lForm ..)).trans ?_
  rw [major_15 _ (fMajor_lForm ..)]
  simp (disch := decide) only [decStore, need, fRd_lForm, fRs1_lForm, fImm12_lForm, fSize_lForm, top_lForm, bit_lForm, BitVec.extractLsb'_eq_self, Nat.reduceSub]
  rfl

theorem sd (d : Reg) (a : Reg) (i : BitVec 12) : Statement (.sd d a i) := by
  intro wf _ rest
  refine (decode_w32 (lForm i 3 a d 0x15) rest (len_lForm ..)).trans ?_
  rw [major_15 _ (fMajor_lForm ..)]
  simp (disch := decide) only [decStore, need, fRd_lForm, fRs1_lForm, fImm12_lForm, fSize_lForm, top_lForm, bit_lForm, BitVec.extractLsb'_eq_self, Nat.reduceSub]
  rfl

theorem ldacq (d : Reg) (a : Reg) (i : BitVec 12) : Statement (.ldacq d a i) := by
  intro wf _ rest
  refine (decode_w32 (lForm i 0 a d 0x16) rest (len_lForm ..)).trans ?_
  rw [major_16 _ (fMajor_lForm ..)]
  simp (disch := decide) only [decLoadx, need, fRd_lForm, fRs1_lForm, fImm12_lForm, fSize_lForm, top_lForm, bit_lForm, BitVec.extractLsb'_eq_self, Nat.reduceSub]
  rfl

theorem ldf (d : Reg) (a : Reg) (o : BitVec 7) (b : Reg) : Statement (.ldf d a o b) := by
  intro wf _ rest
  refine (decode_w32 (lForm (b ++ o) 1 a d 0x16) rest (len_lForm ..)).trans ?_
  rw [major_16 _ (fMajor_lForm ..)]
  simp (disch := decide) only [decLoadx, need, fRd_lForm, fRs1_lForm, fImm12_lForm, fSize_lForm, top_lForm, bit_lForm, hi_5_5, hi_1_4, hi_8_2, hi_4_3, hi_4_3_3, hi_5_1, hi_5_1_4, hi_6_4, hi_3_12, hi_7_2, hi_7_2_6, hi_1_14, hi_2_3, hi_2_2, hi_2_2_1, hi_4_1, hi_1_2, hi_1_2_2, hi_1_1, hi_1_1_3, hi_5_7, hi_3_9, hi_3_2, lo_5_5, lo_1_4, lo_8_2, lo_4_3, lo_4_3_3, lo_5_1, lo_5_1_4, lo_6_4, lo_3_12, lo_7_2, lo_7_2_6, lo_1_14, lo_2_3, lo_2_2, lo_2_2_1, lo_4_1, lo_1_2, lo_1_2_2, lo_1_1, lo_1_1_3, lo_5_7, lo_3_9, lo_3_2, bh_5_5, bh_1_4, bh_8_2, bh_4_3, bh_4_3_3, bh_5_1, bh_5_1_4, bh_6_4, bh_3_12, bh_7_2, bh_7_2_6, bh_1_14, bh_2_3, bh_2_2, bh_2_2_1, bh_4_1, bh_1_2, bh_1_2_2, bh_1_1, bh_1_1_3, bh_5_7, bh_3_9, bh_3_2, bl_5_5, bl_1_4, bl_8_2, bl_4_3, bl_4_3_3, bl_5_1, bl_5_1_4, bl_6_4, bl_3_12, bl_7_2, bl_7_2_6, bl_1_14, bl_2_3, bl_2_2, bl_2_2_1, bl_4_1, bl_1_2, bl_1_2_2, bl_1_1, bl_1_1_3, bl_5_7, bl_3_9, bl_3_2, BitVec.extractLsb'_eq_self, Nat.reduceSub]
  rfl

theorem ldfe (d : Reg) (a : Reg) (o : BitVec 7) (b : Reg) : Statement (.ldfe d a o b) := by
  intro wf _ rest
  refine (decode_w32 (lForm (b ++ o) 2 a d 0x16) rest (len_lForm ..)).trans ?_
  rw [major_16 _ (fMajor_lForm ..)]
  simp (disch := decide) only [decLoadx, need, fRd_lForm, fRs1_lForm, fImm12_lForm, fSize_lForm, top_lForm, bit_lForm, hi_5_5, hi_1_4, hi_8_2, hi_4_3, hi_4_3_3, hi_5_1, hi_5_1_4, hi_6_4, hi_3_12, hi_7_2, hi_7_2_6, hi_1_14, hi_2_3, hi_2_2, hi_2_2_1, hi_4_1, hi_1_2, hi_1_2_2, hi_1_1, hi_1_1_3, hi_5_7, hi_3_9, hi_3_2, lo_5_5, lo_1_4, lo_8_2, lo_4_3, lo_4_3_3, lo_5_1, lo_5_1_4, lo_6_4, lo_3_12, lo_7_2, lo_7_2_6, lo_1_14, lo_2_3, lo_2_2, lo_2_2_1, lo_4_1, lo_1_2, lo_1_2_2, lo_1_1, lo_1_1_3, lo_5_7, lo_3_9, lo_3_2, bh_5_5, bh_1_4, bh_8_2, bh_4_3, bh_4_3_3, bh_5_1, bh_5_1_4, bh_6_4, bh_3_12, bh_7_2, bh_7_2_6, bh_1_14, bh_2_3, bh_2_2, bh_2_2_1, bh_4_1, bh_1_2, bh_1_2_2, bh_1_1, bh_1_1_3, bh_5_7, bh_3_9, bh_3_2, bl_5_5, bl_1_4, bl_8_2, bl_4_3, bl_4_3_3, bl_5_1, bl_5_1_4, bl_6_4, bl_3_12, bl_7_2, bl_7_2_6, bl_1_14, bl_2_3, bl_2_2, bl_2_2_1, bl_4_1, bl_1_2, bl_1_2_2, bl_1_1, bl_1_1_3, bl_5_7, bl_3_9, bl_3_2, BitVec.extractLsb'_eq_self, Nat.reduceSub]
  rfl

theorem probe (d : Reg) (a : Reg) (i : BitVec 12) : Statement (.probe d a i) := by
  intro wf _ rest
  refine (decode_w32 (lForm i 3 a d 0x16) rest (len_lForm ..)).trans ?_
  rw [major_16 _ (fMajor_lForm ..)]
  simp (disch := decide) only [decLoadx, need, fRd_lForm, fRs1_lForm, fImm12_lForm, fSize_lForm, top_lForm, bit_lForm, BitVec.extractLsb'_eq_self, Nat.reduceSub]
  rfl

theorem sdrel (d : Reg) (a : Reg) (i : BitVec 12) : Statement (.sdrel d a i) := by
  intro wf _ rest
  refine (decode_w32 (lForm i 0 a d 0x17) rest (len_lForm ..)).trans ?_
  rw [major_17 _ (fMajor_lForm ..)]
  simp (disch := decide) only [decStorex, need, fRd_lForm, fRs1_lForm, fImm12_lForm, fSize_lForm, top_lForm, bit_lForm, BitVec.extractLsb'_eq_self, Nat.reduceSub]
  rfl

theorem ste (d : Reg) (a : Reg) (i : BitVec 12) : Statement (.ste d a i) := by
  intro wf _ rest
  refine (decode_w32 (lForm i 1 a d 0x17) rest (len_lForm ..)).trans ?_
  rw [major_17 _ (fMajor_lForm ..)]
  simp (disch := decide) only [decStorex, need, fRd_lForm, fRs1_lForm, fImm12_lForm, fSize_lForm, top_lForm, bit_lForm, BitVec.extractLsb'_eq_self, Nat.reduceSub]
  rfl

theorem stf (d : Reg) (a : Reg) (o : BitVec 7) (b : Reg) : Statement (.stf d a o b) := by
  intro wf _ rest
  refine (decode_w32 (lForm (b ++ o) 2 a d 0x17) rest (len_lForm ..)).trans ?_
  rw [major_17 _ (fMajor_lForm ..)]
  simp (disch := decide) only [decStorex, need, fRd_lForm, fRs1_lForm, fImm12_lForm, fSize_lForm, top_lForm, bit_lForm, hi_5_5, hi_1_4, hi_8_2, hi_4_3, hi_4_3_3, hi_5_1, hi_5_1_4, hi_6_4, hi_3_12, hi_7_2, hi_7_2_6, hi_1_14, hi_2_3, hi_2_2, hi_2_2_1, hi_4_1, hi_1_2, hi_1_2_2, hi_1_1, hi_1_1_3, hi_5_7, hi_3_9, hi_3_2, lo_5_5, lo_1_4, lo_8_2, lo_4_3, lo_4_3_3, lo_5_1, lo_5_1_4, lo_6_4, lo_3_12, lo_7_2, lo_7_2_6, lo_1_14, lo_2_3, lo_2_2, lo_2_2_1, lo_4_1, lo_1_2, lo_1_2_2, lo_1_1, lo_1_1_3, lo_5_7, lo_3_9, lo_3_2, bh_5_5, bh_1_4, bh_8_2, bh_4_3, bh_4_3_3, bh_5_1, bh_5_1_4, bh_6_4, bh_3_12, bh_7_2, bh_7_2_6, bh_1_14, bh_2_3, bh_2_2, bh_2_2_1, bh_4_1, bh_1_2, bh_1_2_2, bh_1_1, bh_1_1_3, bh_5_7, bh_3_9, bh_3_2, bl_5_5, bl_1_4, bl_8_2, bl_4_3, bl_4_3_3, bl_5_1, bl_5_1_4, bl_6_4, bl_3_12, bl_7_2, bl_7_2_6, bl_1_14, bl_2_3, bl_2_2, bl_2_2_1, bl_4_1, bl_1_2, bl_1_2_2, bl_1_1, bl_1_1_3, bl_5_7, bl_3_9, bl_3_2, BitVec.extractLsb'_eq_self, Nat.reduceSub]
  rfl

theorem sete (a : Reg) (i : BitVec 12) : Statement (.sete a i) := by
  intro wf _ rest
  refine (decode_w32 (lForm i 3 a 0 0x17) rest (len_lForm ..)).trans ?_
  rw [major_17 _ (fMajor_lForm ..)]
  simp (disch := decide) only [decStorex, need, fRd_lForm, fRs1_lForm, fImm12_lForm, fSize_lForm, top_lForm, bit_lForm, BitVec.extractLsb'_eq_self, Nat.reduceSub]
  rfl

theorem amoadd (w : Bool) (d : Reg) (a : Reg) (b : Reg) : Statement (.amoadd w d a b) := by
  intro wf _ rest
  refine (decode_w32 (eForm (b1 w ++ 0#4) 0 b a d 0x18) rest (len_eForm ..)).trans ?_
  rw [major_18 _ (fMajor_eForm ..)]
  simp (disch := decide) only [decAmo, need, fRd_eForm, fRs1_eForm, fRs2_eForm, fRs3_eForm, top_eForm, bit_eForm, bit_b1, hi_5_5, hi_1_4, hi_8_2, hi_4_3, hi_4_3_3, hi_5_1, hi_5_1_4, hi_6_4, hi_3_12, hi_7_2, hi_7_2_6, hi_1_14, hi_2_3, hi_2_2, hi_2_2_1, hi_4_1, hi_1_2, hi_1_2_2, hi_1_1, hi_1_1_3, hi_5_7, hi_3_9, hi_3_2, lo_5_5, lo_1_4, lo_8_2, lo_4_3, lo_4_3_3, lo_5_1, lo_5_1_4, lo_6_4, lo_3_12, lo_7_2, lo_7_2_6, lo_1_14, lo_2_3, lo_2_2, lo_2_2_1, lo_4_1, lo_1_2, lo_1_2_2, lo_1_1, lo_1_1_3, lo_5_7, lo_3_9, lo_3_2, bh_5_5, bh_1_4, bh_8_2, bh_4_3, bh_4_3_3, bh_5_1, bh_5_1_4, bh_6_4, bh_3_12, bh_7_2, bh_7_2_6, bh_1_14, bh_2_3, bh_2_2, bh_2_2_1, bh_4_1, bh_1_2, bh_1_2_2, bh_1_1, bh_1_1_3, bh_5_7, bh_3_9, bh_3_2, bl_5_5, bl_1_4, bl_8_2, bl_4_3, bl_4_3_3, bl_5_1, bl_5_1_4, bl_6_4, bl_3_12, bl_7_2, bl_7_2_6, bl_1_14, bl_2_3, bl_2_2, bl_2_2_1, bl_4_1, bl_1_2, bl_1_2_2, bl_1_1, bl_1_1_3, bl_5_7, bl_3_9, bl_3_2, BitVec.extractLsb'_eq_self, Nat.reduceSub]
  rfl

theorem amoand (w : Bool) (d : Reg) (a : Reg) (b : Reg) : Statement (.amoand w d a b) := by
  intro wf _ rest
  refine (decode_w32 (eForm (b1 w ++ 1#4) 0 b a d 0x18) rest (len_eForm ..)).trans ?_
  rw [major_18 _ (fMajor_eForm ..)]
  simp (disch := decide) only [decAmo, need, fRd_eForm, fRs1_eForm, fRs2_eForm, fRs3_eForm, top_eForm, bit_eForm, bit_b1, hi_5_5, hi_1_4, hi_8_2, hi_4_3, hi_4_3_3, hi_5_1, hi_5_1_4, hi_6_4, hi_3_12, hi_7_2, hi_7_2_6, hi_1_14, hi_2_3, hi_2_2, hi_2_2_1, hi_4_1, hi_1_2, hi_1_2_2, hi_1_1, hi_1_1_3, hi_5_7, hi_3_9, hi_3_2, lo_5_5, lo_1_4, lo_8_2, lo_4_3, lo_4_3_3, lo_5_1, lo_5_1_4, lo_6_4, lo_3_12, lo_7_2, lo_7_2_6, lo_1_14, lo_2_3, lo_2_2, lo_2_2_1, lo_4_1, lo_1_2, lo_1_2_2, lo_1_1, lo_1_1_3, lo_5_7, lo_3_9, lo_3_2, bh_5_5, bh_1_4, bh_8_2, bh_4_3, bh_4_3_3, bh_5_1, bh_5_1_4, bh_6_4, bh_3_12, bh_7_2, bh_7_2_6, bh_1_14, bh_2_3, bh_2_2, bh_2_2_1, bh_4_1, bh_1_2, bh_1_2_2, bh_1_1, bh_1_1_3, bh_5_7, bh_3_9, bh_3_2, bl_5_5, bl_1_4, bl_8_2, bl_4_3, bl_4_3_3, bl_5_1, bl_5_1_4, bl_6_4, bl_3_12, bl_7_2, bl_7_2_6, bl_1_14, bl_2_3, bl_2_2, bl_2_2_1, bl_4_1, bl_1_2, bl_1_2_2, bl_1_1, bl_1_1_3, bl_5_7, bl_3_9, bl_3_2, BitVec.extractLsb'_eq_self, Nat.reduceSub]
  rfl

theorem amoor (w : Bool) (d : Reg) (a : Reg) (b : Reg) : Statement (.amoor w d a b) := by
  intro wf _ rest
  refine (decode_w32 (eForm (b1 w ++ 2#4) 0 b a d 0x18) rest (len_eForm ..)).trans ?_
  rw [major_18 _ (fMajor_eForm ..)]
  simp (disch := decide) only [decAmo, need, fRd_eForm, fRs1_eForm, fRs2_eForm, fRs3_eForm, top_eForm, bit_eForm, bit_b1, hi_5_5, hi_1_4, hi_8_2, hi_4_3, hi_4_3_3, hi_5_1, hi_5_1_4, hi_6_4, hi_3_12, hi_7_2, hi_7_2_6, hi_1_14, hi_2_3, hi_2_2, hi_2_2_1, hi_4_1, hi_1_2, hi_1_2_2, hi_1_1, hi_1_1_3, hi_5_7, hi_3_9, hi_3_2, lo_5_5, lo_1_4, lo_8_2, lo_4_3, lo_4_3_3, lo_5_1, lo_5_1_4, lo_6_4, lo_3_12, lo_7_2, lo_7_2_6, lo_1_14, lo_2_3, lo_2_2, lo_2_2_1, lo_4_1, lo_1_2, lo_1_2_2, lo_1_1, lo_1_1_3, lo_5_7, lo_3_9, lo_3_2, bh_5_5, bh_1_4, bh_8_2, bh_4_3, bh_4_3_3, bh_5_1, bh_5_1_4, bh_6_4, bh_3_12, bh_7_2, bh_7_2_6, bh_1_14, bh_2_3, bh_2_2, bh_2_2_1, bh_4_1, bh_1_2, bh_1_2_2, bh_1_1, bh_1_1_3, bh_5_7, bh_3_9, bh_3_2, bl_5_5, bl_1_4, bl_8_2, bl_4_3, bl_4_3_3, bl_5_1, bl_5_1_4, bl_6_4, bl_3_12, bl_7_2, bl_7_2_6, bl_1_14, bl_2_3, bl_2_2, bl_2_2_1, bl_4_1, bl_1_2, bl_1_2_2, bl_1_1, bl_1_1_3, bl_5_7, bl_3_9, bl_3_2, BitVec.extractLsb'_eq_self, Nat.reduceSub]
  rfl

theorem amoxor (w : Bool) (d : Reg) (a : Reg) (b : Reg) : Statement (.amoxor w d a b) := by
  intro wf _ rest
  refine (decode_w32 (eForm (b1 w ++ 3#4) 0 b a d 0x18) rest (len_eForm ..)).trans ?_
  rw [major_18 _ (fMajor_eForm ..)]
  simp (disch := decide) only [decAmo, need, fRd_eForm, fRs1_eForm, fRs2_eForm, fRs3_eForm, top_eForm, bit_eForm, bit_b1, hi_5_5, hi_1_4, hi_8_2, hi_4_3, hi_4_3_3, hi_5_1, hi_5_1_4, hi_6_4, hi_3_12, hi_7_2, hi_7_2_6, hi_1_14, hi_2_3, hi_2_2, hi_2_2_1, hi_4_1, hi_1_2, hi_1_2_2, hi_1_1, hi_1_1_3, hi_5_7, hi_3_9, hi_3_2, lo_5_5, lo_1_4, lo_8_2, lo_4_3, lo_4_3_3, lo_5_1, lo_5_1_4, lo_6_4, lo_3_12, lo_7_2, lo_7_2_6, lo_1_14, lo_2_3, lo_2_2, lo_2_2_1, lo_4_1, lo_1_2, lo_1_2_2, lo_1_1, lo_1_1_3, lo_5_7, lo_3_9, lo_3_2, bh_5_5, bh_1_4, bh_8_2, bh_4_3, bh_4_3_3, bh_5_1, bh_5_1_4, bh_6_4, bh_3_12, bh_7_2, bh_7_2_6, bh_1_14, bh_2_3, bh_2_2, bh_2_2_1, bh_4_1, bh_1_2, bh_1_2_2, bh_1_1, bh_1_1_3, bh_5_7, bh_3_9, bh_3_2, bl_5_5, bl_1_4, bl_8_2, bl_4_3, bl_4_3_3, bl_5_1, bl_5_1_4, bl_6_4, bl_3_12, bl_7_2, bl_7_2_6, bl_1_14, bl_2_3, bl_2_2, bl_2_2_1, bl_4_1, bl_1_2, bl_1_2_2, bl_1_1, bl_1_1_3, bl_5_7, bl_3_9, bl_3_2, BitVec.extractLsb'_eq_self, Nat.reduceSub]
  rfl

theorem amomin (w : Bool) (d : Reg) (a : Reg) (b : Reg) : Statement (.amomin w d a b) := by
  intro wf _ rest
  refine (decode_w32 (eForm (b1 w ++ 4#4) 0 b a d 0x18) rest (len_eForm ..)).trans ?_
  rw [major_18 _ (fMajor_eForm ..)]
  simp (disch := decide) only [decAmo, need, fRd_eForm, fRs1_eForm, fRs2_eForm, fRs3_eForm, top_eForm, bit_eForm, bit_b1, hi_5_5, hi_1_4, hi_8_2, hi_4_3, hi_4_3_3, hi_5_1, hi_5_1_4, hi_6_4, hi_3_12, hi_7_2, hi_7_2_6, hi_1_14, hi_2_3, hi_2_2, hi_2_2_1, hi_4_1, hi_1_2, hi_1_2_2, hi_1_1, hi_1_1_3, hi_5_7, hi_3_9, hi_3_2, lo_5_5, lo_1_4, lo_8_2, lo_4_3, lo_4_3_3, lo_5_1, lo_5_1_4, lo_6_4, lo_3_12, lo_7_2, lo_7_2_6, lo_1_14, lo_2_3, lo_2_2, lo_2_2_1, lo_4_1, lo_1_2, lo_1_2_2, lo_1_1, lo_1_1_3, lo_5_7, lo_3_9, lo_3_2, bh_5_5, bh_1_4, bh_8_2, bh_4_3, bh_4_3_3, bh_5_1, bh_5_1_4, bh_6_4, bh_3_12, bh_7_2, bh_7_2_6, bh_1_14, bh_2_3, bh_2_2, bh_2_2_1, bh_4_1, bh_1_2, bh_1_2_2, bh_1_1, bh_1_1_3, bh_5_7, bh_3_9, bh_3_2, bl_5_5, bl_1_4, bl_8_2, bl_4_3, bl_4_3_3, bl_5_1, bl_5_1_4, bl_6_4, bl_3_12, bl_7_2, bl_7_2_6, bl_1_14, bl_2_3, bl_2_2, bl_2_2_1, bl_4_1, bl_1_2, bl_1_2_2, bl_1_1, bl_1_1_3, bl_5_7, bl_3_9, bl_3_2, BitVec.extractLsb'_eq_self, Nat.reduceSub]
  rfl

theorem amomax (w : Bool) (d : Reg) (a : Reg) (b : Reg) : Statement (.amomax w d a b) := by
  intro wf _ rest
  refine (decode_w32 (eForm (b1 w ++ 5#4) 0 b a d 0x18) rest (len_eForm ..)).trans ?_
  rw [major_18 _ (fMajor_eForm ..)]
  simp (disch := decide) only [decAmo, need, fRd_eForm, fRs1_eForm, fRs2_eForm, fRs3_eForm, top_eForm, bit_eForm, bit_b1, hi_5_5, hi_1_4, hi_8_2, hi_4_3, hi_4_3_3, hi_5_1, hi_5_1_4, hi_6_4, hi_3_12, hi_7_2, hi_7_2_6, hi_1_14, hi_2_3, hi_2_2, hi_2_2_1, hi_4_1, hi_1_2, hi_1_2_2, hi_1_1, hi_1_1_3, hi_5_7, hi_3_9, hi_3_2, lo_5_5, lo_1_4, lo_8_2, lo_4_3, lo_4_3_3, lo_5_1, lo_5_1_4, lo_6_4, lo_3_12, lo_7_2, lo_7_2_6, lo_1_14, lo_2_3, lo_2_2, lo_2_2_1, lo_4_1, lo_1_2, lo_1_2_2, lo_1_1, lo_1_1_3, lo_5_7, lo_3_9, lo_3_2, bh_5_5, bh_1_4, bh_8_2, bh_4_3, bh_4_3_3, bh_5_1, bh_5_1_4, bh_6_4, bh_3_12, bh_7_2, bh_7_2_6, bh_1_14, bh_2_3, bh_2_2, bh_2_2_1, bh_4_1, bh_1_2, bh_1_2_2, bh_1_1, bh_1_1_3, bh_5_7, bh_3_9, bh_3_2, bl_5_5, bl_1_4, bl_8_2, bl_4_3, bl_4_3_3, bl_5_1, bl_5_1_4, bl_6_4, bl_3_12, bl_7_2, bl_7_2_6, bl_1_14, bl_2_3, bl_2_2, bl_2_2_1, bl_4_1, bl_1_2, bl_1_2_2, bl_1_1, bl_1_1_3, bl_5_7, bl_3_9, bl_3_2, BitVec.extractLsb'_eq_self, Nat.reduceSub]
  rfl

theorem amominu (w : Bool) (d : Reg) (a : Reg) (b : Reg) : Statement (.amominu w d a b) := by
  intro wf _ rest
  refine (decode_w32 (eForm (b1 w ++ 6#4) 0 b a d 0x18) rest (len_eForm ..)).trans ?_
  rw [major_18 _ (fMajor_eForm ..)]
  simp (disch := decide) only [decAmo, need, fRd_eForm, fRs1_eForm, fRs2_eForm, fRs3_eForm, top_eForm, bit_eForm, bit_b1, hi_5_5, hi_1_4, hi_8_2, hi_4_3, hi_4_3_3, hi_5_1, hi_5_1_4, hi_6_4, hi_3_12, hi_7_2, hi_7_2_6, hi_1_14, hi_2_3, hi_2_2, hi_2_2_1, hi_4_1, hi_1_2, hi_1_2_2, hi_1_1, hi_1_1_3, hi_5_7, hi_3_9, hi_3_2, lo_5_5, lo_1_4, lo_8_2, lo_4_3, lo_4_3_3, lo_5_1, lo_5_1_4, lo_6_4, lo_3_12, lo_7_2, lo_7_2_6, lo_1_14, lo_2_3, lo_2_2, lo_2_2_1, lo_4_1, lo_1_2, lo_1_2_2, lo_1_1, lo_1_1_3, lo_5_7, lo_3_9, lo_3_2, bh_5_5, bh_1_4, bh_8_2, bh_4_3, bh_4_3_3, bh_5_1, bh_5_1_4, bh_6_4, bh_3_12, bh_7_2, bh_7_2_6, bh_1_14, bh_2_3, bh_2_2, bh_2_2_1, bh_4_1, bh_1_2, bh_1_2_2, bh_1_1, bh_1_1_3, bh_5_7, bh_3_9, bh_3_2, bl_5_5, bl_1_4, bl_8_2, bl_4_3, bl_4_3_3, bl_5_1, bl_5_1_4, bl_6_4, bl_3_12, bl_7_2, bl_7_2_6, bl_1_14, bl_2_3, bl_2_2, bl_2_2_1, bl_4_1, bl_1_2, bl_1_2_2, bl_1_1, bl_1_1_3, bl_5_7, bl_3_9, bl_3_2, BitVec.extractLsb'_eq_self, Nat.reduceSub]
  rfl

theorem amomaxu (w : Bool) (d : Reg) (a : Reg) (b : Reg) : Statement (.amomaxu w d a b) := by
  intro wf _ rest
  refine (decode_w32 (eForm (b1 w ++ 7#4) 0 b a d 0x18) rest (len_eForm ..)).trans ?_
  rw [major_18 _ (fMajor_eForm ..)]
  simp (disch := decide) only [decAmo, need, fRd_eForm, fRs1_eForm, fRs2_eForm, fRs3_eForm, top_eForm, bit_eForm, bit_b1, hi_5_5, hi_1_4, hi_8_2, hi_4_3, hi_4_3_3, hi_5_1, hi_5_1_4, hi_6_4, hi_3_12, hi_7_2, hi_7_2_6, hi_1_14, hi_2_3, hi_2_2, hi_2_2_1, hi_4_1, hi_1_2, hi_1_2_2, hi_1_1, hi_1_1_3, hi_5_7, hi_3_9, hi_3_2, lo_5_5, lo_1_4, lo_8_2, lo_4_3, lo_4_3_3, lo_5_1, lo_5_1_4, lo_6_4, lo_3_12, lo_7_2, lo_7_2_6, lo_1_14, lo_2_3, lo_2_2, lo_2_2_1, lo_4_1, lo_1_2, lo_1_2_2, lo_1_1, lo_1_1_3, lo_5_7, lo_3_9, lo_3_2, bh_5_5, bh_1_4, bh_8_2, bh_4_3, bh_4_3_3, bh_5_1, bh_5_1_4, bh_6_4, bh_3_12, bh_7_2, bh_7_2_6, bh_1_14, bh_2_3, bh_2_2, bh_2_2_1, bh_4_1, bh_1_2, bh_1_2_2, bh_1_1, bh_1_1_3, bh_5_7, bh_3_9, bh_3_2, bl_5_5, bl_1_4, bl_8_2, bl_4_3, bl_4_3_3, bl_5_1, bl_5_1_4, bl_6_4, bl_3_12, bl_7_2, bl_7_2_6, bl_1_14, bl_2_3, bl_2_2, bl_2_2_1, bl_4_1, bl_1_2, bl_1_2_2, bl_1_1, bl_1_1_3, bl_5_7, bl_3_9, bl_3_2, BitVec.extractLsb'_eq_self, Nat.reduceSub]
  rfl

theorem amoswap (w : Bool) (d : Reg) (a : Reg) (b : Reg) : Statement (.amoswap w d a b) := by
  intro wf _ rest
  refine (decode_w32 (eForm (b1 w ++ 8#4) 0 b a d 0x18) rest (len_eForm ..)).trans ?_
  rw [major_18 _ (fMajor_eForm ..)]
  simp (disch := decide) only [decAmo, need, fRd_eForm, fRs1_eForm, fRs2_eForm, fRs3_eForm, top_eForm, bit_eForm, bit_b1, hi_5_5, hi_1_4, hi_8_2, hi_4_3, hi_4_3_3, hi_5_1, hi_5_1_4, hi_6_4, hi_3_12, hi_7_2, hi_7_2_6, hi_1_14, hi_2_3, hi_2_2, hi_2_2_1, hi_4_1, hi_1_2, hi_1_2_2, hi_1_1, hi_1_1_3, hi_5_7, hi_3_9, hi_3_2, lo_5_5, lo_1_4, lo_8_2, lo_4_3, lo_4_3_3, lo_5_1, lo_5_1_4, lo_6_4, lo_3_12, lo_7_2, lo_7_2_6, lo_1_14, lo_2_3, lo_2_2, lo_2_2_1, lo_4_1, lo_1_2, lo_1_2_2, lo_1_1, lo_1_1_3, lo_5_7, lo_3_9, lo_3_2, bh_5_5, bh_1_4, bh_8_2, bh_4_3, bh_4_3_3, bh_5_1, bh_5_1_4, bh_6_4, bh_3_12, bh_7_2, bh_7_2_6, bh_1_14, bh_2_3, bh_2_2, bh_2_2_1, bh_4_1, bh_1_2, bh_1_2_2, bh_1_1, bh_1_1_3, bh_5_7, bh_3_9, bh_3_2, bl_5_5, bl_1_4, bl_8_2, bl_4_3, bl_4_3_3, bl_5_1, bl_5_1_4, bl_6_4, bl_3_12, bl_7_2, bl_7_2_6, bl_1_14, bl_2_3, bl_2_2, bl_2_2_1, bl_4_1, bl_1_2, bl_1_2_2, bl_1_1, bl_1_1_3, bl_5_7, bl_3_9, bl_3_2, BitVec.extractLsb'_eq_self, Nat.reduceSub]
  rfl

theorem amocas (w : Bool) (d : Reg) (a : Reg) (b : Reg) (c : Reg) : Statement (.amocas w d a b c) := by
  intro wf _ rest
  refine (decode_w32 (eForm (b1 w ++ 9#4) c b a d 0x18) rest (len_eForm ..)).trans ?_
  rw [major_18 _ (fMajor_eForm ..)]
  simp (disch := decide) only [decAmo, need, fRd_eForm, fRs1_eForm, fRs2_eForm, fRs3_eForm, top_eForm, bit_eForm, bit_b1, hi_5_5, hi_1_4, hi_8_2, hi_4_3, hi_4_3_3, hi_5_1, hi_5_1_4, hi_6_4, hi_3_12, hi_7_2, hi_7_2_6, hi_1_14, hi_2_3, hi_2_2, hi_2_2_1, hi_4_1, hi_1_2, hi_1_2_2, hi_1_1, hi_1_1_3, hi_5_7, hi_3_9, hi_3_2, lo_5_5, lo_1_4, lo_8_2, lo_4_3, lo_4_3_3, lo_5_1, lo_5_1_4, lo_6_4, lo_3_12, lo_7_2, lo_7_2_6, lo_1_14, lo_2_3, lo_2_2, lo_2_2_1, lo_4_1, lo_1_2, lo_1_2_2, lo_1_1, lo_1_1_3, lo_5_7, lo_3_9, lo_3_2, bh_5_5, bh_1_4, bh_8_2, bh_4_3, bh_4_3_3, bh_5_1, bh_5_1_4, bh_6_4, bh_3_12, bh_7_2, bh_7_2_6, bh_1_14, bh_2_3, bh_2_2, bh_2_2_1, bh_4_1, bh_1_2, bh_1_2_2, bh_1_1, bh_1_1_3, bh_5_7, bh_3_9, bh_3_2, bl_5_5, bl_1_4, bl_8_2, bl_4_3, bl_4_3_3, bl_5_1, bl_5_1_4, bl_6_4, bl_3_12, bl_7_2, bl_7_2_6, bl_1_14, bl_2_3, bl_2_2, bl_2_2_1, bl_4_1, bl_1_2, bl_1_2_2, bl_1_1, bl_1_1_3, bl_5_7, bl_3_9, bl_3_2, BitVec.extractLsb'_eq_self, Nat.reduceSub]
  rfl

theorem redadd (w : Bool) (a : Reg) (b : Reg) : Statement (.redadd w a b) := by
  intro wf _ rest
  refine (decode_w32 (rForm (redFn w 0) b a 0 0x19) rest (len_rForm ..)).trans ?_
  rw [major_19 _ (fMajor_rForm ..)]
  simp (disch := decide) only [decRedMajor, need, fRd_rForm, fRs1_rForm, fRs2_rForm, fFn_rForm, top_rForm, bit_rForm, redFn, bit_b1, hi_1_1, hi_1_1_5, hi_1_1_5_3, lo_1_1, lo_1_1_5, lo_1_1_5_3, bh_1_1, bh_1_1_5, bh_1_1_5_3, bl_1_1, bl_1_1_5, bl_1_1_5_3, BitVec.extractLsb'_eq_self, Nat.reduceSub]
  rfl

theorem redand (w : Bool) (a : Reg) (b : Reg) : Statement (.redand w a b) := by
  intro wf _ rest
  refine (decode_w32 (rForm (redFn w 1) b a 0 0x19) rest (len_rForm ..)).trans ?_
  rw [major_19 _ (fMajor_rForm ..)]
  simp (disch := decide) only [decRedMajor, need, fRd_rForm, fRs1_rForm, fRs2_rForm, fFn_rForm, top_rForm, bit_rForm, redFn, bit_b1, hi_1_1, hi_1_1_5, hi_1_1_5_3, lo_1_1, lo_1_1_5, lo_1_1_5_3, bh_1_1, bh_1_1_5, bh_1_1_5_3, bl_1_1, bl_1_1_5, bl_1_1_5_3, BitVec.extractLsb'_eq_self, Nat.reduceSub]
  rfl

theorem redor (w : Bool) (a : Reg) (b : Reg) : Statement (.redor w a b) := by
  intro wf _ rest
  refine (decode_w32 (rForm (redFn w 2) b a 0 0x19) rest (len_rForm ..)).trans ?_
  rw [major_19 _ (fMajor_rForm ..)]
  simp (disch := decide) only [decRedMajor, need, fRd_rForm, fRs1_rForm, fRs2_rForm, fFn_rForm, top_rForm, bit_rForm, redFn, bit_b1, hi_1_1, hi_1_1_5, hi_1_1_5_3, lo_1_1, lo_1_1_5, lo_1_1_5_3, bh_1_1, bh_1_1_5, bh_1_1_5_3, bl_1_1, bl_1_1_5, bl_1_1_5_3, BitVec.extractLsb'_eq_self, Nat.reduceSub]
  rfl

theorem redxor (w : Bool) (a : Reg) (b : Reg) : Statement (.redxor w a b) := by
  intro wf _ rest
  refine (decode_w32 (rForm (redFn w 3) b a 0 0x19) rest (len_rForm ..)).trans ?_
  rw [major_19 _ (fMajor_rForm ..)]
  simp (disch := decide) only [decRedMajor, need, fRd_rForm, fRs1_rForm, fRs2_rForm, fFn_rForm, top_rForm, bit_rForm, redFn, bit_b1, hi_1_1, hi_1_1_5, hi_1_1_5_3, lo_1_1, lo_1_1_5, lo_1_1_5_3, bh_1_1, bh_1_1_5, bh_1_1_5_3, bl_1_1, bl_1_1_5, bl_1_1_5_3, BitVec.extractLsb'_eq_self, Nat.reduceSub]
  rfl

theorem redmin (w : Bool) (a : Reg) (b : Reg) : Statement (.redmin w a b) := by
  intro wf _ rest
  refine (decode_w32 (rForm (redFn w 4) b a 0 0x19) rest (len_rForm ..)).trans ?_
  rw [major_19 _ (fMajor_rForm ..)]
  simp (disch := decide) only [decRedMajor, need, fRd_rForm, fRs1_rForm, fRs2_rForm, fFn_rForm, top_rForm, bit_rForm, redFn, bit_b1, hi_1_1, hi_1_1_5, hi_1_1_5_3, lo_1_1, lo_1_1_5, lo_1_1_5_3, bh_1_1, bh_1_1_5, bh_1_1_5_3, bl_1_1, bl_1_1_5, bl_1_1_5_3, BitVec.extractLsb'_eq_self, Nat.reduceSub]
  rfl

theorem redmax (w : Bool) (a : Reg) (b : Reg) : Statement (.redmax w a b) := by
  intro wf _ rest
  refine (decode_w32 (rForm (redFn w 5) b a 0 0x19) rest (len_rForm ..)).trans ?_
  rw [major_19 _ (fMajor_rForm ..)]
  simp (disch := decide) only [decRedMajor, need, fRd_rForm, fRs1_rForm, fRs2_rForm, fFn_rForm, top_rForm, bit_rForm, redFn, bit_b1, hi_1_1, hi_1_1_5, hi_1_1_5_3, lo_1_1, lo_1_1_5, lo_1_1_5_3, bh_1_1, bh_1_1_5, bh_1_1_5_3, bl_1_1, bl_1_1_5, bl_1_1_5_3, BitVec.extractLsb'_eq_self, Nat.reduceSub]
  rfl

theorem redminu (w : Bool) (a : Reg) (b : Reg) : Statement (.redminu w a b) := by
  intro wf _ rest
  refine (decode_w32 (rForm (redFn w 6) b a 0 0x19) rest (len_rForm ..)).trans ?_
  rw [major_19 _ (fMajor_rForm ..)]
  simp (disch := decide) only [decRedMajor, need, fRd_rForm, fRs1_rForm, fRs2_rForm, fFn_rForm, top_rForm, bit_rForm, redFn, bit_b1, hi_1_1, hi_1_1_5, hi_1_1_5_3, lo_1_1, lo_1_1_5, lo_1_1_5_3, bh_1_1, bh_1_1_5, bh_1_1_5_3, bl_1_1, bl_1_1_5, bl_1_1_5_3, BitVec.extractLsb'_eq_self, Nat.reduceSub]
  rfl

theorem redmaxu (w : Bool) (a : Reg) (b : Reg) : Statement (.redmaxu w a b) := by
  intro wf _ rest
  refine (decode_w32 (rForm (redFn w 7) b a 0 0x19) rest (len_rForm ..)).trans ?_
  rw [major_19 _ (fMajor_rForm ..)]
  simp (disch := decide) only [decRedMajor, need, fRd_rForm, fRs1_rForm, fRs2_rForm, fFn_rForm, top_rForm, bit_rForm, redFn, bit_b1, hi_1_1, hi_1_1_5, hi_1_1_5_3, lo_1_1, lo_1_1_5, lo_1_1_5_3, bh_1_1, bh_1_1_5, bh_1_1_5_3, bl_1_1, bl_1_1_5, bl_1_1_5_3, BitVec.extractLsb'_eq_self, Nat.reduceSub]
  rfl

theorem fence (p : BitVec 8) (s : BitVec 8) : Statement (.fence p s) := by
  intro wf _ rest
  refine (decode_w32 (p ++ s ++ 0#9 ++ 0x1A#6 ++ 1#1) rest (by rw [bl_8_8_9_6_1 _ _ _ (by decide)]; rfl)).trans ?_
  rw [major_1A]
  · simp (disch := decide) only [decFence, need, hi_8_8, lo_8_8, hi_8_8_9, lo_8_8_9, hi_8_8_9_6, lo_8_8_9_6, hi_8_8_9_6_1, lo_8_8_9_6_1, BitVec.extractLsb'_eq_self, Nat.reduceSub]
    rfl
  · unfold fMajor
    simp (disch := decide) only [hi_8_8_9_6_1, lo_8_8_9_6, BitVec.extractLsb'_eq_self, Nat.reduceSub]
    rfl

theorem fadd (f : FFmt) (r : Rm) (d : Reg) (a : Reg) (b : Reg) : Statement (.fadd f r d a b) := by
  intro wf _ rest
  refine (decode_w32 (rForm (fpFn f (encRm r) 0) b a d 0x1B) rest (len_rForm ..)).trans ?_
  rw [major_1B _ (fMajor_rForm ..)]
  simp (disch := decide) only [decFp, need, fRd_rForm, fRs1_rForm, fRs2_rForm, fFn_rForm, top_rForm, bit_rForm, fpFn, dec_encFFmt, dec_encRm, hi_2_3, hi_2_3_5, lo_2_3, lo_2_3_5, bh_2_3, bh_2_3_5, bl_2_3, bl_2_3_5, BitVec.extractLsb'_eq_self, Nat.reduceSub]
  rfl

theorem fsub (f : FFmt) (r : Rm) (d : Reg) (a : Reg) (b : Reg) : Statement (.fsub f r d a b) := by
  intro wf _ rest
  refine (decode_w32 (rForm (fpFn f (encRm r) 1) b a d 0x1B) rest (len_rForm ..)).trans ?_
  rw [major_1B _ (fMajor_rForm ..)]
  simp (disch := decide) only [decFp, need, fRd_rForm, fRs1_rForm, fRs2_rForm, fFn_rForm, top_rForm, bit_rForm, fpFn, dec_encFFmt, dec_encRm, hi_2_3, hi_2_3_5, lo_2_3, lo_2_3_5, bh_2_3, bh_2_3_5, bl_2_3, bl_2_3_5, BitVec.extractLsb'_eq_self, Nat.reduceSub]
  rfl

theorem fmul (f : FFmt) (r : Rm) (d : Reg) (a : Reg) (b : Reg) : Statement (.fmul f r d a b) := by
  intro wf _ rest
  refine (decode_w32 (rForm (fpFn f (encRm r) 2) b a d 0x1B) rest (len_rForm ..)).trans ?_
  rw [major_1B _ (fMajor_rForm ..)]
  simp (disch := decide) only [decFp, need, fRd_rForm, fRs1_rForm, fRs2_rForm, fFn_rForm, top_rForm, bit_rForm, fpFn, dec_encFFmt, dec_encRm, hi_2_3, hi_2_3_5, lo_2_3, lo_2_3_5, bh_2_3, bh_2_3_5, bl_2_3, bl_2_3_5, BitVec.extractLsb'_eq_self, Nat.reduceSub]
  rfl

theorem fdiv (f : FFmt) (r : Rm) (d : Reg) (a : Reg) (b : Reg) : Statement (.fdiv f r d a b) := by
  intro wf _ rest
  refine (decode_w32 (rForm (fpFn f (encRm r) 3) b a d 0x1B) rest (len_rForm ..)).trans ?_
  rw [major_1B _ (fMajor_rForm ..)]
  simp (disch := decide) only [decFp, need, fRd_rForm, fRs1_rForm, fRs2_rForm, fFn_rForm, top_rForm, bit_rForm, fpFn, dec_encFFmt, dec_encRm, hi_2_3, hi_2_3_5, lo_2_3, lo_2_3_5, bh_2_3, bh_2_3_5, bl_2_3, bl_2_3_5, BitVec.extractLsb'_eq_self, Nat.reduceSub]
  rfl

theorem fsqrt (f : FFmt) (r : Rm) (d : Reg) (a : Reg) : Statement (.fsqrt f r d a) := by
  intro wf _ rest
  refine (decode_w32 (rForm (fpFn f (encRm r) 4) 0 a d 0x1B) rest (len_rForm ..)).trans ?_
  rw [major_1B _ (fMajor_rForm ..)]
  simp (disch := decide) only [decFp, need, fRd_rForm, fRs1_rForm, fRs2_rForm, fFn_rForm, top_rForm, bit_rForm, fpFn, dec_encFFmt, dec_encRm, hi_2_3, hi_2_3_5, lo_2_3, lo_2_3_5, bh_2_3, bh_2_3_5, bl_2_3, bl_2_3_5, BitVec.extractLsb'_eq_self, Nat.reduceSub]
  rfl

theorem fmin (f : FFmt) (d : Reg) (a : Reg) (b : Reg) : Statement (.fmin f d a b) := by
  intro wf _ rest
  refine (decode_w32 (rForm (fpFn f 0 5) b a d 0x1B) rest (len_rForm ..)).trans ?_
  rw [major_1B _ (fMajor_rForm ..)]
  simp (disch := decide) only [decFp, need, fRd_rForm, fRs1_rForm, fRs2_rForm, fFn_rForm, top_rForm, bit_rForm, fpFn, dec_encFFmt, hi_2_3, hi_2_3_5, lo_2_3, lo_2_3_5, bh_2_3, bh_2_3_5, bl_2_3, bl_2_3_5, BitVec.extractLsb'_eq_self, Nat.reduceSub]
  rfl

theorem fmax (f : FFmt) (d : Reg) (a : Reg) (b : Reg) : Statement (.fmax f d a b) := by
  intro wf _ rest
  refine (decode_w32 (rForm (fpFn f 0 6) b a d 0x1B) rest (len_rForm ..)).trans ?_
  rw [major_1B _ (fMajor_rForm ..)]
  simp (disch := decide) only [decFp, need, fRd_rForm, fRs1_rForm, fRs2_rForm, fFn_rForm, top_rForm, bit_rForm, fpFn, dec_encFFmt, hi_2_3, hi_2_3_5, lo_2_3, lo_2_3_5, bh_2_3, bh_2_3_5, bl_2_3, bl_2_3_5, BitVec.extractLsb'_eq_self, Nat.reduceSub]
  rfl

theorem fsgcpy (f : FFmt) (d : Reg) (a : Reg) (b : Reg) : Statement (.fsgcpy f d a b) := by
  intro wf _ rest
  refine (decode_w32 (rForm (fpFn f 0 7) b a d 0x1B) rest (len_rForm ..)).trans ?_
  rw [major_1B _ (fMajor_rForm ..)]
  simp (disch := decide) only [decFp, need, fRd_rForm, fRs1_rForm, fRs2_rForm, fFn_rForm, top_rForm, bit_rForm, fpFn, dec_encFFmt, hi_2_3, hi_2_3_5, lo_2_3, lo_2_3_5, bh_2_3, bh_2_3_5, bl_2_3, bl_2_3_5, BitVec.extractLsb'_eq_self, Nat.reduceSub]
  rfl

theorem fsgneg (f : FFmt) (d : Reg) (a : Reg) (b : Reg) : Statement (.fsgneg f d a b) := by
  intro wf _ rest
  refine (decode_w32 (rForm (fpFn f 0 8) b a d 0x1B) rest (len_rForm ..)).trans ?_
  rw [major_1B _ (fMajor_rForm ..)]
  simp (disch := decide) only [decFp, need, fRd_rForm, fRs1_rForm, fRs2_rForm, fFn_rForm, top_rForm, bit_rForm, fpFn, dec_encFFmt, hi_2_3, hi_2_3_5, lo_2_3, lo_2_3_5, bh_2_3, bh_2_3_5, bl_2_3, bl_2_3_5, BitVec.extractLsb'_eq_self, Nat.reduceSub]
  rfl

theorem fsgxor (f : FFmt) (d : Reg) (a : Reg) (b : Reg) : Statement (.fsgxor f d a b) := by
  intro wf _ rest
  refine (decode_w32 (rForm (fpFn f 0 9) b a d 0x1B) rest (len_rForm ..)).trans ?_
  rw [major_1B _ (fMajor_rForm ..)]
  simp (disch := decide) only [decFp, need, fRd_rForm, fRs1_rForm, fRs2_rForm, fFn_rForm, top_rForm, bit_rForm, fpFn, dec_encFFmt, hi_2_3, hi_2_3_5, lo_2_3, lo_2_3_5, bh_2_3, bh_2_3_5, bl_2_3, bl_2_3_5, BitVec.extractLsb'_eq_self, Nat.reduceSub]
  rfl

theorem feq (f : FFmt) (d : Reg) (a : Reg) (b : Reg) : Statement (.feq f d a b) := by
  intro wf _ rest
  refine (decode_w32 (rForm (fpFn f 0 10) b a d 0x1B) rest (len_rForm ..)).trans ?_
  rw [major_1B _ (fMajor_rForm ..)]
  simp (disch := decide) only [decFp, need, fRd_rForm, fRs1_rForm, fRs2_rForm, fFn_rForm, top_rForm, bit_rForm, fpFn, dec_encFFmt, hi_2_3, hi_2_3_5, lo_2_3, lo_2_3_5, bh_2_3, bh_2_3_5, bl_2_3, bl_2_3_5, BitVec.extractLsb'_eq_self, Nat.reduceSub]
  rfl

theorem flt (f : FFmt) (d : Reg) (a : Reg) (b : Reg) : Statement (.flt f d a b) := by
  intro wf _ rest
  refine (decode_w32 (rForm (fpFn f 0 11) b a d 0x1B) rest (len_rForm ..)).trans ?_
  rw [major_1B _ (fMajor_rForm ..)]
  simp (disch := decide) only [decFp, need, fRd_rForm, fRs1_rForm, fRs2_rForm, fFn_rForm, top_rForm, bit_rForm, fpFn, dec_encFFmt, hi_2_3, hi_2_3_5, lo_2_3, lo_2_3_5, bh_2_3, bh_2_3_5, bl_2_3, bl_2_3_5, BitVec.extractLsb'_eq_self, Nat.reduceSub]
  rfl

theorem fle (f : FFmt) (d : Reg) (a : Reg) (b : Reg) : Statement (.fle f d a b) := by
  intro wf _ rest
  refine (decode_w32 (rForm (fpFn f 0 12) b a d 0x1B) rest (len_rForm ..)).trans ?_
  rw [major_1B _ (fMajor_rForm ..)]
  simp (disch := decide) only [decFp, need, fRd_rForm, fRs1_rForm, fRs2_rForm, fFn_rForm, top_rForm, bit_rForm, fpFn, dec_encFFmt, hi_2_3, hi_2_3_5, lo_2_3, lo_2_3_5, bh_2_3, bh_2_3_5, bl_2_3, bl_2_3_5, BitVec.extractLsb'_eq_self, Nat.reduceSub]
  rfl

theorem fclass (f : FFmt) (d : Reg) (a : Reg) : Statement (.fclass f d a) := by
  intro wf _ rest
  refine (decode_w32 (rForm (fpFn f 0 13) 0 a d 0x1B) rest (len_rForm ..)).trans ?_
  rw [major_1B _ (fMajor_rForm ..)]
  simp (disch := decide) only [decFp, need, fRd_rForm, fRs1_rForm, fRs2_rForm, fFn_rForm, top_rForm, bit_rForm, fpFn, dec_encFFmt, hi_2_3, hi_2_3_5, lo_2_3, lo_2_3_5, bh_2_3, bh_2_3_5, bl_2_3, bl_2_3_5, BitVec.extractLsb'_eq_self, Nat.reduceSub]
  rfl

theorem frcpe (f : FFmt) (d : Reg) (a : Reg) : Statement (.frcpe f d a) := by
  intro wf _ rest
  refine (decode_w32 (rForm (fpFn f 0 14) 0 a d 0x1B) rest (len_rForm ..)).trans ?_
  rw [major_1B _ (fMajor_rForm ..)]
  simp (disch := decide) only [decFp, need, fRd_rForm, fRs1_rForm, fRs2_rForm, fFn_rForm, top_rForm, bit_rForm, fpFn, dec_encFFmt, hi_2_3, hi_2_3_5, lo_2_3, lo_2_3_5, bh_2_3, bh_2_3_5, bl_2_3, bl_2_3_5, BitVec.extractLsb'_eq_self, Nat.reduceSub]
  rfl

theorem frsqe (f : FFmt) (d : Reg) (a : Reg) : Statement (.frsqe f d a) := by
  intro wf _ rest
  refine (decode_w32 (rForm (fpFn f 0 15) 0 a d 0x1B) rest (len_rForm ..)).trans ?_
  rw [major_1B _ (fMajor_rForm ..)]
  simp (disch := decide) only [decFp, need, fRd_rForm, fRs1_rForm, fRs2_rForm, fFn_rForm, top_rForm, bit_rForm, fpFn, dec_encFFmt, hi_2_3, hi_2_3_5, lo_2_3, lo_2_3_5, bh_2_3, bh_2_3_5, bl_2_3, bl_2_3_5, BitVec.extractLsb'_eq_self, Nat.reduceSub]
  rfl

theorem fma (f : FFmt) (d : Reg) (a : Reg) (b : Reg) (c : Reg) : Statement (.fma f d a b c) := by
  intro wf _ rest
  refine (decode_w32 (eForm (0#1 ++ encFFmt f ++ 0#2) c b a d 0x1C) rest (len_eForm ..)).trans ?_
  rw [major_1C _ (fMajor_eForm ..)]
  simp (disch := decide) only [decFma, need, fRd_eForm, fRs1_eForm, fRs2_eForm, fRs3_eForm, top_eForm, bit_eForm, dec_encFFmt, hi_5_5, hi_1_4, hi_8_2, hi_4_3, hi_4_3_3, hi_5_1, hi_5_1_4, hi_6_4, hi_3_12, hi_7_2, hi_7_2_6, hi_1_14, hi_2_3, hi_2_2, hi_2_2_1, hi_4_1, hi_1_2, hi_1_2_2, hi_1_1, hi_1_1_3, hi_5_7, hi_3_9, hi_3_2, lo_5_5, lo_1_4, lo_8_2, lo_4_3, lo_4_3_3, lo_5_1, lo_5_1_4, lo_6_4, lo_3_12, lo_7_2, lo_7_2_6, lo_1_14, lo_2_3, lo_2_2, lo_2_2_1, lo_4_1, lo_1_2, lo_1_2_2, lo_1_1, lo_1_1_3, lo_5_7, lo_3_9, lo_3_2, bh_5_5, bh_1_4, bh_8_2, bh_4_3, bh_4_3_3, bh_5_1, bh_5_1_4, bh_6_4, bh_3_12, bh_7_2, bh_7_2_6, bh_1_14, bh_2_3, bh_2_2, bh_2_2_1, bh_4_1, bh_1_2, bh_1_2_2, bh_1_1, bh_1_1_3, bh_5_7, bh_3_9, bh_3_2, bl_5_5, bl_1_4, bl_8_2, bl_4_3, bl_4_3_3, bl_5_1, bl_5_1_4, bl_6_4, bl_3_12, bl_7_2, bl_7_2_6, bl_1_14, bl_2_3, bl_2_2, bl_2_2_1, bl_4_1, bl_1_2, bl_1_2_2, bl_1_1, bl_1_1_3, bl_5_7, bl_3_9, bl_3_2, BitVec.extractLsb'_eq_self, Nat.reduceSub]
  rfl

theorem fms (f : FFmt) (d : Reg) (a : Reg) (b : Reg) (c : Reg) : Statement (.fms f d a b c) := by
  intro wf _ rest
  refine (decode_w32 (eForm (0#1 ++ encFFmt f ++ 1#2) c b a d 0x1C) rest (len_eForm ..)).trans ?_
  rw [major_1C _ (fMajor_eForm ..)]
  simp (disch := decide) only [decFma, need, fRd_eForm, fRs1_eForm, fRs2_eForm, fRs3_eForm, top_eForm, bit_eForm, dec_encFFmt, hi_5_5, hi_1_4, hi_8_2, hi_4_3, hi_4_3_3, hi_5_1, hi_5_1_4, hi_6_4, hi_3_12, hi_7_2, hi_7_2_6, hi_1_14, hi_2_3, hi_2_2, hi_2_2_1, hi_4_1, hi_1_2, hi_1_2_2, hi_1_1, hi_1_1_3, hi_5_7, hi_3_9, hi_3_2, lo_5_5, lo_1_4, lo_8_2, lo_4_3, lo_4_3_3, lo_5_1, lo_5_1_4, lo_6_4, lo_3_12, lo_7_2, lo_7_2_6, lo_1_14, lo_2_3, lo_2_2, lo_2_2_1, lo_4_1, lo_1_2, lo_1_2_2, lo_1_1, lo_1_1_3, lo_5_7, lo_3_9, lo_3_2, bh_5_5, bh_1_4, bh_8_2, bh_4_3, bh_4_3_3, bh_5_1, bh_5_1_4, bh_6_4, bh_3_12, bh_7_2, bh_7_2_6, bh_1_14, bh_2_3, bh_2_2, bh_2_2_1, bh_4_1, bh_1_2, bh_1_2_2, bh_1_1, bh_1_1_3, bh_5_7, bh_3_9, bh_3_2, bl_5_5, bl_1_4, bl_8_2, bl_4_3, bl_4_3_3, bl_5_1, bl_5_1_4, bl_6_4, bl_3_12, bl_7_2, bl_7_2_6, bl_1_14, bl_2_3, bl_2_2, bl_2_2_1, bl_4_1, bl_1_2, bl_1_2_2, bl_1_1, bl_1_1_3, bl_5_7, bl_3_9, bl_3_2, BitVec.extractLsb'_eq_self, Nat.reduceSub]
  rfl

theorem fnma (f : FFmt) (d : Reg) (a : Reg) (b : Reg) (c : Reg) : Statement (.fnma f d a b c) := by
  intro wf _ rest
  refine (decode_w32 (eForm (0#1 ++ encFFmt f ++ 2#2) c b a d 0x1C) rest (len_eForm ..)).trans ?_
  rw [major_1C _ (fMajor_eForm ..)]
  simp (disch := decide) only [decFma, need, fRd_eForm, fRs1_eForm, fRs2_eForm, fRs3_eForm, top_eForm, bit_eForm, dec_encFFmt, hi_5_5, hi_1_4, hi_8_2, hi_4_3, hi_4_3_3, hi_5_1, hi_5_1_4, hi_6_4, hi_3_12, hi_7_2, hi_7_2_6, hi_1_14, hi_2_3, hi_2_2, hi_2_2_1, hi_4_1, hi_1_2, hi_1_2_2, hi_1_1, hi_1_1_3, hi_5_7, hi_3_9, hi_3_2, lo_5_5, lo_1_4, lo_8_2, lo_4_3, lo_4_3_3, lo_5_1, lo_5_1_4, lo_6_4, lo_3_12, lo_7_2, lo_7_2_6, lo_1_14, lo_2_3, lo_2_2, lo_2_2_1, lo_4_1, lo_1_2, lo_1_2_2, lo_1_1, lo_1_1_3, lo_5_7, lo_3_9, lo_3_2, bh_5_5, bh_1_4, bh_8_2, bh_4_3, bh_4_3_3, bh_5_1, bh_5_1_4, bh_6_4, bh_3_12, bh_7_2, bh_7_2_6, bh_1_14, bh_2_3, bh_2_2, bh_2_2_1, bh_4_1, bh_1_2, bh_1_2_2, bh_1_1, bh_1_1_3, bh_5_7, bh_3_9, bh_3_2, bl_5_5, bl_1_4, bl_8_2, bl_4_3, bl_4_3_3, bl_5_1, bl_5_1_4, bl_6_4, bl_3_12, bl_7_2, bl_7_2_6, bl_1_14, bl_2_3, bl_2_2, bl_2_2_1, bl_4_1, bl_1_2, bl_1_2_2, bl_1_1, bl_1_1_3, bl_5_7, bl_3_9, bl_3_2, BitVec.extractLsb'_eq_self, Nat.reduceSub]
  rfl

theorem fnms (f : FFmt) (d : Reg) (a : Reg) (b : Reg) (c : Reg) : Statement (.fnms f d a b c) := by
  intro wf _ rest
  refine (decode_w32 (eForm (0#1 ++ encFFmt f ++ 3#2) c b a d 0x1C) rest (len_eForm ..)).trans ?_
  rw [major_1C _ (fMajor_eForm ..)]
  simp (disch := decide) only [decFma, need, fRd_eForm, fRs1_eForm, fRs2_eForm, fRs3_eForm, top_eForm, bit_eForm, dec_encFFmt, hi_5_5, hi_1_4, hi_8_2, hi_4_3, hi_4_3_3, hi_5_1, hi_5_1_4, hi_6_4, hi_3_12, hi_7_2, hi_7_2_6, hi_1_14, hi_2_3, hi_2_2, hi_2_2_1, hi_4_1, hi_1_2, hi_1_2_2, hi_1_1, hi_1_1_3, hi_5_7, hi_3_9, hi_3_2, lo_5_5, lo_1_4, lo_8_2, lo_4_3, lo_4_3_3, lo_5_1, lo_5_1_4, lo_6_4, lo_3_12, lo_7_2, lo_7_2_6, lo_1_14, lo_2_3, lo_2_2, lo_2_2_1, lo_4_1, lo_1_2, lo_1_2_2, lo_1_1, lo_1_1_3, lo_5_7, lo_3_9, lo_3_2, bh_5_5, bh_1_4, bh_8_2, bh_4_3, bh_4_3_3, bh_5_1, bh_5_1_4, bh_6_4, bh_3_12, bh_7_2, bh_7_2_6, bh_1_14, bh_2_3, bh_2_2, bh_2_2_1, bh_4_1, bh_1_2, bh_1_2_2, bh_1_1, bh_1_1_3, bh_5_7, bh_3_9, bh_3_2, bl_5_5, bl_1_4, bl_8_2, bl_4_3, bl_4_3_3, bl_5_1, bl_5_1_4, bl_6_4, bl_3_12, bl_7_2, bl_7_2_6, bl_1_14, bl_2_3, bl_2_2, bl_2_2_1, bl_4_1, bl_1_2, bl_1_2_2, bl_1_1, bl_1_1_3, bl_5_7, bl_3_9, bl_3_2, BitVec.extractLsb'_eq_self, Nat.reduceSub]
  rfl

theorem fcvtI (r : Rm) (s : CvtTy) (t : IntTy) (d : Reg) (a : Reg) : Statement (.fcvtI r s t d a) := by
  intro wf _ rest
  refine (decode_w32 (rForm (cvtFn r 0 (encCvtTy s) (encIntTy t)) 0 a d 0x1D) rest (len_rForm ..)).trans ?_
  rw [major_1D _ (fMajor_rForm ..)]
  simp (disch := decide) only [decFcvt, need, fRd_rForm, fRs1_rForm, fRs2_rForm, fFn_rForm, top_rForm, bit_rForm, cvtFn, dec_encRm, dec_encIntTy, dec_encCvtTy, hi_3_2, hi_3_2_2, hi_3_2_2_2, hi_3_2_2_2_1, lo_3_2, lo_3_2_2, lo_3_2_2_2, lo_3_2_2_2_1, bh_3_2, bh_3_2_2, bh_3_2_2_2, bh_3_2_2_2_1, bl_3_2, bl_3_2_2, bl_3_2_2_2, bl_3_2_2_2_1, BitVec.extractLsb'_eq_self, Nat.reduceSub]
  rfl

theorem fcvtF (r : Rm) (s : IntTy) (t : CvtTy) (d : Reg) (a : Reg) : Statement (.fcvtF r s t d a) := by
  intro wf _ rest
  refine (decode_w32 (rForm (cvtFn r 1 (encIntTy s) (encCvtTy t)) 0 a d 0x1D) rest (len_rForm ..)).trans ?_
  rw [major_1D _ (fMajor_rForm ..)]
  simp (disch := decide) only [decFcvt, need, fRd_rForm, fRs1_rForm, fRs2_rForm, fFn_rForm, top_rForm, bit_rForm, cvtFn, dec_encRm, dec_encIntTy, dec_encCvtTy, hi_3_2, hi_3_2_2, hi_3_2_2_2, hi_3_2_2_2_1, lo_3_2, lo_3_2_2, lo_3_2_2_2, lo_3_2_2_2_1, bh_3_2, bh_3_2_2, bh_3_2_2_2, bh_3_2_2_2_1, bl_3_2, bl_3_2_2, bl_3_2_2_2, bl_3_2_2_2_1, BitVec.extractLsb'_eq_self, Nat.reduceSub]
  rfl

theorem fcvtFf (r : Rm) (s : CvtTy) (t : CvtTy) (d : Reg) (a : Reg) : Statement (.fcvtFf r s t d a) := by
  intro wf _ rest
  refine (decode_w32 (rForm (cvtFn r 2 (encCvtTy s) (encCvtTy t)) 0 a d 0x1D) rest (len_rForm ..)).trans ?_
  rw [major_1D _ (fMajor_rForm ..)]
  have h : (s != t) = true := wf
  simp (disch := decide) only [decFcvt, need, fRd_rForm, fRs1_rForm, fRs2_rForm, fFn_rForm, top_rForm, bit_rForm, cvtFn, ne_encCvtTy, dec_encRm, dec_encCvtTy, hi_3_2, hi_3_2_2, hi_3_2_2_2, hi_3_2_2_2_1, lo_3_2, lo_3_2_2, lo_3_2_2_2, lo_3_2_2_2_1, bh_3_2, bh_3_2_2, bh_3_2_2_2, bh_3_2_2_2_1, bl_3_2, bl_3_2_2, bl_3_2_2_2, bl_3_2_2_2_1, BitVec.extractLsb'_eq_self, Nat.reduceSub, h]
  rfl

theorem vadd (t : IType) (d : VReg) (a : VReg) (b : VReg) : Statement (.vadd t d a b) := by
  intro wf _ rest
  refine (decode_w32 (rForm (vaFn (encIType t) 0 0) (v5 b) (v5 a) (v5 d) 0x1E) rest (len_rForm ..)).trans ?_
  rw [major_1E _ (fMajor_rForm ..)]
  simp (disch := decide) only [decVarith, need, fRd_rForm, fRs1_rForm, fRs2_rForm, fFn_rForm, top_rForm, bit_rForm, vaFn, vOk_v5, toV_v5, dec_encIType, hi_2_1, hi_2_1_1, hi_2_1_1_6, lo_2_1, lo_2_1_1, lo_2_1_1_6, bh_2_1, bh_2_1_1, bh_2_1_1_6, bl_2_1, bl_2_1_1, bl_2_1_1_6, BitVec.extractLsb'_eq_self, Nat.reduceSub]
  rfl

theorem vsub (t : IType) (d : VReg) (a : VReg) (b : VReg) : Statement (.vsub t d a b) := by
  intro wf _ rest
  refine (decode_w32 (rForm (vaFn (encIType t) 0 1) (v5 b) (v5 a) (v5 d) 0x1E) rest (len_rForm ..)).trans ?_
  rw [major_1E _ (fMajor_rForm ..)]
  simp (disch := decide) only [decVarith, need, fRd_rForm, fRs1_rForm, fRs2_rForm, fFn_rForm, top_rForm, bit_rForm, vaFn, vOk_v5, toV_v5, dec_encIType, hi_2_1, hi_2_1_1, hi_2_1_1_6, lo_2_1, lo_2_1_1, lo_2_1_1_6, bh_2_1, bh_2_1_1, bh_2_1_1_6, bl_2_1, bl_2_1_1, bl_2_1_1_6, BitVec.extractLsb'_eq_self, Nat.reduceSub]
  rfl

theorem vmul (t : IType) (d : VReg) (a : VReg) (b : VReg) : Statement (.vmul t d a b) := by
  intro wf _ rest
  refine (decode_w32 (rForm (vaFn (encIType t) 0 2) (v5 b) (v5 a) (v5 d) 0x1E) rest (len_rForm ..)).trans ?_
  rw [major_1E _ (fMajor_rForm ..)]
  simp (disch := decide) only [decVarith, need, fRd_rForm, fRs1_rForm, fRs2_rForm, fFn_rForm, top_rForm, bit_rForm, vaFn, vOk_v5, toV_v5, dec_encIType, hi_2_1, hi_2_1_1, hi_2_1_1_6, lo_2_1, lo_2_1_1, lo_2_1_1_6, bh_2_1, bh_2_1_1, bh_2_1_1_6, bl_2_1, bl_2_1_1, bl_2_1_1_6, BitVec.extractLsb'_eq_self, Nat.reduceSub]
  rfl

theorem vand (t : IType) (d : VReg) (a : VReg) (b : VReg) : Statement (.vand t d a b) := by
  intro wf _ rest
  refine (decode_w32 (rForm (vaFn (encIType t) 0 3) (v5 b) (v5 a) (v5 d) 0x1E) rest (len_rForm ..)).trans ?_
  rw [major_1E _ (fMajor_rForm ..)]
  simp (disch := decide) only [decVarith, need, fRd_rForm, fRs1_rForm, fRs2_rForm, fFn_rForm, top_rForm, bit_rForm, vaFn, vOk_v5, toV_v5, dec_encIType, hi_2_1, hi_2_1_1, hi_2_1_1_6, lo_2_1, lo_2_1_1, lo_2_1_1_6, bh_2_1, bh_2_1_1, bh_2_1_1_6, bl_2_1, bl_2_1_1, bl_2_1_1_6, BitVec.extractLsb'_eq_self, Nat.reduceSub]
  rfl

theorem vor (t : IType) (d : VReg) (a : VReg) (b : VReg) : Statement (.vor t d a b) := by
  intro wf _ rest
  refine (decode_w32 (rForm (vaFn (encIType t) 0 4) (v5 b) (v5 a) (v5 d) 0x1E) rest (len_rForm ..)).trans ?_
  rw [major_1E _ (fMajor_rForm ..)]
  simp (disch := decide) only [decVarith, need, fRd_rForm, fRs1_rForm, fRs2_rForm, fFn_rForm, top_rForm, bit_rForm, vaFn, vOk_v5, toV_v5, dec_encIType, hi_2_1, hi_2_1_1, hi_2_1_1_6, lo_2_1, lo_2_1_1, lo_2_1_1_6, bh_2_1, bh_2_1_1, bh_2_1_1_6, bl_2_1, bl_2_1_1, bl_2_1_1_6, BitVec.extractLsb'_eq_self, Nat.reduceSub]
  rfl

theorem vxor (t : IType) (d : VReg) (a : VReg) (b : VReg) : Statement (.vxor t d a b) := by
  intro wf _ rest
  refine (decode_w32 (rForm (vaFn (encIType t) 0 5) (v5 b) (v5 a) (v5 d) 0x1E) rest (len_rForm ..)).trans ?_
  rw [major_1E _ (fMajor_rForm ..)]
  simp (disch := decide) only [decVarith, need, fRd_rForm, fRs1_rForm, fRs2_rForm, fFn_rForm, top_rForm, bit_rForm, vaFn, vOk_v5, toV_v5, dec_encIType, hi_2_1, hi_2_1_1, hi_2_1_1_6, lo_2_1, lo_2_1_1, lo_2_1_1_6, bh_2_1, bh_2_1_1, bh_2_1_1_6, bl_2_1, bl_2_1_1, bl_2_1_1_6, BitVec.extractLsb'_eq_self, Nat.reduceSub]
  rfl

theorem vsll (t : IType) (d : VReg) (a : VReg) (b : VReg) : Statement (.vsll t d a b) := by
  intro wf _ rest
  refine (decode_w32 (rForm (vaFn (encIType t) 0 6) (v5 b) (v5 a) (v5 d) 0x1E) rest (len_rForm ..)).trans ?_
  rw [major_1E _ (fMajor_rForm ..)]
  simp (disch := decide) only [decVarith, need, fRd_rForm, fRs1_rForm, fRs2_rForm, fFn_rForm, top_rForm, bit_rForm, vaFn, vOk_v5, toV_v5, dec_encIType, hi_2_1, hi_2_1_1, hi_2_1_1_6, lo_2_1, lo_2_1_1, lo_2_1_1_6, bh_2_1, bh_2_1_1, bh_2_1_1_6, bl_2_1, bl_2_1_1, bl_2_1_1_6, BitVec.extractLsb'_eq_self, Nat.reduceSub]
  rfl

theorem vsrl (t : IType) (d : VReg) (a : VReg) (b : VReg) : Statement (.vsrl t d a b) := by
  intro wf _ rest
  refine (decode_w32 (rForm (vaFn (encIType t) 0 7) (v5 b) (v5 a) (v5 d) 0x1E) rest (len_rForm ..)).trans ?_
  rw [major_1E _ (fMajor_rForm ..)]
  simp (disch := decide) only [decVarith, need, fRd_rForm, fRs1_rForm, fRs2_rForm, fFn_rForm, top_rForm, bit_rForm, vaFn, vOk_v5, toV_v5, dec_encIType, hi_2_1, hi_2_1_1, hi_2_1_1_6, lo_2_1, lo_2_1_1, lo_2_1_1_6, bh_2_1, bh_2_1_1, bh_2_1_1_6, bl_2_1, bl_2_1_1, bl_2_1_1_6, BitVec.extractLsb'_eq_self, Nat.reduceSub]
  rfl

theorem vsra (t : IType) (d : VReg) (a : VReg) (b : VReg) : Statement (.vsra t d a b) := by
  intro wf _ rest
  refine (decode_w32 (rForm (vaFn (encIType t) 0 8) (v5 b) (v5 a) (v5 d) 0x1E) rest (len_rForm ..)).trans ?_
  rw [major_1E _ (fMajor_rForm ..)]
  simp (disch := decide) only [decVarith, need, fRd_rForm, fRs1_rForm, fRs2_rForm, fFn_rForm, top_rForm, bit_rForm, vaFn, vOk_v5, toV_v5, dec_encIType, hi_2_1, hi_2_1_1, hi_2_1_1_6, lo_2_1, lo_2_1_1, lo_2_1_1_6, bh_2_1, bh_2_1_1, bh_2_1_1_6, bl_2_1, bl_2_1_1, bl_2_1_1_6, BitVec.extractLsb'_eq_self, Nat.reduceSub]
  rfl

theorem vfadd (t : FType) (d : VReg) (a : VReg) (b : VReg) : Statement (.vfadd t d a b) := by
  intro wf _ rest
  refine (decode_w32 (rForm (vaFn (encFType t) 1 0) (v5 b) (v5 a) (v5 d) 0x1E) rest (len_rForm ..)).trans ?_
  rw [major_1E _ (fMajor_rForm ..)]
  simp (disch := decide) only [decVarith, need, fRd_rForm, fRs1_rForm, fRs2_rForm, fFn_rForm, top_rForm, bit_rForm, vaFn, vOk_v5, toV_v5, dec_encFType, hi_2_1, hi_2_1_1, hi_2_1_1_6, lo_2_1, lo_2_1_1, lo_2_1_1_6, bh_2_1, bh_2_1_1, bh_2_1_1_6, bl_2_1, bl_2_1_1, bl_2_1_1_6, BitVec.extractLsb'_eq_self, Nat.reduceSub]
  rfl

theorem vfsub (t : FType) (d : VReg) (a : VReg) (b : VReg) : Statement (.vfsub t d a b) := by
  intro wf _ rest
  refine (decode_w32 (rForm (vaFn (encFType t) 1 1) (v5 b) (v5 a) (v5 d) 0x1E) rest (len_rForm ..)).trans ?_
  rw [major_1E _ (fMajor_rForm ..)]
  simp (disch := decide) only [decVarith, need, fRd_rForm, fRs1_rForm, fRs2_rForm, fFn_rForm, top_rForm, bit_rForm, vaFn, vOk_v5, toV_v5, dec_encFType, hi_2_1, hi_2_1_1, hi_2_1_1_6, lo_2_1, lo_2_1_1, lo_2_1_1_6, bh_2_1, bh_2_1_1, bh_2_1_1_6, bl_2_1, bl_2_1_1, bl_2_1_1_6, BitVec.extractLsb'_eq_self, Nat.reduceSub]
  rfl

theorem vfmul (t : FType) (d : VReg) (a : VReg) (b : VReg) : Statement (.vfmul t d a b) := by
  intro wf _ rest
  refine (decode_w32 (rForm (vaFn (encFType t) 1 2) (v5 b) (v5 a) (v5 d) 0x1E) rest (len_rForm ..)).trans ?_
  rw [major_1E _ (fMajor_rForm ..)]
  simp (disch := decide) only [decVarith, need, fRd_rForm, fRs1_rForm, fRs2_rForm, fFn_rForm, top_rForm, bit_rForm, vaFn, vOk_v5, toV_v5, dec_encFType, hi_2_1, hi_2_1_1, hi_2_1_1_6, lo_2_1, lo_2_1_1, lo_2_1_1_6, bh_2_1, bh_2_1_1, bh_2_1_1_6, bl_2_1, bl_2_1_1, bl_2_1_1_6, BitVec.extractLsb'_eq_self, Nat.reduceSub]
  rfl

theorem vfdiv (t : FType) (d : VReg) (a : VReg) (b : VReg) : Statement (.vfdiv t d a b) := by
  intro wf _ rest
  refine (decode_w32 (rForm (vaFn (encFType t) 1 3) (v5 b) (v5 a) (v5 d) 0x1E) rest (len_rForm ..)).trans ?_
  rw [major_1E _ (fMajor_rForm ..)]
  simp (disch := decide) only [decVarith, need, fRd_rForm, fRs1_rForm, fRs2_rForm, fFn_rForm, top_rForm, bit_rForm, vaFn, vOk_v5, toV_v5, dec_encFType, hi_2_1, hi_2_1_1, hi_2_1_1_6, lo_2_1, lo_2_1_1, lo_2_1_1_6, bh_2_1, bh_2_1_1, bh_2_1_1_6, bl_2_1, bl_2_1_1, bl_2_1_1_6, BitVec.extractLsb'_eq_self, Nat.reduceSub]
  rfl

theorem vfmin (t : FType) (d : VReg) (a : VReg) (b : VReg) : Statement (.vfmin t d a b) := by
  intro wf _ rest
  refine (decode_w32 (rForm (vaFn (encFType t) 1 4) (v5 b) (v5 a) (v5 d) 0x1E) rest (len_rForm ..)).trans ?_
  rw [major_1E _ (fMajor_rForm ..)]
  simp (disch := decide) only [decVarith, need, fRd_rForm, fRs1_rForm, fRs2_rForm, fFn_rForm, top_rForm, bit_rForm, vaFn, vOk_v5, toV_v5, dec_encFType, hi_2_1, hi_2_1_1, hi_2_1_1_6, lo_2_1, lo_2_1_1, lo_2_1_1_6, bh_2_1, bh_2_1_1, bh_2_1_1_6, bl_2_1, bl_2_1_1, bl_2_1_1_6, BitVec.extractLsb'_eq_self, Nat.reduceSub]
  rfl

theorem vfmax (t : FType) (d : VReg) (a : VReg) (b : VReg) : Statement (.vfmax t d a b) := by
  intro wf _ rest
  refine (decode_w32 (rForm (vaFn (encFType t) 1 5) (v5 b) (v5 a) (v5 d) 0x1E) rest (len_rForm ..)).trans ?_
  rw [major_1E _ (fMajor_rForm ..)]
  simp (disch := decide) only [decVarith, need, fRd_rForm, fRs1_rForm, fRs2_rForm, fFn_rForm, top_rForm, bit_rForm, vaFn, vOk_v5, toV_v5, dec_encFType, hi_2_1, hi_2_1_1, hi_2_1_1_6, lo_2_1, lo_2_1_1, lo_2_1_1_6, bh_2_1, bh_2_1_1, bh_2_1_1_6, bl_2_1, bl_2_1_1, bl_2_1_1_6, BitVec.extractLsb'_eq_self, Nat.reduceSub]
  rfl

theorem vrcpe (d : VReg) (a : VReg) : Statement (.vrcpe d a) := by
  intro wf _ rest
  refine (decode_w32 (rForm (vaFn 2 1 6) 0 (v5 a) (v5 d) 0x1E) rest (len_rForm ..)).trans ?_
  rw [major_1E _ (fMajor_rForm ..)]
  simp (disch := decide) only [decVarith, need, fRd_rForm, fRs1_rForm, fRs2_rForm, fFn_rForm, top_rForm, bit_rForm, vaFn, vOk_v5, toV_v5, hi_2_1, hi_2_1_1, hi_2_1_1_6, lo_2_1, lo_2_1_1, lo_2_1_1_6, bh_2_1, bh_2_1_1, bh_2_1_1_6, bl_2_1, bl_2_1_1, bl_2_1_1_6, BitVec.extractLsb'_eq_self, Nat.reduceSub]
  rfl

theorem vrsqe (d : VReg) (a : VReg) : Statement (.vrsqe d a) := by
  intro wf _ rest
  refine (decode_w32 (rForm (vaFn 2 1 7) 0 (v5 a) (v5 d) 0x1E) rest (len_rForm ..)).trans ?_
  rw [major_1E _ (fMajor_rForm ..)]
  simp (disch := decide) only [decVarith, need, fRd_rForm, fRs1_rForm, fRs2_rForm, fFn_rForm, top_rForm, bit_rForm, vaFn, vOk_v5, toV_v5, hi_2_1, hi_2_1_1, hi_2_1_1_6, lo_2_1, lo_2_1_1, lo_2_1_1_6, bh_2_1, bh_2_1_1, bh_2_1_1_6, bl_2_1, bl_2_1_1, bl_2_1_1_6, BitVec.extractLsb'_eq_self, Nat.reduceSub]
  rfl

theorem vfma (t : FType) (d : VReg) (a : VReg) (b : VReg) (c : VReg) : Statement (.vfma t d a b c) := by
  intro wf _ rest
  refine (decode_w32 (eForm (0#2 ++ encFType t ++ 0#1) (v5 c) (v5 b) (v5 a) (v5 d) 0x1F) rest (len_eForm ..)).trans ?_
  rw [major_1F _ (fMajor_eForm ..)]
  simp (disch := decide) only [decVfma, need, fRd_eForm, fRs1_eForm, fRs2_eForm, fRs3_eForm, top_eForm, bit_eForm, vOk_v5, toV_v5, dec_encFType, hi_5_5, hi_1_4, hi_8_2, hi_4_3, hi_4_3_3, hi_5_1, hi_5_1_4, hi_6_4, hi_3_12, hi_7_2, hi_7_2_6, hi_1_14, hi_2_3, hi_2_2, hi_2_2_1, hi_4_1, hi_1_2, hi_1_2_2, hi_1_1, hi_1_1_3, hi_5_7, hi_3_9, hi_3_2, lo_5_5, lo_1_4, lo_8_2, lo_4_3, lo_4_3_3, lo_5_1, lo_5_1_4, lo_6_4, lo_3_12, lo_7_2, lo_7_2_6, lo_1_14, lo_2_3, lo_2_2, lo_2_2_1, lo_4_1, lo_1_2, lo_1_2_2, lo_1_1, lo_1_1_3, lo_5_7, lo_3_9, lo_3_2, bh_5_5, bh_1_4, bh_8_2, bh_4_3, bh_4_3_3, bh_5_1, bh_5_1_4, bh_6_4, bh_3_12, bh_7_2, bh_7_2_6, bh_1_14, bh_2_3, bh_2_2, bh_2_2_1, bh_4_1, bh_1_2, bh_1_2_2, bh_1_1, bh_1_1_3, bh_5_7, bh_3_9, bh_3_2, bl_5_5, bl_1_4, bl_8_2, bl_4_3, bl_4_3_3, bl_5_1, bl_5_1_4, bl_6_4, bl_3_12, bl_7_2, bl_7_2_6, bl_1_14, bl_2_3, bl_2_2, bl_2_2_1, bl_4_1, bl_1_2, bl_1_2_2, bl_1_1, bl_1_1_3, bl_5_7, bl_3_9, bl_3_2, BitVec.extractLsb'_eq_self, Nat.reduceSub]
  rfl

theorem vfnma (t : FType) (d : VReg) (a : VReg) (b : VReg) (c : VReg) : Statement (.vfnma t d a b c) := by
  intro wf _ rest
  refine (decode_w32 (eForm (0#2 ++ encFType t ++ 1#1) (v5 c) (v5 b) (v5 a) (v5 d) 0x1F) rest (len_eForm ..)).trans ?_
  rw [major_1F _ (fMajor_eForm ..)]
  simp (disch := decide) only [decVfma, need, fRd_eForm, fRs1_eForm, fRs2_eForm, fRs3_eForm, top_eForm, bit_eForm, vOk_v5, toV_v5, dec_encFType, hi_5_5, hi_1_4, hi_8_2, hi_4_3, hi_4_3_3, hi_5_1, hi_5_1_4, hi_6_4, hi_3_12, hi_7_2, hi_7_2_6, hi_1_14, hi_2_3, hi_2_2, hi_2_2_1, hi_4_1, hi_1_2, hi_1_2_2, hi_1_1, hi_1_1_3, hi_5_7, hi_3_9, hi_3_2, lo_5_5, lo_1_4, lo_8_2, lo_4_3, lo_4_3_3, lo_5_1, lo_5_1_4, lo_6_4, lo_3_12, lo_7_2, lo_7_2_6, lo_1_14, lo_2_3, lo_2_2, lo_2_2_1, lo_4_1, lo_1_2, lo_1_2_2, lo_1_1, lo_1_1_3, lo_5_7, lo_3_9, lo_3_2, bh_5_5, bh_1_4, bh_8_2, bh_4_3, bh_4_3_3, bh_5_1, bh_5_1_4, bh_6_4, bh_3_12, bh_7_2, bh_7_2_6, bh_1_14, bh_2_3, bh_2_2, bh_2_2_1, bh_4_1, bh_1_2, bh_1_2_2, bh_1_1, bh_1_1_3, bh_5_7, bh_3_9, bh_3_2, bl_5_5, bl_1_4, bl_8_2, bl_4_3, bl_4_3_3, bl_5_1, bl_5_1_4, bl_6_4, bl_3_12, bl_7_2, bl_7_2_6, bl_1_14, bl_2_3, bl_2_2, bl_2_2_1, bl_4_1, bl_1_2, bl_1_2_2, bl_1_1, bl_1_1_3, bl_5_7, bl_3_9, bl_3_2, BitVec.extractLsb'_eq_self, Nat.reduceSub]
  rfl

theorem vld (d : VReg) (a : Reg) (i : BitVec 12) : Statement (.vld d a i) := by
  intro wf _ rest
  refine (decode_w32 (lForm i 0 a (v5 d) 0x20) rest (len_lForm ..)).trans ?_
  rw [major_20 _ (fMajor_lForm ..)]
  simp (disch := decide) only [decVmem, need, fRd_lForm, fRs1_lForm, fImm12_lForm, fSize_lForm, top_lForm, bit_lForm, vOk_v5, toV_v5, BitVec.extractLsb'_eq_self, Nat.reduceSub]
  rfl

theorem vst (d : VReg) (a : Reg) (i : BitVec 12) : Statement (.vst d a i) := by
  intro wf _ rest
  refine (decode_w32 (lForm i 1 a (v5 d) 0x20) rest (len_lForm ..)).trans ?_
  rw [major_20 _ (fMajor_lForm ..)]
  simp (disch := decide) only [decVmem, need, fRd_lForm, fRs1_lForm, fImm12_lForm, fSize_lForm, top_lForm, bit_lForm, vOk_v5, toV_v5, BitVec.extractLsb'_eq_self, Nat.reduceSub]
  rfl

theorem vlds (d : VReg) (a : Reg) (i : BitVec 12) : Statement (.vlds d a i) := by
  intro wf _ rest
  refine (decode_w32 (lForm i 2 a (v5 d) 0x20) rest (len_lForm ..)).trans ?_
  rw [major_20 _ (fMajor_lForm ..)]
  simp (disch := decide) only [decVmem, need, fRd_lForm, fRs1_lForm, fImm12_lForm, fSize_lForm, top_lForm, bit_lForm, vOk_v5, toV_v5, BitVec.extractLsb'_eq_self, Nat.reduceSub]
  rfl

theorem vsts (d : VReg) (a : Reg) (i : BitVec 12) : Statement (.vsts d a i) := by
  intro wf _ rest
  refine (decode_w32 (lForm i 3 a (v5 d) 0x20) rest (len_lForm ..)).trans ?_
  rw [major_20 _ (fMajor_lForm ..)]
  simp (disch := decide) only [decVmem, need, fRd_lForm, fRs1_lForm, fImm12_lForm, fSize_lForm, top_lForm, bit_lForm, vOk_v5, toV_v5, BitVec.extractLsb'_eq_self, Nat.reduceSub]
  rfl

theorem vgath (d : VReg) (a : Reg) (v : VReg) : Statement (.vgath d a v) := by
  intro wf _ rest
  refine (decode_w32 (lForm (v ++ 0#9) 4 a (v5 d) 0x20) rest (len_lForm ..)).trans ?_
  rw [major_20 _ (fMajor_lForm ..)]
  simp (disch := decide) only [decVmem, need, fRd_lForm, fRs1_lForm, fImm12_lForm, fSize_lForm, top_lForm, bit_lForm, vOk_v5, toV_v5, hi_5_5, hi_1_4, hi_8_2, hi_4_3, hi_4_3_3, hi_5_1, hi_5_1_4, hi_6_4, hi_3_12, hi_7_2, hi_7_2_6, hi_1_14, hi_2_3, hi_2_2, hi_2_2_1, hi_4_1, hi_1_2, hi_1_2_2, hi_1_1, hi_1_1_3, hi_5_7, hi_3_9, hi_3_2, lo_5_5, lo_1_4, lo_8_2, lo_4_3, lo_4_3_3, lo_5_1, lo_5_1_4, lo_6_4, lo_3_12, lo_7_2, lo_7_2_6, lo_1_14, lo_2_3, lo_2_2, lo_2_2_1, lo_4_1, lo_1_2, lo_1_2_2, lo_1_1, lo_1_1_3, lo_5_7, lo_3_9, lo_3_2, bh_5_5, bh_1_4, bh_8_2, bh_4_3, bh_4_3_3, bh_5_1, bh_5_1_4, bh_6_4, bh_3_12, bh_7_2, bh_7_2_6, bh_1_14, bh_2_3, bh_2_2, bh_2_2_1, bh_4_1, bh_1_2, bh_1_2_2, bh_1_1, bh_1_1_3, bh_5_7, bh_3_9, bh_3_2, bl_5_5, bl_1_4, bl_8_2, bl_4_3, bl_4_3_3, bl_5_1, bl_5_1_4, bl_6_4, bl_3_12, bl_7_2, bl_7_2_6, bl_1_14, bl_2_3, bl_2_2, bl_2_2_1, bl_4_1, bl_1_2, bl_1_2_2, bl_1_1, bl_1_1_3, bl_5_7, bl_3_9, bl_3_2, BitVec.extractLsb'_eq_self, Nat.reduceSub]
  rfl

theorem vscat (d : VReg) (a : Reg) (v : VReg) : Statement (.vscat d a v) := by
  intro wf _ rest
  refine (decode_w32 (lForm (v ++ 0#9) 5 a (v5 d) 0x20) rest (len_lForm ..)).trans ?_
  rw [major_20 _ (fMajor_lForm ..)]
  simp (disch := decide) only [decVmem, need, fRd_lForm, fRs1_lForm, fImm12_lForm, fSize_lForm, top_lForm, bit_lForm, vOk_v5, toV_v5, hi_5_5, hi_1_4, hi_8_2, hi_4_3, hi_4_3_3, hi_5_1, hi_5_1_4, hi_6_4, hi_3_12, hi_7_2, hi_7_2_6, hi_1_14, hi_2_3, hi_2_2, hi_2_2_1, hi_4_1, hi_1_2, hi_1_2_2, hi_1_1, hi_1_1_3, hi_5_7, hi_3_9, hi_3_2, lo_5_5, lo_1_4, lo_8_2, lo_4_3, lo_4_3_3, lo_5_1, lo_5_1_4, lo_6_4, lo_3_12, lo_7_2, lo_7_2_6, lo_1_14, lo_2_3, lo_2_2, lo_2_2_1, lo_4_1, lo_1_2, lo_1_2_2, lo_1_1, lo_1_1_3, lo_5_7, lo_3_9, lo_3_2, bh_5_5, bh_1_4, bh_8_2, bh_4_3, bh_4_3_3, bh_5_1, bh_5_1_4, bh_6_4, bh_3_12, bh_7_2, bh_7_2_6, bh_1_14, bh_2_3, bh_2_2, bh_2_2_1, bh_4_1, bh_1_2, bh_1_2_2, bh_1_1, bh_1_1_3, bh_5_7, bh_3_9, bh_3_2, bl_5_5, bl_1_4, bl_8_2, bl_4_3, bl_4_3_3, bl_5_1, bl_5_1_4, bl_6_4, bl_3_12, bl_7_2, bl_7_2_6, bl_1_14, bl_2_3, bl_2_2, bl_2_2_1, bl_4_1, bl_1_2, bl_1_2_2, bl_1_1, bl_1_1_3, bl_5_7, bl_3_9, bl_3_2, BitVec.extractLsb'_eq_self, Nat.reduceSub]
  rfl

theorem vbcast (t : IType) (d : VReg) (a : Reg) : Statement (.vbcast t d a) := by
  intro wf _ rest
  refine (decode_w32 (rForm (vmFn (encIType t) 0 0) 0 a (v5 d) 0x21) rest (len_rForm ..)).trans ?_
  rw [major_21 _ (fMajor_rForm ..)]
  simp (disch := decide) only [decVmisc, need, fRd_rForm, fRs1_rForm, fRs2_rForm, fFn_rForm, top_rForm, bit_rForm, vmFn, vOk_v5, toV_v5, dec_encIType, hi_2_3, hi_2_3_5, lo_2_3, lo_2_3_5, bh_2_3, bh_2_3_5, bl_2_3, bl_2_3_5, BitVec.extractLsb'_eq_self, Nat.reduceSub]
  rfl

theorem vext (t : IType) (d : Reg) (a : VReg) (b : Reg) : Statement (.vext t d a b) := by
  intro wf _ rest
  refine (decode_w32 (rForm (vmFn (encIType t) 0 1) b (v5 a) d 0x21) rest (len_rForm ..)).trans ?_
  rw [major_21 _ (fMajor_rForm ..)]
  simp (disch := decide) only [decVmisc, need, fRd_rForm, fRs1_rForm, fRs2_rForm, fFn_rForm, top_rForm, bit_rForm, vmFn, vOk_v5, toV_v5, dec_encIType, hi_2_3, hi_2_3_5, lo_2_3, lo_2_3_5, bh_2_3, bh_2_3_5, bl_2_3, bl_2_3_5, BitVec.extractLsb'_eq_self, Nat.reduceSub]
  rfl

theorem vins (t : IType) (d : VReg) (a : Reg) (b : Reg) : Statement (.vins t d a b) := by
  intro wf _ rest
  refine (decode_w32 (rForm (vmFn (encIType t) 0 2) b a (v5 d) 0x21) rest (len_rForm ..)).trans ?_
  rw [major_21 _ (fMajor_rForm ..)]
  simp (disch := decide) only [decVmisc, need, fRd_rForm, fRs1_rForm, fRs2_rForm, fFn_rForm, top_rForm, bit_rForm, vmFn, vOk_v5, toV_v5, dec_encIType, hi_2_3, hi_2_3_5, lo_2_3, lo_2_3_5, bh_2_3, bh_2_3_5, bl_2_3, bl_2_3_5, BitVec.extractLsb'_eq_self, Nat.reduceSub]
  rfl

theorem vsel (t : IType) (d : VReg) (a : VReg) (b : VReg) : Statement (.vsel t d a b) := by
  intro wf _ rest
  refine (decode_w32 (rForm (vmFn (encIType t) 0 3) (v5 b) (v5 a) (v5 d) 0x21) rest (len_rForm ..)).trans ?_
  rw [major_21 _ (fMajor_rForm ..)]
  simp (disch := decide) only [decVmisc, need, fRd_rForm, fRs1_rForm, fRs2_rForm, fFn_rForm, top_rForm, bit_rForm, vmFn, vOk_v5, toV_v5, dec_encIType, hi_2_3, hi_2_3_5, lo_2_3, lo_2_3_5, bh_2_3, bh_2_3_5, bl_2_3, bl_2_3_5, BitVec.extractLsb'_eq_self, Nat.reduceSub]
  rfl

theorem vcmp (o : VCmpOp) (d : VReg) (a : VReg) (b : VReg) : Statement (.vcmp o d a b) := by
  intro wf _ rest
  refine (decode_w32 (rForm (vmFn (encVCmp o).2 (encVCmp o).1 4) (v5 b) (v5 a) (v5 d) 0x21) rest (len_rForm ..)).trans ?_
  rw [major_21 _ (fMajor_rForm ..)]
  simp (disch := decide) only [decVmisc, need, fRd_rForm, fRs1_rForm, fRs2_rForm, fFn_rForm, top_rForm, bit_rForm, vmFn, vOk_v5, toV_v5, dec_encVCmp, hi_2_3, hi_2_3_5, lo_2_3, lo_2_3_5, bh_2_3, bh_2_3_5, bl_2_3, bl_2_3_5, BitVec.extractLsb'_eq_self, Nat.reduceSub]
  rfl

theorem vred (o : VRedOp) (d : Reg) (a : VReg) : Statement (.vred o d a) := by
  intro wf _ rest
  refine (decode_w32 (rForm (vmFn (encVRed o).2 (encVRed o).1 5) 0 (v5 a) d 0x21) rest (len_rForm ..)).trans ?_
  rw [major_21 _ (fMajor_rForm ..)]
  simp (disch := decide) only [decVmisc, need, fRd_rForm, fRs1_rForm, fRs2_rForm, fFn_rForm, top_rForm, bit_rForm, vmFn, vOk_v5, toV_v5, dec_encVRed, hi_2_3, hi_2_3_5, lo_2_3, lo_2_3_5, bh_2_3, bh_2_3_5, bl_2_3, bl_2_3_5, BitVec.extractLsb'_eq_self, Nat.reduceSub]
  rfl

theorem vperm (t : IType) (d : VReg) (a : VReg) (b : VReg) : Statement (.vperm t d a b) := by
  intro wf _ rest
  refine (decode_w32 (rForm (vmFn (encIType t) 0 6) (v5 b) (v5 a) (v5 d) 0x21) rest (len_rForm ..)).trans ?_
  rw [major_21 _ (fMajor_rForm ..)]
  simp (disch := decide) only [decVmisc, need, fRd_rForm, fRs1_rForm, fRs2_rForm, fFn_rForm, top_rForm, bit_rForm, vmFn, vOk_v5, toV_v5, dec_encIType, hi_2_3, hi_2_3_5, lo_2_3, lo_2_3_5, bh_2_3, bh_2_3_5, bl_2_3, bl_2_3_5, BitVec.extractLsb'_eq_self, Nat.reduceSub]
  rfl

theorem vcvt (k : VCvt) (d : VReg) (a : VReg) : Statement (.vcvt k d a) := by
  intro wf _ rest
  refine (decode_w32 (rForm (encVCvt k ++ 7#5) 0 (v5 a) (v5 d) 0x21) rest (len_rForm ..)).trans ?_
  rw [major_21 _ (fMajor_rForm ..)]
  simp (disch := decide) only [decVmisc, need, fRd_rForm, fRs1_rForm, fRs2_rForm, fFn_rForm, top_rForm, bit_rForm, vOk_v5, toV_v5, dec_encVCvt, hi_5_5, hi_1_4, hi_8_2, hi_4_3, hi_4_3_3, hi_5_1, hi_5_1_4, hi_6_4, hi_3_12, hi_7_2, hi_7_2_6, hi_1_14, hi_2_3, hi_2_2, hi_2_2_1, hi_4_1, hi_1_2, hi_1_2_2, hi_1_1, hi_1_1_3, hi_5_7, hi_3_9, hi_3_2, lo_5_5, lo_1_4, lo_8_2, lo_4_3, lo_4_3_3, lo_5_1, lo_5_1_4, lo_6_4, lo_3_12, lo_7_2, lo_7_2_6, lo_1_14, lo_2_3, lo_2_2, lo_2_2_1, lo_4_1, lo_1_2, lo_1_2_2, lo_1_1, lo_1_1_3, lo_5_7, lo_3_9, lo_3_2, bh_5_5, bh_1_4, bh_8_2, bh_4_3, bh_4_3_3, bh_5_1, bh_5_1_4, bh_6_4, bh_3_12, bh_7_2, bh_7_2_6, bh_1_14, bh_2_3, bh_2_2, bh_2_2_1, bh_4_1, bh_1_2, bh_1_2_2, bh_1_1, bh_1_1_3, bh_5_7, bh_3_9, bh_3_2, bl_5_5, bl_1_4, bl_8_2, bl_4_3, bl_4_3_3, bl_5_1, bl_5_1_4, bl_6_4, bl_3_12, bl_7_2, bl_7_2_6, bl_1_14, bl_2_3, bl_2_2, bl_2_2_1, bl_4_1, bl_1_2, bl_1_2_2, bl_1_1, bl_1_1_3, bl_5_7, bl_3_9, bl_3_2, BitVec.extractLsb'_eq_self, Nat.reduceSub]
  rfl

theorem vpack (m : BxFmt) (d : VReg) (a : VReg) : Statement (.vpack m d a) := by
  intro wf _ rest
  refine (decode_w32 (rForm (vmFn (encBx m) 0 8) 0 (v5 a) (v5 d) 0x21) rest (len_rForm ..)).trans ?_
  rw [major_21 _ (fMajor_rForm ..)]
  simp (disch := decide) only [decVmisc, need, fRd_rForm, fRs1_rForm, fRs2_rForm, fFn_rForm, top_rForm, bit_rForm, vmFn, vOk_v5, toV_v5, dec_encBx, hi_2_3, hi_2_3_5, lo_2_3, lo_2_3_5, bh_2_3, bh_2_3_5, bl_2_3, bl_2_3_5, BitVec.extractLsb'_eq_self, Nat.reduceSub]
  rfl

theorem vunpk (m : BxFmt) (d : VReg) (a : VReg) : Statement (.vunpk m d a) := by
  intro wf _ rest
  refine (decode_w32 (rForm (vmFn (encBx m) 0 9) 0 (v5 a) (v5 d) 0x21) rest (len_rForm ..)).trans ?_
  rw [major_21 _ (fMajor_rForm ..)]
  simp (disch := decide) only [decVmisc, need, fRd_rForm, fRs1_rForm, fRs2_rForm, fFn_rForm, top_rForm, bit_rForm, vmFn, vOk_v5, toV_v5, dec_encBx, hi_2_3, hi_2_3_5, lo_2_3, lo_2_3_5, bh_2_3, bh_2_3_5, bl_2_3, bl_2_3_5, BitVec.extractLsb'_eq_self, Nat.reduceSub]
  rfl

theorem mma (n : Acc) (d : Reg) (a : Reg) (b : Reg) (c : Reg) : Statement (.mma n d a b c) := by
  intro wf _ rest
  refine (decode_w32 (eForm (0#4 ++ encAcc n) c b a d 0x22) rest (len_eForm ..)).trans ?_
  rw [major_22 _ (fMajor_eForm ..)]
  simp (disch := decide) only [decMatrix, need, fRd_eForm, fRs1_eForm, fRs2_eForm, fRs3_eForm, top_eForm, bit_eForm, dec_encAcc, hi_5_5, hi_1_4, hi_8_2, hi_4_3, hi_4_3_3, hi_5_1, hi_5_1_4, hi_6_4, hi_3_12, hi_7_2, hi_7_2_6, hi_1_14, hi_2_3, hi_2_2, hi_2_2_1, hi_4_1, hi_1_2, hi_1_2_2, hi_1_1, hi_1_1_3, hi_5_7, hi_3_9, hi_3_2, lo_5_5, lo_1_4, lo_8_2, lo_4_3, lo_4_3_3, lo_5_1, lo_5_1_4, lo_6_4, lo_3_12, lo_7_2, lo_7_2_6, lo_1_14, lo_2_3, lo_2_2, lo_2_2_1, lo_4_1, lo_1_2, lo_1_2_2, lo_1_1, lo_1_1_3, lo_5_7, lo_3_9, lo_3_2, bh_5_5, bh_1_4, bh_8_2, bh_4_3, bh_4_3_3, bh_5_1, bh_5_1_4, bh_6_4, bh_3_12, bh_7_2, bh_7_2_6, bh_1_14, bh_2_3, bh_2_2, bh_2_2_1, bh_4_1, bh_1_2, bh_1_2_2, bh_1_1, bh_1_1_3, bh_5_7, bh_3_9, bh_3_2, bl_5_5, bl_1_4, bl_8_2, bl_4_3, bl_4_3_3, bl_5_1, bl_5_1_4, bl_6_4, bl_3_12, bl_7_2, bl_7_2_6, bl_1_14, bl_2_3, bl_2_2, bl_2_2_1, bl_4_1, bl_1_2, bl_1_2_2, bl_1_1, bl_1_1_3, bl_5_7, bl_3_9, bl_3_2, BitVec.extractLsb'_eq_self, Nat.reduceSub]
  rfl

theorem accz (n : Acc) (d : Reg) : Statement (.accz n d) := by
  intro wf _ rest
  refine (decode_w32 (eForm (1#4 ++ encAcc n) 0 0 0 d 0x22) rest (len_eForm ..)).trans ?_
  rw [major_22 _ (fMajor_eForm ..)]
  simp (disch := decide) only [decMatrix, need, fRd_eForm, fRs1_eForm, fRs2_eForm, fRs3_eForm, top_eForm, bit_eForm, dec_encAcc, hi_5_5, hi_1_4, hi_8_2, hi_4_3, hi_4_3_3, hi_5_1, hi_5_1_4, hi_6_4, hi_3_12, hi_7_2, hi_7_2_6, hi_1_14, hi_2_3, hi_2_2, hi_2_2_1, hi_4_1, hi_1_2, hi_1_2_2, hi_1_1, hi_1_1_3, hi_5_7, hi_3_9, hi_3_2, lo_5_5, lo_1_4, lo_8_2, lo_4_3, lo_4_3_3, lo_5_1, lo_5_1_4, lo_6_4, lo_3_12, lo_7_2, lo_7_2_6, lo_1_14, lo_2_3, lo_2_2, lo_2_2_1, lo_4_1, lo_1_2, lo_1_2_2, lo_1_1, lo_1_1_3, lo_5_7, lo_3_9, lo_3_2, bh_5_5, bh_1_4, bh_8_2, bh_4_3, bh_4_3_3, bh_5_1, bh_5_1_4, bh_6_4, bh_3_12, bh_7_2, bh_7_2_6, bh_1_14, bh_2_3, bh_2_2, bh_2_2_1, bh_4_1, bh_1_2, bh_1_2_2, bh_1_1, bh_1_1_3, bh_5_7, bh_3_9, bh_3_2, bl_5_5, bl_1_4, bl_8_2, bl_4_3, bl_4_3_3, bl_5_1, bl_5_1_4, bl_6_4, bl_3_12, bl_7_2, bl_7_2_6, bl_1_14, bl_2_3, bl_2_2, bl_2_2_1, bl_4_1, bl_1_2, bl_1_2_2, bl_1_1, bl_1_1_3, bl_5_7, bl_3_9, bl_3_2, BitVec.extractLsb'_eq_self, Nat.reduceSub]
  rfl

theorem accld (n : Acc) (d : Reg) (a : Reg) : Statement (.accld n d a) := by
  intro wf _ rest
  refine (decode_w32 (eForm (2#4 ++ encAcc n) 0 0 a d 0x22) rest (len_eForm ..)).trans ?_
  rw [major_22 _ (fMajor_eForm ..)]
  simp (disch := decide) only [decMatrix, need, fRd_eForm, fRs1_eForm, fRs2_eForm, fRs3_eForm, top_eForm, bit_eForm, dec_encAcc, hi_5_5, hi_1_4, hi_8_2, hi_4_3, hi_4_3_3, hi_5_1, hi_5_1_4, hi_6_4, hi_3_12, hi_7_2, hi_7_2_6, hi_1_14, hi_2_3, hi_2_2, hi_2_2_1, hi_4_1, hi_1_2, hi_1_2_2, hi_1_1, hi_1_1_3, hi_5_7, hi_3_9, hi_3_2, lo_5_5, lo_1_4, lo_8_2, lo_4_3, lo_4_3_3, lo_5_1, lo_5_1_4, lo_6_4, lo_3_12, lo_7_2, lo_7_2_6, lo_1_14, lo_2_3, lo_2_2, lo_2_2_1, lo_4_1, lo_1_2, lo_1_2_2, lo_1_1, lo_1_1_3, lo_5_7, lo_3_9, lo_3_2, bh_5_5, bh_1_4, bh_8_2, bh_4_3, bh_4_3_3, bh_5_1, bh_5_1_4, bh_6_4, bh_3_12, bh_7_2, bh_7_2_6, bh_1_14, bh_2_3, bh_2_2, bh_2_2_1, bh_4_1, bh_1_2, bh_1_2_2, bh_1_1, bh_1_1_3, bh_5_7, bh_3_9, bh_3_2, bl_5_5, bl_1_4, bl_8_2, bl_4_3, bl_4_3_3, bl_5_1, bl_5_1_4, bl_6_4, bl_3_12, bl_7_2, bl_7_2_6, bl_1_14, bl_2_3, bl_2_2, bl_2_2_1, bl_4_1, bl_1_2, bl_1_2_2, bl_1_1, bl_1_1_3, bl_5_7, bl_3_9, bl_3_2, BitVec.extractLsb'_eq_self, Nat.reduceSub]
  rfl

theorem accst (n : Acc) (d : Reg) (a : Reg) : Statement (.accst n d a) := by
  intro wf _ rest
  refine (decode_w32 (eForm (3#4 ++ encAcc n) 0 0 a d 0x22) rest (len_eForm ..)).trans ?_
  rw [major_22 _ (fMajor_eForm ..)]
  simp (disch := decide) only [decMatrix, need, fRd_eForm, fRs1_eForm, fRs2_eForm, fRs3_eForm, top_eForm, bit_eForm, dec_encAcc, hi_5_5, hi_1_4, hi_8_2, hi_4_3, hi_4_3_3, hi_5_1, hi_5_1_4, hi_6_4, hi_3_12, hi_7_2, hi_7_2_6, hi_1_14, hi_2_3, hi_2_2, hi_2_2_1, hi_4_1, hi_1_2, hi_1_2_2, hi_1_1, hi_1_1_3, hi_5_7, hi_3_9, hi_3_2, lo_5_5, lo_1_4, lo_8_2, lo_4_3, lo_4_3_3, lo_5_1, lo_5_1_4, lo_6_4, lo_3_12, lo_7_2, lo_7_2_6, lo_1_14, lo_2_3, lo_2_2, lo_2_2_1, lo_4_1, lo_1_2, lo_1_2_2, lo_1_1, lo_1_1_3, lo_5_7, lo_3_9, lo_3_2, bh_5_5, bh_1_4, bh_8_2, bh_4_3, bh_4_3_3, bh_5_1, bh_5_1_4, bh_6_4, bh_3_12, bh_7_2, bh_7_2_6, bh_1_14, bh_2_3, bh_2_2, bh_2_2_1, bh_4_1, bh_1_2, bh_1_2_2, bh_1_1, bh_1_1_3, bh_5_7, bh_3_9, bh_3_2, bl_5_5, bl_1_4, bl_8_2, bl_4_3, bl_4_3_3, bl_5_1, bl_5_1_4, bl_6_4, bl_3_12, bl_7_2, bl_7_2_6, bl_1_14, bl_2_3, bl_2_2, bl_2_2_1, bl_4_1, bl_1_2, bl_1_2_2, bl_1_1, bl_1_1_3, bl_5_7, bl_3_9, bl_3_2, BitVec.extractLsb'_eq_self, Nat.reduceSub]
  rfl

theorem accmv (n : Acc) (d : Reg) : Statement (.accmv n d) := by
  intro wf _ rest
  refine (decode_w32 (eForm (4#4 ++ encAcc n) 0 0 0 d 0x22) rest (len_eForm ..)).trans ?_
  rw [major_22 _ (fMajor_eForm ..)]
  simp (disch := decide) only [decMatrix, need, fRd_eForm, fRs1_eForm, fRs2_eForm, fRs3_eForm, top_eForm, bit_eForm, dec_encAcc, hi_5_5, hi_1_4, hi_8_2, hi_4_3, hi_4_3_3, hi_5_1, hi_5_1_4, hi_6_4, hi_3_12, hi_7_2, hi_7_2_6, hi_1_14, hi_2_3, hi_2_2, hi_2_2_1, hi_4_1, hi_1_2, hi_1_2_2, hi_1_1, hi_1_1_3, hi_5_7, hi_3_9, hi_3_2, lo_5_5, lo_1_4, lo_8_2, lo_4_3, lo_4_3_3, lo_5_1, lo_5_1_4, lo_6_4, lo_3_12, lo_7_2, lo_7_2_6, lo_1_14, lo_2_3, lo_2_2, lo_2_2_1, lo_4_1, lo_1_2, lo_1_2_2, lo_1_1, lo_1_1_3, lo_5_7, lo_3_9, lo_3_2, bh_5_5, bh_1_4, bh_8_2, bh_4_3, bh_4_3_3, bh_5_1, bh_5_1_4, bh_6_4, bh_3_12, bh_7_2, bh_7_2_6, bh_1_14, bh_2_3, bh_2_2, bh_2_2_1, bh_4_1, bh_1_2, bh_1_2_2, bh_1_1, bh_1_1_3, bh_5_7, bh_3_9, bh_3_2, bl_5_5, bl_1_4, bl_8_2, bl_4_3, bl_4_3_3, bl_5_1, bl_5_1_4, bl_6_4, bl_3_12, bl_7_2, bl_7_2_6, bl_1_14, bl_2_3, bl_2_2, bl_2_2_1, bl_4_1, bl_1_2, bl_1_2_2, bl_1_1, bl_1_1_3, bl_5_7, bl_3_9, bl_3_2, BitVec.extractLsb'_eq_self, Nat.reduceSub]
  rfl

theorem wbld (d : Reg) (a : Reg) (b : Reg) (c : Reg) : Statement (.wbld d a b c) := by
  intro wf _ rest
  refine (decode_w32 (eForm (5#4 ++ 0#1) c b a d 0x22) rest (len_eForm ..)).trans ?_
  rw [major_22 _ (fMajor_eForm ..)]
  simp (disch := decide) only [decMatrix, need, fRd_eForm, fRs1_eForm, fRs2_eForm, fRs3_eForm, top_eForm, bit_eForm, hi_5_5, hi_1_4, hi_8_2, hi_4_3, hi_4_3_3, hi_5_1, hi_5_1_4, hi_6_4, hi_3_12, hi_7_2, hi_7_2_6, hi_1_14, hi_2_3, hi_2_2, hi_2_2_1, hi_4_1, hi_1_2, hi_1_2_2, hi_1_1, hi_1_1_3, hi_5_7, hi_3_9, hi_3_2, lo_5_5, lo_1_4, lo_8_2, lo_4_3, lo_4_3_3, lo_5_1, lo_5_1_4, lo_6_4, lo_3_12, lo_7_2, lo_7_2_6, lo_1_14, lo_2_3, lo_2_2, lo_2_2_1, lo_4_1, lo_1_2, lo_1_2_2, lo_1_1, lo_1_1_3, lo_5_7, lo_3_9, lo_3_2, bh_5_5, bh_1_4, bh_8_2, bh_4_3, bh_4_3_3, bh_5_1, bh_5_1_4, bh_6_4, bh_3_12, bh_7_2, bh_7_2_6, bh_1_14, bh_2_3, bh_2_2, bh_2_2_1, bh_4_1, bh_1_2, bh_1_2_2, bh_1_1, bh_1_1_3, bh_5_7, bh_3_9, bh_3_2, bl_5_5, bl_1_4, bl_8_2, bl_4_3, bl_4_3_3, bl_5_1, bl_5_1_4, bl_6_4, bl_3_12, bl_7_2, bl_7_2_6, bl_1_14, bl_2_3, bl_2_2, bl_2_2_1, bl_4_1, bl_1_2, bl_1_2_2, bl_1_1, bl_1_1_3, bl_5_7, bl_3_9, bl_3_2, BitVec.extractLsb'_eq_self, Nat.reduceSub]
  rfl

theorem shpchk (d : Reg) (a : Reg) : Statement (.shpchk d a) := by
  intro wf _ rest
  refine (decode_w32 (eForm 0 0 0 a d 0x23) rest (len_eForm ..)).trans ?_
  rw [major_23 _ (fMajor_eForm ..)]
  simp (disch := decide) only [decCopy, need, fRd_eForm, fRs1_eForm, fRs2_eForm, fRs3_eForm, top_eForm, bit_eForm, BitVec.extractLsb'_eq_self, Nat.reduceSub]
  rfl

theorem cpyin (h : Chan) (d : Reg) (a : Reg) (b : Reg) (c : Reg) : Statement (.cpyin h d a b c) := by
  intro wf _ rest
  refine (decode_w32 (eForm (1#4 ++ encChan h) c b a d 0x23) rest (len_eForm ..)).trans ?_
  rw [major_23 _ (fMajor_eForm ..)]
  simp (disch := decide) only [decCopy, need, fRd_eForm, fRs1_eForm, fRs2_eForm, fRs3_eForm, top_eForm, bit_eForm, dec_encChan, hi_5_5, hi_1_4, hi_8_2, hi_4_3, hi_4_3_3, hi_5_1, hi_5_1_4, hi_6_4, hi_3_12, hi_7_2, hi_7_2_6, hi_1_14, hi_2_3, hi_2_2, hi_2_2_1, hi_4_1, hi_1_2, hi_1_2_2, hi_1_1, hi_1_1_3, hi_5_7, hi_3_9, hi_3_2, lo_5_5, lo_1_4, lo_8_2, lo_4_3, lo_4_3_3, lo_5_1, lo_5_1_4, lo_6_4, lo_3_12, lo_7_2, lo_7_2_6, lo_1_14, lo_2_3, lo_2_2, lo_2_2_1, lo_4_1, lo_1_2, lo_1_2_2, lo_1_1, lo_1_1_3, lo_5_7, lo_3_9, lo_3_2, bh_5_5, bh_1_4, bh_8_2, bh_4_3, bh_4_3_3, bh_5_1, bh_5_1_4, bh_6_4, bh_3_12, bh_7_2, bh_7_2_6, bh_1_14, bh_2_3, bh_2_2, bh_2_2_1, bh_4_1, bh_1_2, bh_1_2_2, bh_1_1, bh_1_1_3, bh_5_7, bh_3_9, bh_3_2, bl_5_5, bl_1_4, bl_8_2, bl_4_3, bl_4_3_3, bl_5_1, bl_5_1_4, bl_6_4, bl_3_12, bl_7_2, bl_7_2_6, bl_1_14, bl_2_3, bl_2_2, bl_2_2_1, bl_4_1, bl_1_2, bl_1_2_2, bl_1_1, bl_1_1_3, bl_5_7, bl_3_9, bl_3_2, BitVec.extractLsb'_eq_self, Nat.reduceSub]
  rfl

theorem cpyout (h : Chan) (d : Reg) (a : Reg) (b : Reg) (c : Reg) : Statement (.cpyout h d a b c) := by
  intro wf _ rest
  refine (decode_w32 (eForm (2#4 ++ encChan h) c b a d 0x23) rest (len_eForm ..)).trans ?_
  rw [major_23 _ (fMajor_eForm ..)]
  simp (disch := decide) only [decCopy, need, fRd_eForm, fRs1_eForm, fRs2_eForm, fRs3_eForm, top_eForm, bit_eForm, dec_encChan, hi_5_5, hi_1_4, hi_8_2, hi_4_3, hi_4_3_3, hi_5_1, hi_5_1_4, hi_6_4, hi_3_12, hi_7_2, hi_7_2_6, hi_1_14, hi_2_3, hi_2_2, hi_2_2_1, hi_4_1, hi_1_2, hi_1_2_2, hi_1_1, hi_1_1_3, hi_5_7, hi_3_9, hi_3_2, lo_5_5, lo_1_4, lo_8_2, lo_4_3, lo_4_3_3, lo_5_1, lo_5_1_4, lo_6_4, lo_3_12, lo_7_2, lo_7_2_6, lo_1_14, lo_2_3, lo_2_2, lo_2_2_1, lo_4_1, lo_1_2, lo_1_2_2, lo_1_1, lo_1_1_3, lo_5_7, lo_3_9, lo_3_2, bh_5_5, bh_1_4, bh_8_2, bh_4_3, bh_4_3_3, bh_5_1, bh_5_1_4, bh_6_4, bh_3_12, bh_7_2, bh_7_2_6, bh_1_14, bh_2_3, bh_2_2, bh_2_2_1, bh_4_1, bh_1_2, bh_1_2_2, bh_1_1, bh_1_1_3, bh_5_7, bh_3_9, bh_3_2, bl_5_5, bl_1_4, bl_8_2, bl_4_3, bl_4_3_3, bl_5_1, bl_5_1_4, bl_6_4, bl_3_12, bl_7_2, bl_7_2_6, bl_1_14, bl_2_3, bl_2_2, bl_2_2_1, bl_4_1, bl_1_2, bl_1_2_2, bl_1_1, bl_1_1_3, bl_5_7, bl_3_9, bl_3_2, BitVec.extractLsb'_eq_self, Nat.reduceSub]
  rfl

theorem cpyll (h : Chan) (d : Reg) (a : Reg) (b : Reg) (c : Reg) : Statement (.cpyll h d a b c) := by
  intro wf _ rest
  refine (decode_w32 (eForm (3#4 ++ encChan h) c b a d 0x23) rest (len_eForm ..)).trans ?_
  rw [major_23 _ (fMajor_eForm ..)]
  simp (disch := decide) only [decCopy, need, fRd_eForm, fRs1_eForm, fRs2_eForm, fRs3_eForm, top_eForm, bit_eForm, dec_encChan, hi_5_5, hi_1_4, hi_8_2, hi_4_3, hi_4_3_3, hi_5_1, hi_5_1_4, hi_6_4, hi_3_12, hi_7_2, hi_7_2_6, hi_1_14, hi_2_3, hi_2_2, hi_2_2_1, hi_4_1, hi_1_2, hi_1_2_2, hi_1_1, hi_1_1_3, hi_5_7, hi_3_9, hi_3_2, lo_5_5, lo_1_4, lo_8_2, lo_4_3, lo_4_3_3, lo_5_1, lo_5_1_4, lo_6_4, lo_3_12, lo_7_2, lo_7_2_6, lo_1_14, lo_2_3, lo_2_2, lo_2_2_1, lo_4_1, lo_1_2, lo_1_2_2, lo_1_1, lo_1_1_3, lo_5_7, lo_3_9, lo_3_2, bh_5_5, bh_1_4, bh_8_2, bh_4_3, bh_4_3_3, bh_5_1, bh_5_1_4, bh_6_4, bh_3_12, bh_7_2, bh_7_2_6, bh_1_14, bh_2_3, bh_2_2, bh_2_2_1, bh_4_1, bh_1_2, bh_1_2_2, bh_1_1, bh_1_1_3, bh_5_7, bh_3_9, bh_3_2, bl_5_5, bl_1_4, bl_8_2, bl_4_3, bl_4_3_3, bl_5_1, bl_5_1_4, bl_6_4, bl_3_12, bl_7_2, bl_7_2_6, bl_1_14, bl_2_3, bl_2_2, bl_2_2_1, bl_4_1, bl_1_2, bl_1_2_2, bl_1_1, bl_1_1_3, bl_5_7, bl_3_9, bl_3_2, BitVec.extractLsb'_eq_self, Nat.reduceSub]
  rfl

theorem cstat (h : Chan) (d : Reg) : Statement (.cstat h d) := by
  intro wf _ rest
  refine (decode_w32 (eForm (4#4 ++ encChan h) 0 0 0 d 0x23) rest (len_eForm ..)).trans ?_
  rw [major_23 _ (fMajor_eForm ..)]
  simp (disch := decide) only [decCopy, need, fRd_eForm, fRs1_eForm, fRs2_eForm, fRs3_eForm, top_eForm, bit_eForm, dec_encChan, hi_5_5, hi_1_4, hi_8_2, hi_4_3, hi_4_3_3, hi_5_1, hi_5_1_4, hi_6_4, hi_3_12, hi_7_2, hi_7_2_6, hi_1_14, hi_2_3, hi_2_2, hi_2_2_1, hi_4_1, hi_1_2, hi_1_2_2, hi_1_1, hi_1_1_3, hi_5_7, hi_3_9, hi_3_2, lo_5_5, lo_1_4, lo_8_2, lo_4_3, lo_4_3_3, lo_5_1, lo_5_1_4, lo_6_4, lo_3_12, lo_7_2, lo_7_2_6, lo_1_14, lo_2_3, lo_2_2, lo_2_2_1, lo_4_1, lo_1_2, lo_1_2_2, lo_1_1, lo_1_1_3, lo_5_7, lo_3_9, lo_3_2, bh_5_5, bh_1_4, bh_8_2, bh_4_3, bh_4_3_3, bh_5_1, bh_5_1_4, bh_6_4, bh_3_12, bh_7_2, bh_7_2_6, bh_1_14, bh_2_3, bh_2_2, bh_2_2_1, bh_4_1, bh_1_2, bh_1_2_2, bh_1_1, bh_1_1_3, bh_5_7, bh_3_9, bh_3_2, bl_5_5, bl_1_4, bl_8_2, bl_4_3, bl_4_3_3, bl_5_1, bl_5_1_4, bl_6_4, bl_3_12, bl_7_2, bl_7_2_6, bl_1_14, bl_2_3, bl_2_2, bl_2_2_1, bl_4_1, bl_1_2, bl_1_2_2, bl_1_1, bl_1_1_3, bl_5_7, bl_3_9, bl_3_2, BitVec.extractLsb'_eq_self, Nat.reduceSub]
  rfl

theorem sbind (q : BitVec 2) (a : Reg) : Statement (.sbind q a) := by
  intro wf _ rest
  refine (decode_w32 (rForm 0 0 a (q5 q) 0x24) rest (len_rForm ..)).trans ?_
  rw [major_24 _ (fMajor_rForm ..)]
  simp (disch := decide) only [decStream, need, fRd_rForm, fRs1_rForm, fRs2_rForm, fFn_rForm, top_rForm, bit_rForm, q5_low, q5_ge, BitVec.extractLsb'_eq_self, Nat.reduceSub]
  rfl

theorem sunb (q : BitVec 2) : Statement (.sunb q) := by
  intro wf _ rest
  refine (decode_w32 (rForm 1 0 0 (q5 q) 0x24) rest (len_rForm ..)).trans ?_
  rw [major_24 _ (fMajor_rForm ..)]
  simp (disch := decide) only [decStream, need, fRd_rForm, fRs1_rForm, fRs2_rForm, fFn_rForm, top_rForm, bit_rForm, q5_low, q5_ge, BitVec.extractLsb'_eq_self, Nat.reduceSub]
  rfl

theorem qcnt (d : Reg) (q : BitVec 2) : Statement (.qcnt d q) := by
  intro wf _ rest
  refine (decode_w32 (rForm 2 0 (q5 q) d 0x24) rest (len_rForm ..)).trans ?_
  rw [major_24 _ (fMajor_rForm ..)]
  simp (disch := decide) only [decStream, need, fRd_rForm, fRs1_rForm, fRs2_rForm, fFn_rForm, top_rForm, bit_rForm, q5_low, q5_ge, BitVec.extractLsb'_eq_self, Nat.reduceSub]
  rfl

theorem sbindV (q : BitVec 1) (a : Reg) : Statement (.sbindV q a) := by
  intro wf _ rest
  refine (decode_w32 (rForm 4 0 a (vq5 q) 0x24) rest (len_rForm ..)).trans ?_
  rw [major_24 _ (fMajor_rForm ..)]
  simp (disch := decide) only [decStream, need, fRd_rForm, fRs1_rForm, fRs2_rForm, fFn_rForm, top_rForm, bit_rForm, vq5_low, vq5_ok, BitVec.extractLsb'_eq_self, Nat.reduceSub]
  rfl

theorem sunbV (q : BitVec 1) : Statement (.sunbV q) := by
  intro wf _ rest
  refine (decode_w32 (rForm 5 0 0 (vq5 q) 0x24) rest (len_rForm ..)).trans ?_
  rw [major_24 _ (fMajor_rForm ..)]
  simp (disch := decide) only [decStream, need, fRd_rForm, fRs1_rForm, fRs2_rForm, fFn_rForm, top_rForm, bit_rForm, vq5_low, vq5_ok, BitVec.extractLsb'_eq_self, Nat.reduceSub]
  rfl

theorem qcntV (d : Reg) (q : BitVec 1) : Statement (.qcntV d q) := by
  intro wf _ rest
  refine (decode_w32 (rForm 6 0 (vq5 q) d 0x24) rest (len_rForm ..)).trans ?_
  rw [major_24 _ (fMajor_rForm ..)]
  simp (disch := decide) only [decStream, need, fRd_rForm, fRs1_rForm, fRs2_rForm, fFn_rForm, top_rForm, bit_rForm, vq5_low, vq5_ok, BitVec.extractLsb'_eq_self, Nat.reduceSub]
  rfl

theorem xchg (d : Reg) (a : Reg) (b : Reg) : Statement (.xchg d a b) := by
  intro wf _ rest
  refine (decode_w32 (eForm (0#2 ++ 0#3) 0 b a d 0x25) rest (len_eForm ..)).trans ?_
  rw [major_25 _ (fMajor_eForm ..)]
  simp (disch := decide) only [decColl, need, fRd_eForm, fRs1_eForm, fRs2_eForm, fRs3_eForm, top_eForm, bit_eForm, hi_5_5, hi_1_4, hi_8_2, hi_4_3, hi_4_3_3, hi_5_1, hi_5_1_4, hi_6_4, hi_3_12, hi_7_2, hi_7_2_6, hi_1_14, hi_2_3, hi_2_2, hi_2_2_1, hi_4_1, hi_1_2, hi_1_2_2, hi_1_1, hi_1_1_3, hi_5_7, hi_3_9, hi_3_2, lo_5_5, lo_1_4, lo_8_2, lo_4_3, lo_4_3_3, lo_5_1, lo_5_1_4, lo_6_4, lo_3_12, lo_7_2, lo_7_2_6, lo_1_14, lo_2_3, lo_2_2, lo_2_2_1, lo_4_1, lo_1_2, lo_1_2_2, lo_1_1, lo_1_1_3, lo_5_7, lo_3_9, lo_3_2, bh_5_5, bh_1_4, bh_8_2, bh_4_3, bh_4_3_3, bh_5_1, bh_5_1_4, bh_6_4, bh_3_12, bh_7_2, bh_7_2_6, bh_1_14, bh_2_3, bh_2_2, bh_2_2_1, bh_4_1, bh_1_2, bh_1_2_2, bh_1_1, bh_1_1_3, bh_5_7, bh_3_9, bh_3_2, bl_5_5, bl_1_4, bl_8_2, bl_4_3, bl_4_3_3, bl_5_1, bl_5_1_4, bl_6_4, bl_3_12, bl_7_2, bl_7_2_6, bl_1_14, bl_2_3, bl_2_2, bl_2_2_1, bl_4_1, bl_1_2, bl_1_2_2, bl_1_1, bl_1_1_3, bl_5_7, bl_3_9, bl_3_2, BitVec.extractLsb'_eq_self, Nat.reduceSub]
  rfl

theorem mcast (n : Bool) (d : Reg) (a : Reg) (b : Reg) (c : Reg) : Statement (.mcast n d a b c) := by
  intro wf _ rest
  refine (decode_w32 (eForm (0#1 ++ b1 n ++ 1#3) c b a d 0x25) rest (len_eForm ..)).trans ?_
  rw [major_25 _ (fMajor_eForm ..)]
  simp (disch := decide) only [decColl, need, fRd_eForm, fRs1_eForm, fRs2_eForm, fRs3_eForm, top_eForm, bit_eForm, bit_b1, hi_5_5, hi_1_4, hi_8_2, hi_4_3, hi_4_3_3, hi_5_1, hi_5_1_4, hi_6_4, hi_3_12, hi_7_2, hi_7_2_6, hi_1_14, hi_2_3, hi_2_2, hi_2_2_1, hi_4_1, hi_1_2, hi_1_2_2, hi_1_1, hi_1_1_3, hi_5_7, hi_3_9, hi_3_2, lo_5_5, lo_1_4, lo_8_2, lo_4_3, lo_4_3_3, lo_5_1, lo_5_1_4, lo_6_4, lo_3_12, lo_7_2, lo_7_2_6, lo_1_14, lo_2_3, lo_2_2, lo_2_2_1, lo_4_1, lo_1_2, lo_1_2_2, lo_1_1, lo_1_1_3, lo_5_7, lo_3_9, lo_3_2, bh_5_5, bh_1_4, bh_8_2, bh_4_3, bh_4_3_3, bh_5_1, bh_5_1_4, bh_6_4, bh_3_12, bh_7_2, bh_7_2_6, bh_1_14, bh_2_3, bh_2_2, bh_2_2_1, bh_4_1, bh_1_2, bh_1_2_2, bh_1_1, bh_1_1_3, bh_5_7, bh_3_9, bh_3_2, bl_5_5, bl_1_4, bl_8_2, bl_4_3, bl_4_3_3, bl_5_1, bl_5_1_4, bl_6_4, bl_3_12, bl_7_2, bl_7_2_6, bl_1_14, bl_2_3, bl_2_2, bl_2_2_1, bl_4_1, bl_1_2, bl_1_2_2, bl_1_1, bl_1_1_3, bl_5_7, bl_3_9, bl_3_2, BitVec.extractLsb'_eq_self, Nat.reduceSub]
  rfl

theorem mcastWin (n : Bool) (d : Reg) (a : Reg) (b : Reg) (c : Reg) : Statement (.mcastWin n d a b c) := by
  intro wf _ rest
  refine (decode_w32 (eForm (0#1 ++ b1 n ++ 2#3) c b a d 0x25) rest (len_eForm ..)).trans ?_
  rw [major_25 _ (fMajor_eForm ..)]
  simp (disch := decide) only [decColl, need, fRd_eForm, fRs1_eForm, fRs2_eForm, fRs3_eForm, top_eForm, bit_eForm, bit_b1, hi_5_5, hi_1_4, hi_8_2, hi_4_3, hi_4_3_3, hi_5_1, hi_5_1_4, hi_6_4, hi_3_12, hi_7_2, hi_7_2_6, hi_1_14, hi_2_3, hi_2_2, hi_2_2_1, hi_4_1, hi_1_2, hi_1_2_2, hi_1_1, hi_1_1_3, hi_5_7, hi_3_9, hi_3_2, lo_5_5, lo_1_4, lo_8_2, lo_4_3, lo_4_3_3, lo_5_1, lo_5_1_4, lo_6_4, lo_3_12, lo_7_2, lo_7_2_6, lo_1_14, lo_2_3, lo_2_2, lo_2_2_1, lo_4_1, lo_1_2, lo_1_2_2, lo_1_1, lo_1_1_3, lo_5_7, lo_3_9, lo_3_2, bh_5_5, bh_1_4, bh_8_2, bh_4_3, bh_4_3_3, bh_5_1, bh_5_1_4, bh_6_4, bh_3_12, bh_7_2, bh_7_2_6, bh_1_14, bh_2_3, bh_2_2, bh_2_2_1, bh_4_1, bh_1_2, bh_1_2_2, bh_1_1, bh_1_1_3, bh_5_7, bh_3_9, bh_3_2, bl_5_5, bl_1_4, bl_8_2, bl_4_3, bl_4_3_3, bl_5_1, bl_5_1_4, bl_6_4, bl_3_12, bl_7_2, bl_7_2_6, bl_1_14, bl_2_3, bl_2_2, bl_2_2_1, bl_4_1, bl_1_2, bl_1_2_2, bl_1_1, bl_1_1_3, bl_5_7, bl_3_9, bl_3_2, BitVec.extractLsb'_eq_self, Nat.reduceSub]
  rfl

theorem reduce (o : RedOp) (d : Reg) (a : Reg) (b : Reg) (c : Reg) : Statement (.reduce o d a b c) := by
  intro wf _ rest
  refine (decode_w32 (eForm (encRed o ++ 3#3) c b a d 0x25) rest (len_eForm ..)).trans ?_
  rw [major_25 _ (fMajor_eForm ..)]
  simp (disch := decide) only [decColl, need, fRd_eForm, fRs1_eForm, fRs2_eForm, fRs3_eForm, top_eForm, bit_eForm, dec_encRed, hi_5_5, hi_1_4, hi_8_2, hi_4_3, hi_4_3_3, hi_5_1, hi_5_1_4, hi_6_4, hi_3_12, hi_7_2, hi_7_2_6, hi_1_14, hi_2_3, hi_2_2, hi_2_2_1, hi_4_1, hi_1_2, hi_1_2_2, hi_1_1, hi_1_1_3, hi_5_7, hi_3_9, hi_3_2, lo_5_5, lo_1_4, lo_8_2, lo_4_3, lo_4_3_3, lo_5_1, lo_5_1_4, lo_6_4, lo_3_12, lo_7_2, lo_7_2_6, lo_1_14, lo_2_3, lo_2_2, lo_2_2_1, lo_4_1, lo_1_2, lo_1_2_2, lo_1_1, lo_1_1_3, lo_5_7, lo_3_9, lo_3_2, bh_5_5, bh_1_4, bh_8_2, bh_4_3, bh_4_3_3, bh_5_1, bh_5_1_4, bh_6_4, bh_3_12, bh_7_2, bh_7_2_6, bh_1_14, bh_2_3, bh_2_2, bh_2_2_1, bh_4_1, bh_1_2, bh_1_2_2, bh_1_1, bh_1_1_3, bh_5_7, bh_3_9, bh_3_2, bl_5_5, bl_1_4, bl_8_2, bl_4_3, bl_4_3_3, bl_5_1, bl_5_1_4, bl_6_4, bl_3_12, bl_7_2, bl_7_2_6, bl_1_14, bl_2_3, bl_2_2, bl_2_2_1, bl_4_1, bl_1_2, bl_1_2_2, bl_1_1, bl_1_1_3, bl_5_7, bl_3_9, bl_3_2, BitVec.extractLsb'_eq_self, Nat.reduceSub]
  rfl

theorem halo (d : Reg) (a : Reg) (b : Reg) : Statement (.halo d a b) := by
  intro wf _ rest
  refine (decode_w32 (eForm (0#2 ++ 4#3) 0 b a d 0x25) rest (len_eForm ..)).trans ?_
  rw [major_25 _ (fMajor_eForm ..)]
  simp (disch := decide) only [decColl, need, fRd_eForm, fRs1_eForm, fRs2_eForm, fRs3_eForm, top_eForm, bit_eForm, hi_5_5, hi_1_4, hi_8_2, hi_4_3, hi_4_3_3, hi_5_1, hi_5_1_4, hi_6_4, hi_3_12, hi_7_2, hi_7_2_6, hi_1_14, hi_2_3, hi_2_2, hi_2_2_1, hi_4_1, hi_1_2, hi_1_2_2, hi_1_1, hi_1_1_3, hi_5_7, hi_3_9, hi_3_2, lo_5_5, lo_1_4, lo_8_2, lo_4_3, lo_4_3_3, lo_5_1, lo_5_1_4, lo_6_4, lo_3_12, lo_7_2, lo_7_2_6, lo_1_14, lo_2_3, lo_2_2, lo_2_2_1, lo_4_1, lo_1_2, lo_1_2_2, lo_1_1, lo_1_1_3, lo_5_7, lo_3_9, lo_3_2, bh_5_5, bh_1_4, bh_8_2, bh_4_3, bh_4_3_3, bh_5_1, bh_5_1_4, bh_6_4, bh_3_12, bh_7_2, bh_7_2_6, bh_1_14, bh_2_3, bh_2_2, bh_2_2_1, bh_4_1, bh_1_2, bh_1_2_2, bh_1_1, bh_1_1_3, bh_5_7, bh_3_9, bh_3_2, bl_5_5, bl_1_4, bl_8_2, bl_4_3, bl_4_3_3, bl_5_1, bl_5_1_4, bl_6_4, bl_3_12, bl_7_2, bl_7_2_6, bl_1_14, bl_2_3, bl_2_2, bl_2_2_1, bl_4_1, bl_1_2, bl_1_2_2, bl_1_1, bl_1_1_3, bl_5_7, bl_3_9, bl_3_2, BitVec.extractLsb'_eq_self, Nat.reduceSub]
  rfl

theorem gjoin (d : Reg) (a : Reg) (b : Reg) : Statement (.gjoin d a b) := by
  intro wf _ rest
  refine (decode_w32 (rForm 0 b a d 0x26) rest (len_rForm ..)).trans ?_
  rw [major_26 _ (fMajor_rForm ..)]
  simp (disch := decide) only [decGroup, need, fRd_rForm, fRs1_rForm, fRs2_rForm, fFn_rForm, top_rForm, bit_rForm, BitVec.extractLsb'_eq_self, Nat.reduceSub]
  rfl

theorem gleave (d : Reg) (a : Reg) : Statement (.gleave d a) := by
  intro wf _ rest
  refine (decode_w32 (rForm 1 0 a d 0x26) rest (len_rForm ..)).trans ?_
  rw [major_26 _ (fMajor_rForm ..)]
  simp (disch := decide) only [decGroup, need, fRd_rForm, fRs1_rForm, fRs2_rForm, fFn_rForm, top_rForm, bit_rForm, BitVec.extractLsb'_eq_self, Nat.reduceSub]
  rfl

theorem gbar (a : Reg) (b : Reg) : Statement (.gbar a b) := by
  intro wf _ rest
  refine (decode_w32 (rForm 2 b a 0 0x26) rest (len_rForm ..)).trans ?_
  rw [major_26 _ (fMajor_rForm ..)]
  simp (disch := decide) only [decGroup, need, fRd_rForm, fRs1_rForm, fRs2_rForm, fFn_rForm, top_rForm, bit_rForm, BitVec.extractLsb'_eq_self, Nat.reduceSub]
  rfl

theorem garr (d : Reg) (a : Reg) : Statement (.garr d a) := by
  intro wf _ rest
  refine (decode_w32 (rForm 3 0 a d 0x26) rest (len_rForm ..)).trans ?_
  rw [major_26 _ (fMajor_rForm ..)]
  simp (disch := decide) only [decGroup, need, fRd_rForm, fRs1_rForm, fRs2_rForm, fFn_rForm, top_rForm, bit_rForm, BitVec.extractLsb'_eq_self, Nat.reduceSub]
  rfl

theorem gwait (a : Reg) (b : Reg) : Statement (.gwait a b) := by
  intro wf _ rest
  refine (decode_w32 (rForm 4 b a 0 0x26) rest (len_rForm ..)).trans ?_
  rw [major_26 _ (fMajor_rForm ..)]
  simp (disch := decide) only [decGroup, need, fRd_rForm, fRs1_rForm, fRs2_rForm, fFn_rForm, top_rForm, bit_rForm, BitVec.extractLsb'_eq_self, Nat.reduceSub]
  rfl

theorem ginfo (d : Reg) (a : Reg) (b : Reg) : Statement (.ginfo d a b) := by
  intro wf _ rest
  refine (decode_w32 (rForm 5 b a d 0x26) rest (len_rForm ..)).trans ?_
  rw [major_26 _ (fMajor_rForm ..)]
  simp (disch := decide) only [decGroup, need, fRd_rForm, fRs1_rForm, fRs2_rForm, fFn_rForm, top_rForm, bit_rForm, BitVec.extractLsb'_eq_self, Nat.reduceSub]
  rfl

theorem cwait (e : Eng) (a : Reg) (b : Reg) : Statement (.cwait e a b) := by
  intro wf _ rest
  refine (decode_w32 (rForm (0#4 ++ encEng e ++ 0#3) b a 0 0x27) rest (len_rForm ..)).trans ?_
  rw [major_27 _ (fMajor_rForm ..)]
  simp (disch := decide) only [decWait, need, fRd_rForm, fRs1_rForm, fRs2_rForm, fFn_rForm, top_rForm, bit_rForm, dec_encEng, hi_5_5, hi_1_4, hi_8_2, hi_4_3, hi_4_3_3, hi_5_1, hi_5_1_4, hi_6_4, hi_3_12, hi_7_2, hi_7_2_6, hi_1_14, hi_2_3, hi_2_2, hi_2_2_1, hi_4_1, hi_1_2, hi_1_2_2, hi_1_1, hi_1_1_3, hi_5_7, hi_3_9, hi_3_2, lo_5_5, lo_1_4, lo_8_2, lo_4_3, lo_4_3_3, lo_5_1, lo_5_1_4, lo_6_4, lo_3_12, lo_7_2, lo_7_2_6, lo_1_14, lo_2_3, lo_2_2, lo_2_2_1, lo_4_1, lo_1_2, lo_1_2_2, lo_1_1, lo_1_1_3, lo_5_7, lo_3_9, lo_3_2, bh_5_5, bh_1_4, bh_8_2, bh_4_3, bh_4_3_3, bh_5_1, bh_5_1_4, bh_6_4, bh_3_12, bh_7_2, bh_7_2_6, bh_1_14, bh_2_3, bh_2_2, bh_2_2_1, bh_4_1, bh_1_2, bh_1_2_2, bh_1_1, bh_1_1_3, bh_5_7, bh_3_9, bh_3_2, bl_5_5, bl_1_4, bl_8_2, bl_4_3, bl_4_3_3, bl_5_1, bl_5_1_4, bl_6_4, bl_3_12, bl_7_2, bl_7_2_6, bl_1_14, bl_2_3, bl_2_2, bl_2_2_1, bl_4_1, bl_1_2, bl_1_2_2, bl_1_1, bl_1_1_3, bl_5_7, bl_3_9, bl_3_2, BitVec.extractLsb'_eq_self, Nat.reduceSub]
  rfl

theorem hwait (e : Dir) (a : Reg) (b : Reg) : Statement (.hwait e a b) := by
  intro wf _ rest
  refine (decode_w32 (rForm (0#4 ++ encDir e ++ 1#3) b a 0 0x27) rest (len_rForm ..)).trans ?_
  rw [major_27 _ (fMajor_rForm ..)]
  simp (disch := decide) only [decWait, need, fRd_rForm, fRs1_rForm, fRs2_rForm, fFn_rForm, top_rForm, bit_rForm, dec_encDir, hi_5_5, hi_1_4, hi_8_2, hi_4_3, hi_4_3_3, hi_5_1, hi_5_1_4, hi_6_4, hi_3_12, hi_7_2, hi_7_2_6, hi_1_14, hi_2_3, hi_2_2, hi_2_2_1, hi_4_1, hi_1_2, hi_1_2_2, hi_1_1, hi_1_1_3, hi_5_7, hi_3_9, hi_3_2, lo_5_5, lo_1_4, lo_8_2, lo_4_3, lo_4_3_3, lo_5_1, lo_5_1_4, lo_6_4, lo_3_12, lo_7_2, lo_7_2_6, lo_1_14, lo_2_3, lo_2_2, lo_2_2_1, lo_4_1, lo_1_2, lo_1_2_2, lo_1_1, lo_1_1_3, lo_5_7, lo_3_9, lo_3_2, bh_5_5, bh_1_4, bh_8_2, bh_4_3, bh_4_3_3, bh_5_1, bh_5_1_4, bh_6_4, bh_3_12, bh_7_2, bh_7_2_6, bh_1_14, bh_2_3, bh_2_2, bh_2_2_1, bh_4_1, bh_1_2, bh_1_2_2, bh_1_1, bh_1_1_3, bh_5_7, bh_3_9, bh_3_2, bl_5_5, bl_1_4, bl_8_2, bl_4_3, bl_4_3_3, bl_5_1, bl_5_1_4, bl_6_4, bl_3_12, bl_7_2, bl_7_2_6, bl_1_14, bl_2_3, bl_2_2, bl_2_2_1, bl_4_1, bl_1_2, bl_1_2_2, bl_1_1, bl_1_1_3, bl_5_7, bl_3_9, bl_3_2, BitVec.extractLsb'_eq_self, Nat.reduceSub]
  rfl

theorem waitc (a : Reg) : Statement (.waitc a) := by
  intro wf _ rest
  refine (decode_w32 (rForm 2 0 a 0 0x27) rest (len_rForm ..)).trans ?_
  rw [major_27 _ (fMajor_rForm ..)]
  simp (disch := decide) only [decWait, need, fRd_rForm, fRs1_rForm, fRs2_rForm, fFn_rForm, top_rForm, bit_rForm, BitVec.extractLsb'_eq_self, Nat.reduceSub]
  rfl

theorem waitw (a : Reg) (b : Reg) : Statement (.waitw a b) := by
  intro wf _ rest
  refine (decode_w32 (rForm 3 b a 0 0x27) rest (len_rForm ..)).trans ?_
  rw [major_27 _ (fMajor_rForm ..)]
  simp (disch := decide) only [decWait, need, fRd_rForm, fRs1_rForm, fRs2_rForm, fFn_rForm, top_rForm, bit_rForm, BitVec.extractLsb'_eq_self, Nat.reduceSub]
  rfl

theorem waita (d : Reg) (b : Reg) : Statement (.waita d b) := by
  intro wf _ rest
  refine (decode_w32 (rForm 4 b 0 d 0x27) rest (len_rForm ..)).trans ?_
  rw [major_27 _ (fMajor_rForm ..)]
  simp (disch := decide) only [decWait, need, fRd_rForm, fRs1_rForm, fRs2_rForm, fFn_rForm, top_rForm, bit_rForm, BitVec.extractLsb'_eq_self, Nat.reduceSub]
  rfl

theorem send (a : Reg) (b : Reg) (k : BitVec 8) : Statement (.send a b k) := by
  intro wf _ rest
  refine (decode_w32 (rForm (k ++ 0#2) b a 0 0x28) rest (len_rForm ..)).trans ?_
  rw [major_28 _ (fMajor_rForm ..)]
  have h : sendClass k = true := wf
  simp (disch := decide) only [decMsg, need, fRd_rForm, fRs1_rForm, fRs2_rForm, fFn_rForm, top_rForm, bit_rForm, hi_5_5, hi_1_4, hi_8_2, hi_4_3, hi_4_3_3, hi_5_1, hi_5_1_4, hi_6_4, hi_3_12, hi_7_2, hi_7_2_6, hi_1_14, hi_2_3, hi_2_2, hi_2_2_1, hi_4_1, hi_1_2, hi_1_2_2, hi_1_1, hi_1_1_3, hi_5_7, hi_3_9, hi_3_2, lo_5_5, lo_1_4, lo_8_2, lo_4_3, lo_4_3_3, lo_5_1, lo_5_1_4, lo_6_4, lo_3_12, lo_7_2, lo_7_2_6, lo_1_14, lo_2_3, lo_2_2, lo_2_2_1, lo_4_1, lo_1_2, lo_1_2_2, lo_1_1, lo_1_1_3, lo_5_7, lo_3_9, lo_3_2, bh_5_5, bh_1_4, bh_8_2, bh_4_3, bh_4_3_3, bh_5_1, bh_5_1_4, bh_6_4, bh_3_12, bh_7_2, bh_7_2_6, bh_1_14, bh_2_3, bh_2_2, bh_2_2_1, bh_4_1, bh_1_2, bh_1_2_2, bh_1_1, bh_1_1_3, bh_5_7, bh_3_9, bh_3_2, bl_5_5, bl_1_4, bl_8_2, bl_4_3, bl_4_3_3, bl_5_1, bl_5_1_4, bl_6_4, bl_3_12, bl_7_2, bl_7_2_6, bl_1_14, bl_2_3, bl_2_2, bl_2_2_1, bl_4_1, bl_1_2, bl_1_2_2, bl_1_1, bl_1_1_3, bl_5_7, bl_3_9, bl_3_2, BitVec.extractLsb'_eq_self, Nat.reduceSub, h]
  rfl

theorem sendr (a : Reg) (b : Reg) (k : BitVec 8) : Statement (.sendr a b k) := by
  intro wf _ rest
  refine (decode_w32 (rForm (k ++ 1#2) b a 0 0x28) rest (len_rForm ..)).trans ?_
  rw [major_28 _ (fMajor_rForm ..)]
  have h : userClass k = true := wf
  simp (disch := decide) only [decMsg, need, fRd_rForm, fRs1_rForm, fRs2_rForm, fFn_rForm, top_rForm, bit_rForm, hi_5_5, hi_1_4, hi_8_2, hi_4_3, hi_4_3_3, hi_5_1, hi_5_1_4, hi_6_4, hi_3_12, hi_7_2, hi_7_2_6, hi_1_14, hi_2_3, hi_2_2, hi_2_2_1, hi_4_1, hi_1_2, hi_1_2_2, hi_1_1, hi_1_1_3, hi_5_7, hi_3_9, hi_3_2, lo_5_5, lo_1_4, lo_8_2, lo_4_3, lo_4_3_3, lo_5_1, lo_5_1_4, lo_6_4, lo_3_12, lo_7_2, lo_7_2_6, lo_1_14, lo_2_3, lo_2_2, lo_2_2_1, lo_4_1, lo_1_2, lo_1_2_2, lo_1_1, lo_1_1_3, lo_5_7, lo_3_9, lo_3_2, bh_5_5, bh_1_4, bh_8_2, bh_4_3, bh_4_3_3, bh_5_1, bh_5_1_4, bh_6_4, bh_3_12, bh_7_2, bh_7_2_6, bh_1_14, bh_2_3, bh_2_2, bh_2_2_1, bh_4_1, bh_1_2, bh_1_2_2, bh_1_1, bh_1_1_3, bh_5_7, bh_3_9, bh_3_2, bl_5_5, bl_1_4, bl_8_2, bl_4_3, bl_4_3_3, bl_5_1, bl_5_1_4, bl_6_4, bl_3_12, bl_7_2, bl_7_2_6, bl_1_14, bl_2_3, bl_2_2, bl_2_2_1, bl_4_1, bl_1_2, bl_1_2_2, bl_1_1, bl_1_1_3, bl_5_7, bl_3_9, bl_3_2, BitVec.extractLsb'_eq_self, Nat.reduceSub, h]
  rfl

theorem spawn (d : Reg) (a : Reg) (k : BitVec 8) : Statement (.spawn d a k) := by
  intro wf _ rest
  refine (decode_w32 (rForm (k ++ 2#2) 0 a d 0x28) rest (len_rForm ..)).trans ?_
  rw [major_28 _ (fMajor_rForm ..)]
  have h : userClass k = true := wf
  simp (disch := decide) only [decMsg, need, fRd_rForm, fRs1_rForm, fRs2_rForm, fFn_rForm, top_rForm, bit_rForm, hi_5_5, hi_1_4, hi_8_2, hi_4_3, hi_4_3_3, hi_5_1, hi_5_1_4, hi_6_4, hi_3_12, hi_7_2, hi_7_2_6, hi_1_14, hi_2_3, hi_2_2, hi_2_2_1, hi_4_1, hi_1_2, hi_1_2_2, hi_1_1, hi_1_1_3, hi_5_7, hi_3_9, hi_3_2, lo_5_5, lo_1_4, lo_8_2, lo_4_3, lo_4_3_3, lo_5_1, lo_5_1_4, lo_6_4, lo_3_12, lo_7_2, lo_7_2_6, lo_1_14, lo_2_3, lo_2_2, lo_2_2_1, lo_4_1, lo_1_2, lo_1_2_2, lo_1_1, lo_1_1_3, lo_5_7, lo_3_9, lo_3_2, bh_5_5, bh_1_4, bh_8_2, bh_4_3, bh_4_3_3, bh_5_1, bh_5_1_4, bh_6_4, bh_3_12, bh_7_2, bh_7_2_6, bh_1_14, bh_2_3, bh_2_2, bh_2_2_1, bh_4_1, bh_1_2, bh_1_2_2, bh_1_1, bh_1_1_3, bh_5_7, bh_3_9, bh_3_2, bl_5_5, bl_1_4, bl_8_2, bl_4_3, bl_4_3_3, bl_5_1, bl_5_1_4, bl_6_4, bl_3_12, bl_7_2, bl_7_2_6, bl_1_14, bl_2_3, bl_2_2, bl_2_2_1, bl_4_1, bl_1_2, bl_1_2_2, bl_1_1, bl_1_1_3, bl_5_7, bl_3_9, bl_3_2, BitVec.extractLsb'_eq_self, Nat.reduceSub, h]
  rfl

theorem join (d : Reg) (a : Reg) (b : Reg) : Statement (.join d a b) := by
  intro wf _ rest
  refine (decode_w32 (rForm (0#8 ++ 3#2) b a d 0x28) rest (len_rForm ..)).trans ?_
  rw [major_28 _ (fMajor_rForm ..)]
  simp (disch := decide) only [decMsg, need, fRd_rForm, fRs1_rForm, fRs2_rForm, fFn_rForm, top_rForm, bit_rForm, hi_5_5, hi_1_4, hi_8_2, hi_4_3, hi_4_3_3, hi_5_1, hi_5_1_4, hi_6_4, hi_3_12, hi_7_2, hi_7_2_6, hi_1_14, hi_2_3, hi_2_2, hi_2_2_1, hi_4_1, hi_1_2, hi_1_2_2, hi_1_1, hi_1_1_3, hi_5_7, hi_3_9, hi_3_2, lo_5_5, lo_1_4, lo_8_2, lo_4_3, lo_4_3_3, lo_5_1, lo_5_1_4, lo_6_4, lo_3_12, lo_7_2, lo_7_2_6, lo_1_14, lo_2_3, lo_2_2, lo_2_2_1, lo_4_1, lo_1_2, lo_1_2_2, lo_1_1, lo_1_1_3, lo_5_7, lo_3_9, lo_3_2, bh_5_5, bh_1_4, bh_8_2, bh_4_3, bh_4_3_3, bh_5_1, bh_5_1_4, bh_6_4, bh_3_12, bh_7_2, bh_7_2_6, bh_1_14, bh_2_3, bh_2_2, bh_2_2_1, bh_4_1, bh_1_2, bh_1_2_2, bh_1_1, bh_1_1_3, bh_5_7, bh_3_9, bh_3_2, bl_5_5, bl_1_4, bl_8_2, bl_4_3, bl_4_3_3, bl_5_1, bl_5_1_4, bl_6_4, bl_3_12, bl_7_2, bl_7_2_6, bl_1_14, bl_2_3, bl_2_2, bl_2_2_1, bl_4_1, bl_1_2, bl_1_2_2, bl_1_1, bl_1_1_3, bl_5_7, bl_3_9, bl_3_2, BitVec.extractLsb'_eq_self, Nat.reduceSub]
  rfl

theorem bind (d : Reg) (a : Reg) (b : Reg) : Statement (.bind d a b) := by
  intro wf _ rest
  refine (decode_w32 (rForm (1#8 ++ 3#2) b a d 0x28) rest (len_rForm ..)).trans ?_
  rw [major_28 _ (fMajor_rForm ..)]
  simp (disch := decide) only [decMsg, need, fRd_rForm, fRs1_rForm, fRs2_rForm, fFn_rForm, top_rForm, bit_rForm, hi_5_5, hi_1_4, hi_8_2, hi_4_3, hi_4_3_3, hi_5_1, hi_5_1_4, hi_6_4, hi_3_12, hi_7_2, hi_7_2_6, hi_1_14, hi_2_3, hi_2_2, hi_2_2_1, hi_4_1, hi_1_2, hi_1_2_2, hi_1_1, hi_1_1_3, hi_5_7, hi_3_9, hi_3_2, lo_5_5, lo_1_4, lo_8_2, lo_4_3, lo_4_3_3, lo_5_1, lo_5_1_4, lo_6_4, lo_3_12, lo_7_2, lo_7_2_6, lo_1_14, lo_2_3, lo_2_2, lo_2_2_1, lo_4_1, lo_1_2, lo_1_2_2, lo_1_1, lo_1_1_3, lo_5_7, lo_3_9, lo_3_2, bh_5_5, bh_1_4, bh_8_2, bh_4_3, bh_4_3_3, bh_5_1, bh_5_1_4, bh_6_4, bh_3_12, bh_7_2, bh_7_2_6, bh_1_14, bh_2_3, bh_2_2, bh_2_2_1, bh_4_1, bh_1_2, bh_1_2_2, bh_1_1, bh_1_1_3, bh_5_7, bh_3_9, bh_3_2, bl_5_5, bl_1_4, bl_8_2, bl_4_3, bl_4_3_3, bl_5_1, bl_5_1_4, bl_6_4, bl_3_12, bl_7_2, bl_7_2_6, bl_1_14, bl_2_3, bl_2_2, bl_2_2_1, bl_4_1, bl_1_2, bl_1_2_2, bl_1_1, bl_1_1_3, bl_5_7, bl_3_9, bl_3_2, BitVec.extractLsb'_eq_self, Nat.reduceSub]
  rfl

theorem unbind (d : Reg) (a : Reg) : Statement (.unbind d a) := by
  intro wf _ rest
  refine (decode_w32 (rForm (2#8 ++ 3#2) 0 a d 0x28) rest (len_rForm ..)).trans ?_
  rw [major_28 _ (fMajor_rForm ..)]
  simp (disch := decide) only [decMsg, need, fRd_rForm, fRs1_rForm, fRs2_rForm, fFn_rForm, top_rForm, bit_rForm, hi_5_5, hi_1_4, hi_8_2, hi_4_3, hi_4_3_3, hi_5_1, hi_5_1_4, hi_6_4, hi_3_12, hi_7_2, hi_7_2_6, hi_1_14, hi_2_3, hi_2_2, hi_2_2_1, hi_4_1, hi_1_2, hi_1_2_2, hi_1_1, hi_1_1_3, hi_5_7, hi_3_9, hi_3_2, lo_5_5, lo_1_4, lo_8_2, lo_4_3, lo_4_3_3, lo_5_1, lo_5_1_4, lo_6_4, lo_3_12, lo_7_2, lo_7_2_6, lo_1_14, lo_2_3, lo_2_2, lo_2_2_1, lo_4_1, lo_1_2, lo_1_2_2, lo_1_1, lo_1_1_3, lo_5_7, lo_3_9, lo_3_2, bh_5_5, bh_1_4, bh_8_2, bh_4_3, bh_4_3_3, bh_5_1, bh_5_1_4, bh_6_4, bh_3_12, bh_7_2, bh_7_2_6, bh_1_14, bh_2_3, bh_2_2, bh_2_2_1, bh_4_1, bh_1_2, bh_1_2_2, bh_1_1, bh_1_1_3, bh_5_7, bh_3_9, bh_3_2, bl_5_5, bl_1_4, bl_8_2, bl_4_3, bl_4_3_3, bl_5_1, bl_5_1_4, bl_6_4, bl_3_12, bl_7_2, bl_7_2_6, bl_1_14, bl_2_3, bl_2_2, bl_2_2_1, bl_4_1, bl_1_2, bl_1_2_2, bl_1_1, bl_1_1_3, bl_5_7, bl_3_9, bl_3_2, BitVec.extractLsb'_eq_self, Nat.reduceSub]
  rfl

theorem reside (d : Reg) (a : Reg) (b : Reg) : Statement (.reside d a b) := by
  intro wf _ rest
  refine (decode_w32 (rForm (3#8 ++ 3#2) b a d 0x28) rest (len_rForm ..)).trans ?_
  rw [major_28 _ (fMajor_rForm ..)]
  simp (disch := decide) only [decMsg, need, fRd_rForm, fRs1_rForm, fRs2_rForm, fFn_rForm, top_rForm, bit_rForm, hi_5_5, hi_1_4, hi_8_2, hi_4_3, hi_4_3_3, hi_5_1, hi_5_1_4, hi_6_4, hi_3_12, hi_7_2, hi_7_2_6, hi_1_14, hi_2_3, hi_2_2, hi_2_2_1, hi_4_1, hi_1_2, hi_1_2_2, hi_1_1, hi_1_1_3, hi_5_7, hi_3_9, hi_3_2, lo_5_5, lo_1_4, lo_8_2, lo_4_3, lo_4_3_3, lo_5_1, lo_5_1_4, lo_6_4, lo_3_12, lo_7_2, lo_7_2_6, lo_1_14, lo_2_3, lo_2_2, lo_2_2_1, lo_4_1, lo_1_2, lo_1_2_2, lo_1_1, lo_1_1_3, lo_5_7, lo_3_9, lo_3_2, bh_5_5, bh_1_4, bh_8_2, bh_4_3, bh_4_3_3, bh_5_1, bh_5_1_4, bh_6_4, bh_3_12, bh_7_2, bh_7_2_6, bh_1_14, bh_2_3, bh_2_2, bh_2_2_1, bh_4_1, bh_1_2, bh_1_2_2, bh_1_1, bh_1_1_3, bh_5_7, bh_3_9, bh_3_2, bl_5_5, bl_1_4, bl_8_2, bl_4_3, bl_4_3_3, bl_5_1, bl_5_1_4, bl_6_4, bl_3_12, bl_7_2, bl_7_2_6, bl_1_14, bl_2_3, bl_2_2, bl_2_2_1, bl_4_1, bl_1_2, bl_1_2_2, bl_1_1, bl_1_1_3, bl_5_7, bl_3_9, bl_3_2, BitVec.extractLsb'_eq_self, Nat.reduceSub]
  rfl

theorem rule (d : Reg) (a : Reg) (b : Reg) : Statement (.rule d a b) := by
  intro wf _ rest
  refine (decode_w32 (rForm (4#8 ++ 3#2) b a d 0x28) rest (len_rForm ..)).trans ?_
  rw [major_28 _ (fMajor_rForm ..)]
  simp (disch := decide) only [decMsg, need, fRd_rForm, fRs1_rForm, fRs2_rForm, fFn_rForm, top_rForm, bit_rForm, hi_5_5, hi_1_4, hi_8_2, hi_4_3, hi_4_3_3, hi_5_1, hi_5_1_4, hi_6_4, hi_3_12, hi_7_2, hi_7_2_6, hi_1_14, hi_2_3, hi_2_2, hi_2_2_1, hi_4_1, hi_1_2, hi_1_2_2, hi_1_1, hi_1_1_3, hi_5_7, hi_3_9, hi_3_2, lo_5_5, lo_1_4, lo_8_2, lo_4_3, lo_4_3_3, lo_5_1, lo_5_1_4, lo_6_4, lo_3_12, lo_7_2, lo_7_2_6, lo_1_14, lo_2_3, lo_2_2, lo_2_2_1, lo_4_1, lo_1_2, lo_1_2_2, lo_1_1, lo_1_1_3, lo_5_7, lo_3_9, lo_3_2, bh_5_5, bh_1_4, bh_8_2, bh_4_3, bh_4_3_3, bh_5_1, bh_5_1_4, bh_6_4, bh_3_12, bh_7_2, bh_7_2_6, bh_1_14, bh_2_3, bh_2_2, bh_2_2_1, bh_4_1, bh_1_2, bh_1_2_2, bh_1_1, bh_1_1_3, bh_5_7, bh_3_9, bh_3_2, bl_5_5, bl_1_4, bl_8_2, bl_4_3, bl_4_3_3, bl_5_1, bl_5_1_4, bl_6_4, bl_3_12, bl_7_2, bl_7_2_6, bl_1_14, bl_2_3, bl_2_2, bl_2_2_1, bl_4_1, bl_1_2, bl_1_2_2, bl_1_1, bl_1_1_3, bl_5_7, bl_3_9, bl_3_2, BitVec.extractLsb'_eq_self, Nat.reduceSub]
  rfl

theorem codeld (d : Reg) (a : Reg) (b : Reg) : Statement (.codeld d a b) := by
  intro wf _ rest
  refine (decode_w32 (rForm (5#8 ++ 3#2) b a d 0x28) rest (len_rForm ..)).trans ?_
  rw [major_28 _ (fMajor_rForm ..)]
  simp (disch := decide) only [decMsg, need, fRd_rForm, fRs1_rForm, fRs2_rForm, fFn_rForm, top_rForm, bit_rForm, hi_5_5, hi_1_4, hi_8_2, hi_4_3, hi_4_3_3, hi_5_1, hi_5_1_4, hi_6_4, hi_3_12, hi_7_2, hi_7_2_6, hi_1_14, hi_2_3, hi_2_2, hi_2_2_1, hi_4_1, hi_1_2, hi_1_2_2, hi_1_1, hi_1_1_3, hi_5_7, hi_3_9, hi_3_2, lo_5_5, lo_1_4, lo_8_2, lo_4_3, lo_4_3_3, lo_5_1, lo_5_1_4, lo_6_4, lo_3_12, lo_7_2, lo_7_2_6, lo_1_14, lo_2_3, lo_2_2, lo_2_2_1, lo_4_1, lo_1_2, lo_1_2_2, lo_1_1, lo_1_1_3, lo_5_7, lo_3_9, lo_3_2, bh_5_5, bh_1_4, bh_8_2, bh_4_3, bh_4_3_3, bh_5_1, bh_5_1_4, bh_6_4, bh_3_12, bh_7_2, bh_7_2_6, bh_1_14, bh_2_3, bh_2_2, bh_2_2_1, bh_4_1, bh_1_2, bh_1_2_2, bh_1_1, bh_1_1_3, bh_5_7, bh_3_9, bh_3_2, bl_5_5, bl_1_4, bl_8_2, bl_4_3, bl_4_3_3, bl_5_1, bl_5_1_4, bl_6_4, bl_3_12, bl_7_2, bl_7_2_6, bl_1_14, bl_2_3, bl_2_2, bl_2_2_1, bl_4_1, bl_1_2, bl_1_2_2, bl_1_1, bl_1_1_3, bl_5_7, bl_3_9, bl_3_2, BitVec.extractLsb'_eq_self, Nat.reduceSub]
  rfl

theorem rdcyc (d : Reg) : Statement (.rdcyc d) := by
  intro wf _ rest
  refine (decode_w32 (rForm 0 0 0 d 0x29) rest (len_rForm ..)).trans ?_
  rw [major_29 _ (fMajor_rForm ..)]
  simp (disch := decide) only [decTime, need, fRd_rForm, fRs1_rForm, fRs2_rForm, fFn_rForm, top_rForm, bit_rForm, BitVec.extractLsb'_eq_self, Nat.reduceSub]
  rfl

theorem rdwall (d : Reg) : Statement (.rdwall d) := by
  intro wf _ rest
  refine (decode_w32 (rForm 1 0 0 d 0x29) rest (len_rForm ..)).trans ?_
  rw [major_29 _ (fMajor_rForm ..)]
  simp (disch := decide) only [decTime, need, fRd_rForm, fRs1_rForm, fRs2_rForm, fFn_rForm, top_rForm, bit_rForm, BitVec.extractLsb'_eq_self, Nat.reduceSub]
  rfl

theorem alc (s : BitVec 1) (a : Reg) : Statement (.alc s a) := by
  intro wf _ rest
  refine (decode_w32 (rForm (0#5 ++ s ++ 2#4) 0 a 0 0x29) rest (len_rForm ..)).trans ?_
  rw [major_29 _ (fMajor_rForm ..)]
  simp (disch := decide) only [decTime, need, fRd_rForm, fRs1_rForm, fRs2_rForm, fFn_rForm, top_rForm, bit_rForm, hi_5_5, hi_1_4, hi_8_2, hi_4_3, hi_4_3_3, hi_5_1, hi_5_1_4, hi_6_4, hi_3_12, hi_7_2, hi_7_2_6, hi_1_14, hi_2_3, hi_2_2, hi_2_2_1, hi_4_1, hi_1_2, hi_1_2_2, hi_1_1, hi_1_1_3, hi_5_7, hi_3_9, hi_3_2, lo_5_5, lo_1_4, lo_8_2, lo_4_3, lo_4_3_3, lo_5_1, lo_5_1_4, lo_6_4, lo_3_12, lo_7_2, lo_7_2_6, lo_1_14, lo_2_3, lo_2_2, lo_2_2_1, lo_4_1, lo_1_2, lo_1_2_2, lo_1_1, lo_1_1_3, lo_5_7, lo_3_9, lo_3_2, bh_5_5, bh_1_4, bh_8_2, bh_4_3, bh_4_3_3, bh_5_1, bh_5_1_4, bh_6_4, bh_3_12, bh_7_2, bh_7_2_6, bh_1_14, bh_2_3, bh_2_2, bh_2_2_1, bh_4_1, bh_1_2, bh_1_2_2, bh_1_1, bh_1_1_3, bh_5_7, bh_3_9, bh_3_2, bl_5_5, bl_1_4, bl_8_2, bl_4_3, bl_4_3_3, bl_5_1, bl_5_1_4, bl_6_4, bl_3_12, bl_7_2, bl_7_2_6, bl_1_14, bl_2_3, bl_2_2, bl_2_2_1, bl_4_1, bl_1_2, bl_1_2_2, bl_1_1, bl_1_1_3, bl_5_7, bl_3_9, bl_3_2, BitVec.extractLsb'_eq_self, Nat.reduceSub]
  rfl

theorem alw (s : BitVec 1) (a : Reg) : Statement (.alw s a) := by
  intro wf _ rest
  refine (decode_w32 (rForm (0#5 ++ s ++ 3#4) 0 a 0 0x29) rest (len_rForm ..)).trans ?_
  rw [major_29 _ (fMajor_rForm ..)]
  simp (disch := decide) only [decTime, need, fRd_rForm, fRs1_rForm, fRs2_rForm, fFn_rForm, top_rForm, bit_rForm, hi_5_5, hi_1_4, hi_8_2, hi_4_3, hi_4_3_3, hi_5_1, hi_5_1_4, hi_6_4, hi_3_12, hi_7_2, hi_7_2_6, hi_1_14, hi_2_3, hi_2_2, hi_2_2_1, hi_4_1, hi_1_2, hi_1_2_2, hi_1_1, hi_1_1_3, hi_5_7, hi_3_9, hi_3_2, lo_5_5, lo_1_4, lo_8_2, lo_4_3, lo_4_3_3, lo_5_1, lo_5_1_4, lo_6_4, lo_3_12, lo_7_2, lo_7_2_6, lo_1_14, lo_2_3, lo_2_2, lo_2_2_1, lo_4_1, lo_1_2, lo_1_2_2, lo_1_1, lo_1_1_3, lo_5_7, lo_3_9, lo_3_2, bh_5_5, bh_1_4, bh_8_2, bh_4_3, bh_4_3_3, bh_5_1, bh_5_1_4, bh_6_4, bh_3_12, bh_7_2, bh_7_2_6, bh_1_14, bh_2_3, bh_2_2, bh_2_2_1, bh_4_1, bh_1_2, bh_1_2_2, bh_1_1, bh_1_1_3, bh_5_7, bh_3_9, bh_3_2, bl_5_5, bl_1_4, bl_8_2, bl_4_3, bl_4_3_3, bl_5_1, bl_5_1_4, bl_6_4, bl_3_12, bl_7_2, bl_7_2_6, bl_1_14, bl_2_3, bl_2_2, bl_2_2_1, bl_4_1, bl_1_2, bl_1_2_2, bl_1_1, bl_1_1_3, bl_5_7, bl_3_9, bl_3_2, BitVec.extractLsb'_eq_self, Nat.reduceSub]
  rfl

theorem alx (s : BitVec 1) : Statement (.alx s) := by
  intro wf _ rest
  refine (decode_w32 (rForm (0#5 ++ s ++ 4#4) 0 0 0 0x29) rest (len_rForm ..)).trans ?_
  rw [major_29 _ (fMajor_rForm ..)]
  simp (disch := decide) only [decTime, need, fRd_rForm, fRs1_rForm, fRs2_rForm, fFn_rForm, top_rForm, bit_rForm, hi_5_5, hi_1_4, hi_8_2, hi_4_3, hi_4_3_3, hi_5_1, hi_5_1_4, hi_6_4, hi_3_12, hi_7_2, hi_7_2_6, hi_1_14, hi_2_3, hi_2_2, hi_2_2_1, hi_4_1, hi_1_2, hi_1_2_2, hi_1_1, hi_1_1_3, hi_5_7, hi_3_9, hi_3_2, lo_5_5, lo_1_4, lo_8_2, lo_4_3, lo_4_3_3, lo_5_1, lo_5_1_4, lo_6_4, lo_3_12, lo_7_2, lo_7_2_6, lo_1_14, lo_2_3, lo_2_2, lo_2_2_1, lo_4_1, lo_1_2, lo_1_2_2, lo_1_1, lo_1_1_3, lo_5_7, lo_3_9, lo_3_2, bh_5_5, bh_1_4, bh_8_2, bh_4_3, bh_4_3_3, bh_5_1, bh_5_1_4, bh_6_4, bh_3_12, bh_7_2, bh_7_2_6, bh_1_14, bh_2_3, bh_2_2, bh_2_2_1, bh_4_1, bh_1_2, bh_1_2_2, bh_1_1, bh_1_1_3, bh_5_7, bh_3_9, bh_3_2, bl_5_5, bl_1_4, bl_8_2, bl_4_3, bl_4_3_3, bl_5_1, bl_5_1_4, bl_6_4, bl_3_12, bl_7_2, bl_7_2_6, bl_1_14, bl_2_3, bl_2_2, bl_2_2_1, bl_4_1, bl_1_2, bl_1_2_2, bl_1_1, bl_1_1_3, bl_5_7, bl_3_9, bl_3_2, BitVec.extractLsb'_eq_self, Nat.reduceSub]
  rfl

theorem dlarm (a : Reg) : Statement (.dlarm a) := by
  intro wf _ rest
  refine (decode_w32 (rForm 5 0 a 0 0x29) rest (len_rForm ..)).trans ?_
  rw [major_29 _ (fMajor_rForm ..)]
  simp (disch := decide) only [decTime, need, fRd_rForm, fRs1_rForm, fRs2_rForm, fFn_rForm, top_rForm, bit_rForm, BitVec.extractLsb'_eq_self, Nat.reduceSub]
  rfl

theorem dlclr : Statement .dlclr := by
  intro wf _ rest
  refine (decode_w32 (rForm 6 0 0 0 0x29) rest (len_rForm ..)).trans ?_
  rw [major_29 _ (fMajor_rForm ..)]
  simp (disch := decide) only [decTime, need, fRd_rForm, fRs1_rForm, fRs2_rForm, fFn_rForm, top_rForm, bit_rForm, BitVec.extractLsb'_eq_self, Nat.reduceSub]
  rfl

theorem crr (d : Reg) (n : BitVec 12) : Statement (.crr d n) := by
  intro wf _ rest
  refine (decode_w32 (iForm (0#3 ++ n) 0 d 0x2A) rest (len_iForm ..)).trans ?_
  rw [major_2A _ (fMajor_iForm ..)]
  have h : ctlAllocated n.toNat = true := wf
  simp (disch := decide) only [decCtl, need, fRd_iForm, fRs1_iForm, fImm15_iForm, top_iForm, bit_iForm, hi_5_5, hi_1_4, hi_8_2, hi_4_3, hi_4_3_3, hi_5_1, hi_5_1_4, hi_6_4, hi_3_12, hi_7_2, hi_7_2_6, hi_1_14, hi_2_3, hi_2_2, hi_2_2_1, hi_4_1, hi_1_2, hi_1_2_2, hi_1_1, hi_1_1_3, hi_5_7, hi_3_9, hi_3_2, lo_5_5, lo_1_4, lo_8_2, lo_4_3, lo_4_3_3, lo_5_1, lo_5_1_4, lo_6_4, lo_3_12, lo_7_2, lo_7_2_6, lo_1_14, lo_2_3, lo_2_2, lo_2_2_1, lo_4_1, lo_1_2, lo_1_2_2, lo_1_1, lo_1_1_3, lo_5_7, lo_3_9, lo_3_2, bh_5_5, bh_1_4, bh_8_2, bh_4_3, bh_4_3_3, bh_5_1, bh_5_1_4, bh_6_4, bh_3_12, bh_7_2, bh_7_2_6, bh_1_14, bh_2_3, bh_2_2, bh_2_2_1, bh_4_1, bh_1_2, bh_1_2_2, bh_1_1, bh_1_1_3, bh_5_7, bh_3_9, bh_3_2, bl_5_5, bl_1_4, bl_8_2, bl_4_3, bl_4_3_3, bl_5_1, bl_5_1_4, bl_6_4, bl_3_12, bl_7_2, bl_7_2_6, bl_1_14, bl_2_3, bl_2_2, bl_2_2_1, bl_4_1, bl_1_2, bl_1_2_2, bl_1_1, bl_1_1_3, bl_5_7, bl_3_9, bl_3_2, BitVec.extractLsb'_eq_self, Nat.reduceSub, h]
  rfl

theorem crw (n : BitVec 12) (a : Reg) : Statement (.crw n a) := by
  intro wf _ rest
  refine (decode_w32 (iForm (1#3 ++ n) a 0 0x2A) rest (len_iForm ..)).trans ?_
  rw [major_2A _ (fMajor_iForm ..)]
  have h : ctlAllocated n.toNat = true := wf
  simp (disch := decide) only [decCtl, need, fRd_iForm, fRs1_iForm, fImm15_iForm, top_iForm, bit_iForm, hi_5_5, hi_1_4, hi_8_2, hi_4_3, hi_4_3_3, hi_5_1, hi_5_1_4, hi_6_4, hi_3_12, hi_7_2, hi_7_2_6, hi_1_14, hi_2_3, hi_2_2, hi_2_2_1, hi_4_1, hi_1_2, hi_1_2_2, hi_1_1, hi_1_1_3, hi_5_7, hi_3_9, hi_3_2, lo_5_5, lo_1_4, lo_8_2, lo_4_3, lo_4_3_3, lo_5_1, lo_5_1_4, lo_6_4, lo_3_12, lo_7_2, lo_7_2_6, lo_1_14, lo_2_3, lo_2_2, lo_2_2_1, lo_4_1, lo_1_2, lo_1_2_2, lo_1_1, lo_1_1_3, lo_5_7, lo_3_9, lo_3_2, bh_5_5, bh_1_4, bh_8_2, bh_4_3, bh_4_3_3, bh_5_1, bh_5_1_4, bh_6_4, bh_3_12, bh_7_2, bh_7_2_6, bh_1_14, bh_2_3, bh_2_2, bh_2_2_1, bh_4_1, bh_1_2, bh_1_2_2, bh_1_1, bh_1_1_3, bh_5_7, bh_3_9, bh_3_2, bl_5_5, bl_1_4, bl_8_2, bl_4_3, bl_4_3_3, bl_5_1, bl_5_1_4, bl_6_4, bl_3_12, bl_7_2, bl_7_2_6, bl_1_14, bl_2_3, bl_2_2, bl_2_2_1, bl_4_1, bl_1_2, bl_1_2_2, bl_1_1, bl_1_1_3, bl_5_7, bl_3_9, bl_3_2, BitVec.extractLsb'_eq_self, Nat.reduceSub, h]
  rfl

theorem crs (d : Reg) (n : BitVec 12) (a : Reg) : Statement (.crs d n a) := by
  intro wf _ rest
  refine (decode_w32 (iForm (2#3 ++ n) a d 0x2A) rest (len_iForm ..)).trans ?_
  rw [major_2A _ (fMajor_iForm ..)]
  have h : ctlAllocated n.toNat = true := wf
  simp (disch := decide) only [decCtl, need, fRd_iForm, fRs1_iForm, fImm15_iForm, top_iForm, bit_iForm, hi_5_5, hi_1_4, hi_8_2, hi_4_3, hi_4_3_3, hi_5_1, hi_5_1_4, hi_6_4, hi_3_12, hi_7_2, hi_7_2_6, hi_1_14, hi_2_3, hi_2_2, hi_2_2_1, hi_4_1, hi_1_2, hi_1_2_2, hi_1_1, hi_1_1_3, hi_5_7, hi_3_9, hi_3_2, lo_5_5, lo_1_4, lo_8_2, lo_4_3, lo_4_3_3, lo_5_1, lo_5_1_4, lo_6_4, lo_3_12, lo_7_2, lo_7_2_6, lo_1_14, lo_2_3, lo_2_2, lo_2_2_1, lo_4_1, lo_1_2, lo_1_2_2, lo_1_1, lo_1_1_3, lo_5_7, lo_3_9, lo_3_2, bh_5_5, bh_1_4, bh_8_2, bh_4_3, bh_4_3_3, bh_5_1, bh_5_1_4, bh_6_4, bh_3_12, bh_7_2, bh_7_2_6, bh_1_14, bh_2_3, bh_2_2, bh_2_2_1, bh_4_1, bh_1_2, bh_1_2_2, bh_1_1, bh_1_1_3, bh_5_7, bh_3_9, bh_3_2, bl_5_5, bl_1_4, bl_8_2, bl_4_3, bl_4_3_3, bl_5_1, bl_5_1_4, bl_6_4, bl_3_12, bl_7_2, bl_7_2_6, bl_1_14, bl_2_3, bl_2_2, bl_2_2_1, bl_4_1, bl_1_2, bl_1_2_2, bl_1_1, bl_1_1_3, bl_5_7, bl_3_9, bl_3_2, BitVec.extractLsb'_eq_self, Nat.reduceSub, h]
  rfl

theorem crc (d : Reg) (n : BitVec 12) (a : Reg) : Statement (.crc d n a) := by
  intro wf _ rest
  refine (decode_w32 (iForm (3#3 ++ n) a d 0x2A) rest (len_iForm ..)).trans ?_
  rw [major_2A _ (fMajor_iForm ..)]
  have h : ctlAllocated n.toNat = true := wf
  simp (disch := decide) only [decCtl, need, fRd_iForm, fRs1_iForm, fImm15_iForm, top_iForm, bit_iForm, hi_5_5, hi_1_4, hi_8_2, hi_4_3, hi_4_3_3, hi_5_1, hi_5_1_4, hi_6_4, hi_3_12, hi_7_2, hi_7_2_6, hi_1_14, hi_2_3, hi_2_2, hi_2_2_1, hi_4_1, hi_1_2, hi_1_2_2, hi_1_1, hi_1_1_3, hi_5_7, hi_3_9, hi_3_2, lo_5_5, lo_1_4, lo_8_2, lo_4_3, lo_4_3_3, lo_5_1, lo_5_1_4, lo_6_4, lo_3_12, lo_7_2, lo_7_2_6, lo_1_14, lo_2_3, lo_2_2, lo_2_2_1, lo_4_1, lo_1_2, lo_1_2_2, lo_1_1, lo_1_1_3, lo_5_7, lo_3_9, lo_3_2, bh_5_5, bh_1_4, bh_8_2, bh_4_3, bh_4_3_3, bh_5_1, bh_5_1_4, bh_6_4, bh_3_12, bh_7_2, bh_7_2_6, bh_1_14, bh_2_3, bh_2_2, bh_2_2_1, bh_4_1, bh_1_2, bh_1_2_2, bh_1_1, bh_1_1_3, bh_5_7, bh_3_9, bh_3_2, bl_5_5, bl_1_4, bl_8_2, bl_4_3, bl_4_3_3, bl_5_1, bl_5_1_4, bl_6_4, bl_3_12, bl_7_2, bl_7_2_6, bl_1_14, bl_2_3, bl_2_2, bl_2_2_1, bl_4_1, bl_1_2, bl_1_2_2, bl_1_1, bl_1_1_3, bl_5_7, bl_3_9, bl_3_2, BitVec.extractLsb'_eq_self, Nat.reduceSub, h]
  rfl

theorem trap (i : BitVec 6) : Statement (.trap i) := by
  intro wf _ rest
  refine (decode_w32 (rForm (i ++ 0#4) 0 0 0 0x2B) rest (len_rForm ..)).trans ?_
  rw [major_2B _ (fMajor_rForm ..)]
  simp (disch := decide) only [decSys, need, fRd_rForm, fRs1_rForm, fRs2_rForm, fFn_rForm, top_rForm, bit_rForm, hi_5_5, hi_1_4, hi_8_2, hi_4_3, hi_4_3_3, hi_5_1, hi_5_1_4, hi_6_4, hi_3_12, hi_7_2, hi_7_2_6, hi_1_14, hi_2_3, hi_2_2, hi_2_2_1, hi_4_1, hi_1_2, hi_1_2_2, hi_1_1, hi_1_1_3, hi_5_7, hi_3_9, hi_3_2, lo_5_5, lo_1_4, lo_8_2, lo_4_3, lo_4_3_3, lo_5_1, lo_5_1_4, lo_6_4, lo_3_12, lo_7_2, lo_7_2_6, lo_1_14, lo_2_3, lo_2_2, lo_2_2_1, lo_4_1, lo_1_2, lo_1_2_2, lo_1_1, lo_1_1_3, lo_5_7, lo_3_9, lo_3_2, bh_5_5, bh_1_4, bh_8_2, bh_4_3, bh_4_3_3, bh_5_1, bh_5_1_4, bh_6_4, bh_3_12, bh_7_2, bh_7_2_6, bh_1_14, bh_2_3, bh_2_2, bh_2_2_1, bh_4_1, bh_1_2, bh_1_2_2, bh_1_1, bh_1_1_3, bh_5_7, bh_3_9, bh_3_2, bl_5_5, bl_1_4, bl_8_2, bl_4_3, bl_4_3_3, bl_5_1, bl_5_1_4, bl_6_4, bl_3_12, bl_7_2, bl_7_2_6, bl_1_14, bl_2_3, bl_2_2, bl_2_2_1, bl_4_1, bl_1_2, bl_1_2_2, bl_1_1, bl_1_1_3, bl_5_7, bl_3_9, bl_3_2, BitVec.extractLsb'_eq_self, Nat.reduceSub]
  rfl

theorem tret : Statement .tret := by
  intro wf _ rest
  refine (decode_w32 (rForm 1 0 0 0 0x2B) rest (len_rForm ..)).trans ?_
  rw [major_2B _ (fMajor_rForm ..)]
  simp (disch := decide) only [decSys, need, fRd_rForm, fRs1_rForm, fRs2_rForm, fFn_rForm, top_rForm, bit_rForm, BitVec.extractLsb'_eq_self, Nat.reduceSub]
  rfl

theorem brk (i : BitVec 6) : Statement (.brk i) := by
  intro wf _ rest
  refine (decode_w32 (rForm (i ++ 2#4) 0 0 0 0x2B) rest (len_rForm ..)).trans ?_
  rw [major_2B _ (fMajor_rForm ..)]
  simp (disch := decide) only [decSys, need, fRd_rForm, fRs1_rForm, fRs2_rForm, fFn_rForm, top_rForm, bit_rForm, hi_5_5, hi_1_4, hi_8_2, hi_4_3, hi_4_3_3, hi_5_1, hi_5_1_4, hi_6_4, hi_3_12, hi_7_2, hi_7_2_6, hi_1_14, hi_2_3, hi_2_2, hi_2_2_1, hi_4_1, hi_1_2, hi_1_2_2, hi_1_1, hi_1_1_3, hi_5_7, hi_3_9, hi_3_2, lo_5_5, lo_1_4, lo_8_2, lo_4_3, lo_4_3_3, lo_5_1, lo_5_1_4, lo_6_4, lo_3_12, lo_7_2, lo_7_2_6, lo_1_14, lo_2_3, lo_2_2, lo_2_2_1, lo_4_1, lo_1_2, lo_1_2_2, lo_1_1, lo_1_1_3, lo_5_7, lo_3_9, lo_3_2, bh_5_5, bh_1_4, bh_8_2, bh_4_3, bh_4_3_3, bh_5_1, bh_5_1_4, bh_6_4, bh_3_12, bh_7_2, bh_7_2_6, bh_1_14, bh_2_3, bh_2_2, bh_2_2_1, bh_4_1, bh_1_2, bh_1_2_2, bh_1_1, bh_1_1_3, bh_5_7, bh_3_9, bh_3_2, bl_5_5, bl_1_4, bl_8_2, bl_4_3, bl_4_3_3, bl_5_1, bl_5_1_4, bl_6_4, bl_3_12, bl_7_2, bl_7_2_6, bl_1_14, bl_2_3, bl_2_2, bl_2_2_1, bl_4_1, bl_1_2, bl_1_2_2, bl_1_1, bl_1_1_3, bl_5_7, bl_3_9, bl_3_2, BitVec.extractLsb'_eq_self, Nat.reduceSub]
  rfl

theorem taskDone : Statement .taskDone := by
  intro wf _ rest
  refine (decode_w32 (rForm 3 0 0 0 0x2B) rest (len_rForm ..)).trans ?_
  rw [major_2B _ (fMajor_rForm ..)]
  simp (disch := decide) only [decSys, need, fRd_rForm, fRs1_rForm, fRs2_rForm, fFn_rForm, top_rForm, bit_rForm, BitVec.extractLsb'_eq_self, Nat.reduceSub]
  rfl

theorem yieldCtx : Statement .yieldCtx := by
  intro wf _ rest
  refine (decode_w32 (rForm 4 0 0 0 0x2B) rest (len_rForm ..)).trans ?_
  rw [major_2B _ (fMajor_rForm ..)]
  simp (disch := decide) only [decSys, need, fRd_rForm, fRs1_rForm, fRs2_rForm, fFn_rForm, top_rForm, bit_rForm, BitVec.extractLsb'_eq_self, Nat.reduceSub]
  rfl

theorem tlbinv (a : Reg) (b : Reg) : Statement (.tlbinv a b) := by
  intro wf _ rest
  refine (decode_w32 (rForm 5 b a 0 0x2B) rest (len_rForm ..)).trans ?_
  rw [major_2B _ (fMajor_rForm ..)]
  simp (disch := decide) only [decSys, need, fRd_rForm, fRs1_rForm, fRs2_rForm, fFn_rForm, top_rForm, bit_rForm, BitVec.extractLsb'_eq_self, Nat.reduceSub]
  rfl

theorem pgmove (d : Reg) (a : Reg) (b : Reg) : Statement (.pgmove d a b) := by
  intro wf _ rest
  refine (decode_w32 (rForm 6 b a d 0x2B) rest (len_rForm ..)).trans ?_
  rw [major_2B _ (fMajor_rForm ..)]
  simp (disch := decide) only [decSys, need, fRd_rForm, fRs1_rForm, fRs2_rForm, fFn_rForm, top_rForm, bit_rForm, BitVec.extractLsb'_eq_self, Nat.reduceSub]
  rfl

theorem swapok (a : Reg) : Statement (.swapok a) := by
  intro wf _ rest
  refine (decode_w32 (rForm 7 0 a 0 0x2B) rest (len_rForm ..)).trans ?_
  rw [major_2B _ (fMajor_rForm ..)]
  simp (disch := decide) only [decSys, need, fRd_rForm, fRs1_rForm, fRs2_rForm, fFn_rForm, top_rForm, bit_rForm, BitVec.extractLsb'_eq_self, Nat.reduceSub]
  rfl

theorem dpoint (d : Reg) (a : Reg) : Statement (.dpoint d a) := by
  intro wf _ rest
  refine (decode_w32 (rForm 0 0 a d 0x2C) rest (len_rForm ..)).trans ?_
  rw [major_2C _ (fMajor_rForm ..)]
  simp (disch := decide) only [decReplay, need, fRd_rForm, fRs1_rForm, fRs2_rForm, fFn_rForm, top_rForm, bit_rForm, BitVec.extractLsb'_eq_self, Nat.reduceSub]
  rfl

theorem rddig (d : Reg) (a : Reg) : Statement (.rddig d a) := by
  intro wf _ rest
  refine (decode_w32 (rForm 1 0 a d 0x2C) rest (len_rForm ..)).trans ?_
  rw [major_2C _ (fMajor_rForm ..)]
  simp (disch := decide) only [decReplay, need, fRd_rForm, fRs1_rForm, fRs2_rForm, fFn_rForm, top_rForm, bit_rForm, BitVec.extractLsb'_eq_self, Nat.reduceSub]
  rfl

theorem hAddi (a : Reg) (i : BitVec 6) : Statement (.hAddi a i) := by
  intro wf _ rest
  refine (decode_w16 (hForm i a 0x0) rest (by first | rfl | (simp (disch := decide) only [hForm, habForm, bl_6_5_4_1, bl_1_5_5_4_1, bl_11_4_1]; rfl))).trans ?_
  have a0 : (a != 0) = true := wf
  simp (disch := decide) only [decode16, hForm, habForm, need, hi_6_5, hi_6_5_4, hi_6_5_4_1, hi_1_5, hi_1_5_5, hi_1_5_5_4, hi_1_5_5_4_1, hi_11_4, hi_11_4_1, lo_6_5, lo_6_5_4, lo_6_5_4_1, lo_1_5, lo_1_5_5, lo_1_5_5_4, lo_1_5_5_4_1, lo_11_4, lo_11_4_1, bh_6_5, bh_6_5_4, bh_6_5_4_1, bh_1_5, bh_1_5_5, bh_1_5_5_4, bh_1_5_5_4_1, bh_11_4, bh_11_4_1, bl_6_5, bl_6_5_4, bl_6_5_4_1, bl_1_5, bl_1_5_5, bl_1_5_5_4, bl_1_5_5_4_1, bl_11_4, bl_11_4_1, BitVec.extractLsb'_eq_self, Nat.reduceSub, a0, if_true]
  rfl

theorem hSeti (a : Reg) (i : BitVec 6) : Statement (.hSeti a i) := by
  intro wf _ rest
  refine (decode_w16 (hForm i a 0x1) rest (by first | rfl | (simp (disch := decide) only [hForm, habForm, bl_6_5_4_1, bl_1_5_5_4_1, bl_11_4_1]; rfl))).trans ?_
  have a0 : (a != 0) = true := wf
  simp (disch := decide) only [decode16, hForm, habForm, need, hi_6_5, hi_6_5_4, hi_6_5_4_1, hi_1_5, hi_1_5_5, hi_1_5_5_4, hi_1_5_5_4_1, hi_11_4, hi_11_4_1, lo_6_5, lo_6_5_4, lo_6_5_4_1, lo_1_5, lo_1_5_5, lo_1_5_5_4, lo_1_5_5_4_1, lo_11_4, lo_11_4_1, bh_6_5, bh_6_5_4, bh_6_5_4_1, bh_1_5, bh_1_5_5, bh_1_5_5_4, bh_1_5_5_4_1, bh_11_4, bh_11_4_1, bl_6_5, bl_6_5_4, bl_6_5_4_1, bl_1_5, bl_1_5_5, bl_1_5_5_4, bl_1_5_5_4_1, bl_11_4, bl_11_4_1, BitVec.extractLsb'_eq_self, Nat.reduceSub, a0, if_true]
  rfl

theorem hCopy (a : Reg) (b : Reg) : Statement (.hCopy a b) := by
  intro wf _ rest
  refine (decode_w16 (habForm 0 b a 0x2) rest (by first | rfl | (simp (disch := decide) only [hForm, habForm, bl_6_5_4_1, bl_1_5_5_4_1, bl_11_4_1]; rfl))).trans ?_
  have a0 : (a != 0) = true := wf
  simp (disch := decide) only [decode16, hForm, habForm, need, hi_6_5, hi_6_5_4, hi_6_5_4_1, hi_1_5, hi_1_5_5, hi_1_5_5_4, hi_1_5_5_4_1, hi_11_4, hi_11_4_1, lo_6_5, lo_6_5_4, lo_6_5_4_1, lo_1_5, lo_1_5_5, lo_1_5_5_4, lo_1_5_5_4_1, lo_11_4, lo_11_4_1, bh_6_5, bh_6_5_4, bh_6_5_4_1, bh_1_5, bh_1_5_5, bh_1_5_5_4, bh_1_5_5_4_1, bh_11_4, bh_11_4_1, bl_6_5, bl_6_5_4, bl_6_5_4_1, bl_1_5, bl_1_5_5, bl_1_5_5_4, bl_1_5_5_4_1, bl_11_4, bl_11_4_1, BitVec.extractLsb'_eq_self, Nat.reduceSub, a0, if_true]
  rfl

theorem hAdd (a : Reg) (b : Reg) : Statement (.hAdd a b) := by
  intro wf _ rest
  refine (decode_w16 (habForm 1 b a 0x2) rest (by first | rfl | (simp (disch := decide) only [hForm, habForm, bl_6_5_4_1, bl_1_5_5_4_1, bl_11_4_1]; rfl))).trans ?_
  have a0 : (a != 0) = true := wf
  simp (disch := decide) only [decode16, hForm, habForm, need, hi_6_5, hi_6_5_4, hi_6_5_4_1, hi_1_5, hi_1_5_5, hi_1_5_5_4, hi_1_5_5_4_1, hi_11_4, hi_11_4_1, lo_6_5, lo_6_5_4, lo_6_5_4_1, lo_1_5, lo_1_5_5, lo_1_5_5_4, lo_1_5_5_4_1, lo_11_4, lo_11_4_1, bh_6_5, bh_6_5_4, bh_6_5_4_1, bh_1_5, bh_1_5_5, bh_1_5_5_4, bh_1_5_5_4_1, bh_11_4, bh_11_4_1, bl_6_5, bl_6_5_4, bl_6_5_4_1, bl_1_5, bl_1_5_5, bl_1_5_5_4, bl_1_5_5_4_1, bl_11_4, bl_11_4_1, BitVec.extractLsb'_eq_self, Nat.reduceSub, a0, if_true]
  rfl

theorem hSub (a : Reg) (b : Reg) : Statement (.hSub a b) := by
  intro wf _ rest
  refine (decode_w16 (habForm 0 b a 0x3) rest (by first | rfl | (simp (disch := decide) only [hForm, habForm, bl_6_5_4_1, bl_1_5_5_4_1, bl_11_4_1]; rfl))).trans ?_
  have a0 : (a != 0) = true := wf
  simp (disch := decide) only [decode16, hForm, habForm, need, hi_6_5, hi_6_5_4, hi_6_5_4_1, hi_1_5, hi_1_5_5, hi_1_5_5_4, hi_1_5_5_4_1, hi_11_4, hi_11_4_1, lo_6_5, lo_6_5_4, lo_6_5_4_1, lo_1_5, lo_1_5_5, lo_1_5_5_4, lo_1_5_5_4_1, lo_11_4, lo_11_4_1, bh_6_5, bh_6_5_4, bh_6_5_4_1, bh_1_5, bh_1_5_5, bh_1_5_5_4, bh_1_5_5_4_1, bh_11_4, bh_11_4_1, bl_6_5, bl_6_5_4, bl_6_5_4_1, bl_1_5, bl_1_5_5, bl_1_5_5_4, bl_1_5_5_4_1, bl_11_4, bl_11_4_1, BitVec.extractLsb'_eq_self, Nat.reduceSub, a0, if_true]
  rfl

theorem hAnd (a : Reg) (b : Reg) : Statement (.hAnd a b) := by
  intro wf _ rest
  refine (decode_w16 (habForm 1 b a 0x3) rest (by first | rfl | (simp (disch := decide) only [hForm, habForm, bl_6_5_4_1, bl_1_5_5_4_1, bl_11_4_1]; rfl))).trans ?_
  have a0 : (a != 0) = true := wf
  simp (disch := decide) only [decode16, hForm, habForm, need, hi_6_5, hi_6_5_4, hi_6_5_4_1, hi_1_5, hi_1_5_5, hi_1_5_5_4, hi_1_5_5_4_1, hi_11_4, hi_11_4_1, lo_6_5, lo_6_5_4, lo_6_5_4_1, lo_1_5, lo_1_5_5, lo_1_5_5_4, lo_1_5_5_4_1, lo_11_4, lo_11_4_1, bh_6_5, bh_6_5_4, bh_6_5_4_1, bh_1_5, bh_1_5_5, bh_1_5_5_4, bh_1_5_5_4_1, bh_11_4, bh_11_4_1, bl_6_5, bl_6_5_4, bl_6_5_4_1, bl_1_5, bl_1_5_5, bl_1_5_5_4, bl_1_5_5_4_1, bl_11_4, bl_11_4_1, BitVec.extractLsb'_eq_self, Nat.reduceSub, a0, if_true]
  rfl

theorem hShl (a : Reg) (s : BitVec 6) : Statement (.hShl a s) := by
  intro wf _ rest
  refine (decode_w16 (hForm s a 0x4) rest (by first | rfl | (simp (disch := decide) only [hForm, habForm, bl_6_5_4_1, bl_1_5_5_4_1, bl_11_4_1]; rfl))).trans ?_
  have a0 : (a != 0) = true := wf
  simp (disch := decide) only [decode16, hForm, habForm, need, hi_6_5, hi_6_5_4, hi_6_5_4_1, hi_1_5, hi_1_5_5, hi_1_5_5_4, hi_1_5_5_4_1, hi_11_4, hi_11_4_1, lo_6_5, lo_6_5_4, lo_6_5_4_1, lo_1_5, lo_1_5_5, lo_1_5_5_4, lo_1_5_5_4_1, lo_11_4, lo_11_4_1, bh_6_5, bh_6_5_4, bh_6_5_4_1, bh_1_5, bh_1_5_5, bh_1_5_5_4, bh_1_5_5_4_1, bh_11_4, bh_11_4_1, bl_6_5, bl_6_5_4, bl_6_5_4_1, bl_1_5, bl_1_5_5, bl_1_5_5_4, bl_1_5_5_4_1, bl_11_4, bl_11_4_1, BitVec.extractLsb'_eq_self, Nat.reduceSub, a0, if_true]
  rfl

theorem hShr (a : Reg) (s : BitVec 6) : Statement (.hShr a s) := by
  intro wf _ rest
  refine (decode_w16 (hForm s a 0x5) rest (by first | rfl | (simp (disch := decide) only [hForm, habForm, bl_6_5_4_1, bl_1_5_5_4_1, bl_11_4_1]; rfl))).trans ?_
  have a0 : (a != 0) = true := wf
  simp (disch := decide) only [decode16, hForm, habForm, need, hi_6_5, hi_6_5_4, hi_6_5_4_1, hi_1_5, hi_1_5_5, hi_1_5_5_4, hi_1_5_5_4_1, hi_11_4, hi_11_4_1, lo_6_5, lo_6_5_4, lo_6_5_4_1, lo_1_5, lo_1_5_5, lo_1_5_5_4, lo_1_5_5_4_1, lo_11_4, lo_11_4_1, bh_6_5, bh_6_5_4, bh_6_5_4_1, bh_1_5, bh_1_5_5, bh_1_5_5_4, bh_1_5_5_4_1, bh_11_4, bh_11_4_1, bl_6_5, bl_6_5_4, bl_6_5_4_1, bl_1_5, bl_1_5_5, bl_1_5_5_4, bl_1_5_5_4_1, bl_11_4, bl_11_4_1, BitVec.extractLsb'_eq_self, Nat.reduceSub, a0, if_true]
  rfl

theorem hLds (a : Reg) (o : BitVec 6) : Statement (.hLds a o) := by
  intro wf _ rest
  refine (decode_w16 (hForm o a 0x6) rest (by first | rfl | (simp (disch := decide) only [hForm, habForm, bl_6_5_4_1, bl_1_5_5_4_1, bl_11_4_1]; rfl))).trans ?_
  have a0 : (a != 0) = true := wf
  simp (disch := decide) only [decode16, hForm, habForm, need, hi_6_5, hi_6_5_4, hi_6_5_4_1, hi_1_5, hi_1_5_5, hi_1_5_5_4, hi_1_5_5_4_1, hi_11_4, hi_11_4_1, lo_6_5, lo_6_5_4, lo_6_5_4_1, lo_1_5, lo_1_5_5, lo_1_5_5_4, lo_1_5_5_4_1, lo_11_4, lo_11_4_1, bh_6_5, bh_6_5_4, bh_6_5_4_1, bh_1_5, bh_1_5_5, bh_1_5_5_4, bh_1_5_5_4_1, bh_11_4, bh_11_4_1, bl_6_5, bl_6_5_4, bl_6_5_4_1, bl_1_5, bl_1_5_5, bl_1_5_5_4, bl_1_5_5_4_1, bl_11_4, bl_11_4_1, BitVec.extractLsb'_eq_self, Nat.reduceSub, a0, if_true]
  rfl

theorem hSds (a : Reg) (o : BitVec 6) : Statement (.hSds a o) := by
  intro wf _ rest
  refine (decode_w16 (hForm o a 0x7) rest (by first | rfl | (simp (disch := decide) only [hForm, habForm, bl_6_5_4_1, bl_1_5_5_4_1, bl_11_4_1]; rfl))).trans ?_
  simp (disch := decide) only [decode16, hForm, habForm, need, hi_6_5, hi_6_5_4, hi_6_5_4_1, hi_1_5, hi_1_5_5, hi_1_5_5_4, hi_1_5_5_4_1, hi_11_4, hi_11_4_1, lo_6_5, lo_6_5_4, lo_6_5_4_1, lo_1_5, lo_1_5_5, lo_1_5_5_4, lo_1_5_5_4_1, lo_11_4, lo_11_4_1, bh_6_5, bh_6_5_4, bh_6_5_4_1, bh_1_5, bh_1_5_5, bh_1_5_5_4, bh_1_5_5_4_1, bh_11_4, bh_11_4_1, bl_6_5, bl_6_5_4, bl_6_5_4_1, bl_1_5, bl_1_5_5, bl_1_5_5_4, bl_1_5_5_4_1, bl_11_4, bl_11_4_1, BitVec.extractLsb'_eq_self, Nat.reduceSub]
  rfl

theorem hBz (a : Reg) (i : BitVec 6) : Statement (.hBz a i) := by
  intro wf _ rest
  refine (decode_w16 (hForm i a 0x8) rest (by first | rfl | (simp (disch := decide) only [hForm, habForm, bl_6_5_4_1, bl_1_5_5_4_1, bl_11_4_1]; rfl))).trans ?_
  simp (disch := decide) only [decode16, hForm, habForm, need, hi_6_5, hi_6_5_4, hi_6_5_4_1, hi_1_5, hi_1_5_5, hi_1_5_5_4, hi_1_5_5_4_1, hi_11_4, hi_11_4_1, lo_6_5, lo_6_5_4, lo_6_5_4_1, lo_1_5, lo_1_5_5, lo_1_5_5_4, lo_1_5_5_4_1, lo_11_4, lo_11_4_1, bh_6_5, bh_6_5_4, bh_6_5_4_1, bh_1_5, bh_1_5_5, bh_1_5_5_4, bh_1_5_5_4_1, bh_11_4, bh_11_4_1, bl_6_5, bl_6_5_4, bl_6_5_4_1, bl_1_5, bl_1_5_5, bl_1_5_5_4, bl_1_5_5_4_1, bl_11_4, bl_11_4_1, BitVec.extractLsb'_eq_self, Nat.reduceSub]
  rfl

theorem hBnz (a : Reg) (i : BitVec 6) : Statement (.hBnz a i) := by
  intro wf _ rest
  refine (decode_w16 (hForm i a 0x9) rest (by first | rfl | (simp (disch := decide) only [hForm, habForm, bl_6_5_4_1, bl_1_5_5_4_1, bl_11_4_1]; rfl))).trans ?_
  simp (disch := decide) only [decode16, hForm, habForm, need, hi_6_5, hi_6_5_4, hi_6_5_4_1, hi_1_5, hi_1_5_5, hi_1_5_5_4, hi_1_5_5_4_1, hi_11_4, hi_11_4_1, lo_6_5, lo_6_5_4, lo_6_5_4_1, lo_1_5, lo_1_5_5, lo_1_5_5_4, lo_1_5_5_4_1, lo_11_4, lo_11_4_1, bh_6_5, bh_6_5_4, bh_6_5_4_1, bh_1_5, bh_1_5_5, bh_1_5_5_4, bh_1_5_5_4_1, bh_11_4, bh_11_4_1, bl_6_5, bl_6_5_4, bl_6_5_4_1, bl_1_5, bl_1_5_5, bl_1_5_5_4, bl_1_5_5_4_1, bl_11_4, bl_11_4_1, BitVec.extractLsb'_eq_self, Nat.reduceSub]
  rfl

theorem hJmp (i : BitVec 11) : Statement (.hJmp i) := by
  intro wf _ rest
  refine (decode_w16 (i ++ 0xA#4 ++ 0#1) rest (by first | rfl | (simp (disch := decide) only [hForm, habForm, bl_6_5_4_1, bl_1_5_5_4_1, bl_11_4_1]; rfl))).trans ?_
  simp (disch := decide) only [decode16, hForm, habForm, need, hi_6_5, hi_6_5_4, hi_6_5_4_1, hi_1_5, hi_1_5_5, hi_1_5_5_4, hi_1_5_5_4_1, hi_11_4, hi_11_4_1, lo_6_5, lo_6_5_4, lo_6_5_4_1, lo_1_5, lo_1_5_5, lo_1_5_5_4, lo_1_5_5_4_1, lo_11_4, lo_11_4_1, bh_6_5, bh_6_5_4, bh_6_5_4_1, bh_1_5, bh_1_5_5, bh_1_5_5_4, bh_1_5_5_4_1, bh_11_4, bh_11_4_1, bl_6_5, bl_6_5_4, bl_6_5_4_1, bl_1_5, bl_1_5_5, bl_1_5_5_4, bl_1_5_5_4_1, bl_11_4, bl_11_4_1, BitVec.extractLsb'_eq_self, Nat.reduceSub]
  rfl

theorem hJreg (a : Reg) : Statement (.hJreg a) := by
  intro wf _ rest
  refine (decode_w16 (habForm 0 0 a 0xB) rest (by first | rfl | (simp (disch := decide) only [hForm, habForm, bl_6_5_4_1, bl_1_5_5_4_1, bl_11_4_1]; rfl))).trans ?_
  have a0 : (a != 0) = true := wf
  simp (disch := decide) only [decode16, hForm, habForm, need, hi_6_5, hi_6_5_4, hi_6_5_4_1, hi_1_5, hi_1_5_5, hi_1_5_5_4, hi_1_5_5_4_1, hi_11_4, hi_11_4_1, lo_6_5, lo_6_5_4, lo_6_5_4_1, lo_1_5, lo_1_5_5, lo_1_5_5_4, lo_1_5_5_4_1, lo_11_4, lo_11_4_1, bh_6_5, bh_6_5_4, bh_6_5_4_1, bh_1_5, bh_1_5_5, bh_1_5_5_4, bh_1_5_5_4_1, bh_11_4, bh_11_4_1, bl_6_5, bl_6_5_4, bl_6_5_4_1, bl_1_5, bl_1_5_5, bl_1_5_5_4, bl_1_5_5_4_1, bl_11_4, bl_11_4_1, BitVec.extractLsb'_eq_self, Nat.reduceSub, a0, if_true]
  rfl

theorem hCallr (a : Reg) : Statement (.hCallr a) := by
  intro wf _ rest
  refine (decode_w16 (habForm 1 0 a 0xB) rest (by first | rfl | (simp (disch := decide) only [hForm, habForm, bl_6_5_4_1, bl_1_5_5_4_1, bl_11_4_1]; rfl))).trans ?_
  have a0 : (a != 0) = true := wf
  simp (disch := decide) only [decode16, hForm, habForm, need, hi_6_5, hi_6_5_4, hi_6_5_4_1, hi_1_5, hi_1_5_5, hi_1_5_5_4, hi_1_5_5_4_1, hi_11_4, hi_11_4_1, lo_6_5, lo_6_5_4, lo_6_5_4_1, lo_1_5, lo_1_5_5, lo_1_5_5_4, lo_1_5_5_4_1, lo_11_4, lo_11_4_1, bh_6_5, bh_6_5_4, bh_6_5_4_1, bh_1_5, bh_1_5_5, bh_1_5_5_4, bh_1_5_5_4_1, bh_11_4, bh_11_4_1, bl_6_5, bl_6_5_4, bl_6_5_4_1, bl_1_5, bl_1_5_5, bl_1_5_5_4, bl_1_5_5_4_1, bl_11_4, bl_11_4_1, BitVec.extractLsb'_eq_self, Nat.reduceSub, a0, if_true]
  rfl

theorem hDone : Statement .hDone := by
  intro wf _ rest
  refine (decode_w16 (habForm 0 0 0 0xC) rest (by first | rfl | (simp (disch := decide) only [hForm, habForm, bl_6_5_4_1, bl_1_5_5_4_1, bl_11_4_1]; rfl))).trans ?_
  simp (disch := decide) only [decode16, hForm, habForm, need, hi_6_5, hi_6_5_4, hi_6_5_4_1, hi_1_5, hi_1_5_5, hi_1_5_5_4, hi_1_5_5_4_1, hi_11_4, hi_11_4_1, lo_6_5, lo_6_5_4, lo_6_5_4_1, lo_1_5, lo_1_5_5, lo_1_5_5_4, lo_1_5_5_4_1, lo_11_4, lo_11_4_1, bh_6_5, bh_6_5_4, bh_6_5_4_1, bh_1_5, bh_1_5_5, bh_1_5_5_4, bh_1_5_5_4_1, bh_11_4, bh_11_4_1, bl_6_5, bl_6_5_4, bl_6_5_4_1, bl_1_5, bl_1_5_5, bl_1_5_5_4, bl_1_5_5_4_1, bl_11_4, bl_11_4_1, BitVec.extractLsb'_eq_self, Nat.reduceSub]
  rfl

theorem pageTableWalk (w : WalkReq) : Statement (.pageTableWalk w) :=
  fun _ h => absurd rfl h

theorem taskStart (core : Nat) : Statement (.taskStart core) :=
  fun _ h => absurd rfl h

theorem firingStart (core : Nat) : Statement (.firingStart core) :=
  fun _ h => absurd rfl h

theorem messageAcceptance (core : Nat) (m : Message) : Statement (.messageAcceptance core m) :=
  fun _ h => absurd rfl h

theorem refused (core : Nat) (m : Message) (noName : Bool) : Statement (.refused core m noName) :=
  fun _ h => absurd rfl h

theorem refusedMessageResend (core vn seq : Nat) : Statement (.refusedMessageResend core vn seq) :=
  fun _ h => absurd rfl h

theorem withdrawal (core module sender vn seq endpoint : Nat) : Statement (.withdrawal core module sender vn seq endpoint) :=
  fun _ h => absurd rfl h

theorem hardwareMessageResend (m : Message) : Statement (.hardwareMessageResend m) :=
  fun _ h => absurd rfl h

theorem remoteStore (r : StoreReq) : Statement (.remoteStore r) :=
  fun _ h => absurd rfl h

theorem remoteLoad (r : LoadReq) : Statement (.remoteLoad r) :=
  fun _ h => absurd rfl h

theorem loadReply (r : Reply) : Statement (.loadReply r) :=
  fun _ h => absurd rfl h

theorem storeAcknowledgement (core id : Nat) : Statement (.storeAcknowledgement core id) :=
  fun _ h => absurd rfl h

theorem fullEmptyRequest (r : FeReq) : Statement (.fullEmptyRequest r) :=
  fun _ h => absurd rfl h

theorem fullEmptyResend (r : FeReq) : Statement (.fullEmptyResend r) :=
  fun _ h => absurd rfl h

theorem heldEntryTimeout (r : FeReq) : Statement (.heldEntryTimeout r) :=
  fun _ h => absurd rfl h

theorem fullEmptyCancel (r : FeReq) : Statement (.fullEmptyCancel r) :=
  fun _ h => absurd rfl h

theorem amoRequest (r : AmoReq) : Statement (.amoRequest r) :=
  fun _ h => absurd rfl h

theorem amoReply (r : Reply) : Statement (.amoReply r) :=
  fun _ h => absurd rfl h

theorem decombineSplit (octet idx : Nat) (v : Answer) : Statement (.decombineSplit octet idx v) :=
  fun _ h => absurd rfl h

theorem amoLimitExpiry (w : Who) : Statement (.amoLimitExpiry w) :=
  fun _ h => absurd rfl h

theorem pageLineCopy (port slot : Nat) : Statement (.pageLineCopy port slot) :=
  fun _ h => absurd rfl h

theorem copyCommand (m : Message) : Statement (.copyCommand m) :=
  fun _ h => absurd rfl h

theorem collectiveCommand (m : Message) : Statement (.collectiveCommand m) :=
  fun _ h => absurd rfl h

theorem matrixCommand (m : Message) : Statement (.matrixCommand m) :=
  fun _ h => absurd rfl h

theorem channelOperationStart (core : Nat) (h : Chan) : Statement (.channelOperationStart core h) :=
  fun _ h => absurd rfl h

theorem channelOperationComplete (core : Nat) (h : Chan) (n : Nat) : Statement (.channelOperationComplete core h n) :=
  fun _ h => absurd rfl h

theorem engineFault (core : Nat) (e : Eng) (kind : Nat) (p : OpPlace) : Statement (.engineFault core e kind p) :=
  fun _ h => absurd rfl h

theorem streamRefill (core ctx slot : Nat) : Statement (.streamRefill core ctx slot) :=
  fun _ h => absurd rfl h

theorem haloPush (p : Push) : Statement (.haloPush p) :=
  fun _ h => absurd rfl h

theorem collectiveOperationStart (core : Nat) : Statement (.collectiveOperationStart core) :=
  fun _ h => absurd rfl h

theorem collectiveOperationComplete (core : Nat) : Statement (.collectiveOperationComplete core) :=
  fun _ h => absurd rfl h

theorem deposit (d : Deposit) : Statement (.deposit d) :=
  fun _ h => absurd rfl h

theorem depositResend (d : Deposit) : Statement (.depositResend d) :=
  fun _ h => absurd rfl h

theorem multicastDelivery (d : Delivery) : Statement (.multicastDelivery d) :=
  fun _ h => absurd rfl h

theorem reducePartial (p : Partial) : Statement (.reducePartial p) :=
  fun _ h => absurd rfl h

theorem partialResend (p : Partial) : Statement (.partialResend p) :=
  fun _ h => absurd rfl h

theorem reduceResult (p : Partial) : Statement (.reduceResult p) :=
  fun _ h => absurd rfl h

theorem engineAcknowledgement (core op : Nat) : Statement (.engineAcknowledgement core op) :=
  fun _ h => absurd rfl h

theorem barrierArrival (pid group core : Nat) : Statement (.barrierArrival pid group core) :=
  fun _ h => absurd rfl h

theorem barrierRelease (core : Nat) (group : GroupRef) (bgen : Nat) : Statement (.barrierRelease core group bgen) :=
  fun _ h => absurd rfl h

theorem matrixCommandStart (octet : Nat) (fill : Bool) : Statement (.matrixCommandStart octet fill) :=
  fun _ h => absurd rfl h

theorem matrixCommandComplete (octet : Nat) (fill : Bool) (n : Nat) : Statement (.matrixCommandComplete octet fill n) :=
  fun _ h => absurd rfl h

theorem joinDelivery (j : JoinDel) : Statement (.joinDelivery j) :=
  fun _ h => absurd rfl h

theorem drainMessagePost (core : Nat) : Statement (.drainMessagePost core) :=
  fun _ h => absurd rfl h

theorem locatorCorrection (octet name : Nat) (module core : Nat) : Statement (.locatorCorrection octet name module core) :=
  fun _ h => absurd rfl h

theorem supervisorNotice (n : Notice) : Statement (.supervisorNotice n) :=
  fun _ h => absurd rfl h

theorem noticeResend (n : Notice) : Statement (.noticeResend n) :=
  fun _ h => absurd rfl h

theorem swapInstant (pid : Nat) : Statement (.swapInstant pid) :=
  fun _ h => absurd rfl h

theorem swapControl (coreA coreB : Nat) : Statement (.swapControl coreA coreB) :=
  fun _ h => absurd rfl h

theorem swapExchange (coreA coreB : Nat) : Statement (.swapExchange coreA coreB) :=
  fun _ h => absurd rfl h

theorem swapExchangeEnd (coreA coreB : Nat) : Statement (.swapExchangeEnd coreA coreB) :=
  fun _ h => absurd rfl h

theorem launchRequest (m : Message) : Statement (.launchRequest m) :=
  fun _ h => absurd rfl h

theorem launchStart (pid stream : Nat) : Statement (.launchStart pid stream) :=
  fun _ h => absurd rfl h

theorem launchComplete (pid num : Nat) : Statement (.launchComplete pid num) :=
  fun _ h => absurd rfl h

theorem launchEndByFault (pid num cause : Nat) (tval path : Word) : Statement (.launchEndByFault pid num cause tval path) :=
  fun _ h => absurd rfl h

theorem ratioWindowEnd (octet : Nat) : Statement (.ratioWindowEnd octet) :=
  fun _ h => absurd rfl h

theorem alarmFire (core ctx slot : Nat) : Statement (.alarmFire core ctx slot) :=
  fun _ h => absurd rfl h

theorem deadlineTrap (core ctx : Nat) : Statement (.deadlineTrap core ctx) :=
  fun _ h => absurd rfl h

theorem waitDeadlineExpiry (core ctx : Nat) : Statement (.waitDeadlineExpiry core ctx) :=
  fun _ h => absurd rfl h

theorem waitTargetReached (core ctx : Nat) : Statement (.waitTargetReached core ctx) :=
  fun _ h => absurd rfl h

theorem regulatorRequestChange (octet : Nat) : Statement (.regulatorRequestChange octet) :=
  fun _ h => absurd rfl h

theorem phaseLoss (rail : Nat) : Statement (.phaseLoss rail) :=
  fun _ h => absurd rfl h

theorem supplyEmergency (rail : Nat) : Statement (.supplyEmergency rail) :=
  fun _ h => absurd rfl h

theorem emergencyClear (rail : Nat) : Statement (.emergencyClear rail) :=
  fun _ h => absurd rfl h

theorem retentionEntry (octet : Nat) : Statement (.retentionEntry octet) :=
  fun _ h => absurd rfl h

theorem gatingEntry (octet : Nat) : Statement (.gatingEntry octet) :=
  fun _ h => absurd rfl h

theorem octetWake (octet : Nat) (loss : RetLoss) : Statement (.octetWake octet loss) :=
  fun _ h => absurd rfl h

theorem retentionTimedWake (octet : Nat) : Statement (.retentionTimedWake octet) :=
  fun _ h => absurd rfl h

theorem fltgenAdvance (pid : Nat) : Statement (.fltgenAdvance pid) :=
  fun _ h => absurd rfl h

theorem fltkill (pid : Nat) (lnum : BitVec 16) : Statement (.fltkill pid lnum) :=
  fun _ h => absurd rfl h

theorem mxstatRecover (core : Nat) : Statement (.mxstatRecover core) :=
  fun _ h => absurd rfl h

theorem svlocWrite (pid : Nat) (v : Word) : Statement (.svlocWrite pid v) :=
  fun _ h => absurd rfl h

theorem stkcfgWrite (core : Nat) (v : Word) : Statement (.stkcfgWrite core v) :=
  fun _ h => absurd rfl h

theorem hostepWrite (pid : Nat) (v : Word) : Statement (.hostepWrite pid v) :=
  fun _ h => absurd rfl h

theorem resync (k : Command) : Statement (.resync k) :=
  fun _ h => absurd rfl h

theorem ctrsel (k : Command) : Statement (.ctrsel k) :=
  fun _ h => absurd rfl h

theorem ctrread (k : Command) : Statement (.ctrread k) :=
  fun _ h => absurd rfl h

theorem snaparm (k : Command) : Statement (.snaparm k) :=
  fun _ h => absurd rfl h

theorem snapread (k : Command) : Statement (.snapread k) :=
  fun _ h => absurd rfl h

theorem snapshotLatch : Statement (.snapshotLatch) :=
  fun _ h => absurd rfl h

theorem pcreate (k : Command) : Statement (.pcreate k) :=
  fun _ h => absurd rfl h

theorem pdestroy (k : Command) : Statement (.pdestroy k) :=
  fun _ h => absurd rfl h

theorem preempt (k : Command) : Statement (.preempt k) :=
  fun _ h => absurd rfl h

theorem resume (k : Command) : Statement (.resume k) :=
  fun _ h => absurd rfl h

theorem brkhalt (k : Command) : Statement (.brkhalt k) :=
  fun _ h => absurd rfl h

theorem attest (k : Command) : Statement (.attest k) :=
  fun _ h => absurd rfl h

theorem idkey (k : Command) : Statement (.idkey k) :=
  fun _ h => absurd rfl h

theorem fabricMessageReceive (p : Packet) : Statement (.fabricMessageReceive p) :=
  fun _ h => absurd rfl h

theorem fabricAcknowledgement (module vn num : Nat) : Statement (.fabricAcknowledgement module vn num) :=
  fun _ h => absurd rfl h

theorem fabricRetransmit (module vn : Nat) : Statement (.fabricRetransmit module vn) :=
  fun _ h => absurd rfl h

theorem prosanFlitReceive (port : Nat) (f : Flit) : Statement (.prosanFlitReceive port f) :=
  fun _ h => absurd rfl h

theorem linkDegrade (port : Nat) : Statement (.linkDegrade port) :=
  fun _ h => absurd rfl h

theorem linkTraining (port peer : Nat) : Statement (.linkTraining port peer) :=
  fun _ h => absurd rfl h

theorem linkKeyRenewal (port : Nat) : Statement (.linkKeyRenewal port) :=
  fun _ h => absurd rfl h

theorem hostCommand (pid : Nat) (via : HostVia) (l : List RawMsg) : Statement (.hostCommand pid via l) :=
  fun _ h => absurd rfl h

theorem hostClassMessage (m : Message) : Statement (.hostClassMessage m) :=
  fun _ h => absurd rfl h

theorem rmaWrite (pid : Nat) (key : RmaKey) (off : Nat) (data : List Word) : Statement (.rmaWrite pid key off data) :=
  fun _ h => absurd rfl h

theorem rmaRead (pid : Nat) (key : RmaKey) (off words : Nat) : Statement (.rmaRead pid key off words) :=
  fun _ h => absurd rfl h

theorem sessionStart (pid : Nat) (ct : List Byte) : Statement (.sessionStart pid ct) :=
  fun _ h => absurd rfl h

theorem logStallExpiry (pid site : Nat) : Statement (.logStallExpiry pid site) :=
  fun _ h => absurd rfl h

theorem replayHoldExpiry (pid site : Nat) : Statement (.replayHoldExpiry pid site) :=
  fun _ h => absurd rfl h

theorem coldBoot (wallNs : Nat) (image : List (Option (Nat × List Byte))) : Statement (.coldBoot wallNs image) :=
  fun _ h => absurd rfl h

theorem bootFailureFrame : Statement (.bootFailureFrame) :=
  fun _ h => absurd rfl h

theorem illegalInstruction (w : BitVec 32) : Statement (.illegalInstruction w) :=
  fun _ h => absurd rfl h

theorem writeQueueEntryFree (port : Nat) : Statement (.writeQueueEntryFree port) :=
  fun _ h => absurd rfl h

theorem groupEntryUpdate (r : GroupReq) : Statement (.groupEntryUpdate r) :=
  fun _ h => absurd rfl h

theorem logReaderEntry (pid : Nat) : Statement (.logReaderEntry pid) :=
  fun _ h => absurd rfl h

theorem supplyChange (clock : ClockRef) (khz : Nat) : Statement (.supplyChange clock khz) :=
  fun _ h => absurd rfl h

theorem wallDiscipline (ppm : Int) : Statement (.wallDiscipline ppm) :=
  fun _ h => absurd rfl h

theorem unknownOp (k : Command) : Statement (.unknownOp k) :=
  fun _ h => absurd rfl h

end Sys2Proof.Laws.RoundTrip
end

