-- ==== Sys2Proof/Tests/Slice0.lean ====
section
/-! SUPPORT. The row's own tests: words written out from the encoding tables, ill-formed terms, and for each statement a
state and operands that meet its hypotheses (wit_…) and what one step gives on them (test_…). Expected values are those of
the spec's tables and rules, worked by hand. -/

namespace Sys2Proof.Tests
open Sys2Proof.Machine

set_option Elab.async false

/-! ## States for the tests -/

/-- A partition that covers the whole die, with key 7. -/
def part : Partition := { Partition.reset with wm1 := 47, hm1 := 31, key := 7 }

/-- A task of class 16 and priority 1, in launch 1. -/
def task : Ctx := { Ctx.reset with run := .task 16 1 none false, lnum := 1 }

/-- A device that runs with one partition; core 0's context 0 runs a task. -/
def base : State :=
  { State.reset with
    boot := .running, parts := [(0, part)], cores := [(0, { Core.reset with ctxs := Core.reset.ctxs.set 0 task })] }

/-- base with some x registers written. -/
def regs (l : List (Reg × Word)) : State := base.modF fun c => l.foldl (fun c p => c.putX p.1 p.2) c

/-- A state with words written into core 0's local memory. -/
def words (l : List (Nat × Word)) (s : State) : State := l.foldl (fun s p => s.write (localKey 0 p.1) 8 p.2.toNat) s

/-- The own-core address of an offset. -/
def own (o : Nat) : Word := 0xFC00000000000000 + BitVec.ofNat 64 o

/-- The state that an outcome gives. -/
def next (o : Host.Outcome State Fault Refusal) : State := match o with | .next t => t | _ => State.reset

/-- The context that an instruction leaves, run in a state. -/
def after (i : Instr) (s : State) : Ctx := (next (exec i s)).fctx

theorem clearOf {s : State} (h : (s.fctx.pend.isEmpty && s.fctx.posted.isEmpty && s.fctx.fences.isEmpty && s.fcore.sb.isEmpty
    && s.fcore.exch.isNone) = true) : s.Clear := by
  simp only [Bool.and_eq_true, List.isEmpty_iff, Option.isNone_iff_eq_none] at h
  exact ⟨h.1.1.1.1, h.1.1.1.2, h.1.1.2, h.1.2, h.2⟩

theorem readsOf {s : State} {r : Reg} {v : Word} (h : ((s.fctx.bound (xSlot r)).isNone && !s.fctx.pending r
    && (findMark r s.fctx.marks).isNone && s.fctx.getX r == v) = true) : Reads s r v s := by
  simp only [Bool.and_eq_true, Option.isNone_iff_eq_none, Bool.not_eq_true', beq_iff_eq] at h
  exact h.2 ▸ .plain (.inr ⟨h.1.1.1, h.1.1.2, h.1.2⟩)

theorem readsVOf {s : State} {r : VReg} {v : VWord} (h : ((s.fctx.bound (vSlot r)).isNone && s.fctx.getV r == v) = true) :
    ReadsV s r v s := by
  simp only [Bool.and_eq_true, Option.isNone_iff_eq_none, beq_iff_eq] at h
  exact h.2 ▸ .plain h.1

/-- Plain registers read as stored, in order. -/
def reads (s : State) (l : List (Reg × Word)) : Bool :=
  l.all fun p => (s.fctx.bound (xSlot p.1)).isNone && !s.fctx.pending p.1 && (findMark p.1 s.fctx.marks).isNone && s.fctx.getX p.1 == p.2

theorem readsAllOf {s : State} : {l : List (Reg × Word)} → reads s l = true → ReadsAll s (l.map (·.1)) (l.map (·.2)) s
  | [], _ => .nil s
  | (r, v) :: l, h => by
    simp only [reads, List.all_cons, Bool.and_eq_true (a := _ && _ && _ && _)] at h
    exact .cons (readsOf h.1) (readsAllOf h.2)

/-- A message of core 1 for core 0. -/
def msg (cls : BitVec 8) : Message := ⟨7, 1, 0, 0, 0, 0, cls, 0, 1, 0, false, false, false, 0, [1, 2, 3, 4, 5, 6], .ofCore 9 0 false⟩

/-- A launch request of core 1 with its first word. -/
def request (w : Word) : Message := { msg 0x0E with kind := 3, payload := [w, 11, 12, 13, 14, 15] }

/-- A resident with its region at 0x4000. -/
def resident (n : Nat) (ok : Bool) : Resident := ⟨n, 0x4000, 3, [⟨0, 0, []⟩], [], false, ok, 0, none⟩

/-- A port of a list where none moves a page or has stopped. -/
theorem portOfAll {l : SMap Port} (h : l.all (fun q => q.2.moves.isEmpty && q.2.stopped.isEmpty) = true) (p : Nat) :
    (mapGet Port.reset l p).moves = [] ∧ (mapGet Port.reset l p).stopped = [] := by
  induction l with
  | nil => exact ⟨rfl, rfl⟩
  | cons a l ih =>
    simp only [List.all_cons, Bool.and_eq_true, List.isEmpty_iff] at h
    unfold mapGet
    split
    · exact h.1
    · exact ih (by simpa using h.2)

/-- Where no page moves and no port has stopped, the hardware's own tables lie where their keys say (R79). -/
theorem settledOf {s : State} {key n : Nat}
    (h : (s.ports.all fun q => q.2.moves.isEmpty && q.2.stopped.isEmpty) = true ∧ s.farReads = [])
    (hf : ∀ k, (s.flights.any fun f => hardwareStoreOf k f.ev) = false) : s.Settled key n := by
  have m (p : Nat) : (s.port p).moves = [] ∧ (s.port p).stopped = [] := portOfAll h.1 p
  have f (k : Nat) : s.forward k = none := by simp [State.forward, m, findMove]
  have w (k : Nat) : s.homeNow k = (s.module, k) := by simp [State.homeNow, State.homeOf, f]
  exact ⟨fun _ _ => w _, fun _ _ => by simp [State.steady, w, State.lineAway, m, findMove, hf], h.2⟩
/-! ## Decoding: one word of every row of the encoding tables, its fields written out -/

/-- Each word decodes to the instruction beside it. -/
def reads32 (l : List (BitVec 32 × Instr)) : Bool := l.all fun p => match decode32 p.1 with | .ok i => i == p.2 | .error _ => false
def reads16 (l : List (BitVec 16 × Instr)) : Bool := l.all fun p => match decode16 p.1 with | .ok i => i == p.2 | .error _ => false

/-- R209. -/
theorem test_decode_alu : reads32 [
    (0b0000000000_00011_00010_00001_000001_1#32, .add 1 2 3),
    (0b0000000001_00011_00010_00001_000001_1#32, .sub 1 2 3),
    (0b0000000010_00011_00010_00001_000001_1#32, .and 1 2 3),
    (0b0000000011_00011_00010_00001_000001_1#32, .or 1 2 3),
    (0b0000000100_00011_00010_00001_000001_1#32, .xor 1 2 3),
    (0b0000000101_00011_00010_00001_000001_1#32, .sll 1 2 3),
    (0b0000000110_00011_00010_00001_000001_1#32, .srl 1 2 3),
    (0b0000000111_00011_00010_00001_000001_1#32, .sra 1 2 3),
    (0b0000001000_00011_00010_00001_000001_1#32, .slt 1 2 3),
    (0b0000001001_00011_00010_00001_000001_1#32, .sltu 1 2 3),
    (0b0000001010_00011_00010_00001_000001_1#32, .min 1 2 3),
    (0b0000001011_00011_00010_00001_000001_1#32, .max 1 2 3),
    (0b0000001100_00011_00010_00001_000001_1#32, .minu 1 2 3),
    (0b0000001101_00011_00010_00001_000001_1#32, .maxu 1 2 3),
    (0b0000001110_00011_00010_00001_000001_1#32, .rol 1 2 3),
    (0b0000001111_00011_00010_00001_000001_1#32, .ror 1 2 3),
    (0b0000010000_00011_00010_00001_000001_1#32, .andn 1 2 3),
    (0b0000010001_00011_00010_00001_000001_1#32, .orn 1 2 3),
    (0b0000010010_00011_00010_00001_000001_1#32, .xnor 1 2 3),
    (0b0000000000_00011_00010_00001_000010_1#32, .addw 1 2 3),
    (0b0000000001_00011_00010_00001_000010_1#32, .subw 1 2 3),
    (0b0000000101_00011_00010_00001_000010_1#32, .sllw 1 2 3),
    (0b0000000110_00011_00010_00001_000010_1#32, .srlw 1 2 3),
    (0b0000000111_00011_00010_00001_000010_1#32, .sraw 1 2 3),
    (0b0000000000_00011_00010_00001_000011_1#32, .mul 1 2 3),
    (0b0000000001_00011_00010_00001_000011_1#32, .mulh 1 2 3),
    (0b0000000010_00011_00010_00001_000011_1#32, .mulhu 1 2 3),
    (0b0000000011_00011_00010_00001_000011_1#32, .mulhsu 1 2 3),
    (0b0000000100_00011_00010_00001_000011_1#32, .div 1 2 3),
    (0b0000000101_00011_00010_00001_000011_1#32, .divu 1 2 3),
    (0b0000000110_00011_00010_00001_000011_1#32, .rem 1 2 3),
    (0b0000000111_00011_00010_00001_000011_1#32, .remu 1 2 3),
    (0b000000000000000_00010_00001_001110_1#32, .clz 1 2),
    (0b000000000100000_00010_00001_001110_1#32, .ctz 1 2),
    (0b000000001000000_00010_00001_001110_1#32, .popc 1 2),
    (0b000000001100000_00010_00001_001110_1#32, .bswap 1 2),
    (0b000000010000000_00010_00001_001110_1#32, .sextb 1 2),
    (0b000000010100000_00010_00001_001110_1#32, .sexth 1 2),
    (0b000000011000000_00010_00001_001110_1#32, .zextw 1 2)] = true := by decide +kernel

/-- R210, R211, R212, R213. -/
theorem test_decode_immediates : reads32 [
    (0b101101001101001_00010_00001_000100_1#32, .addi 1 2 0x5a69),
    (0b101101001101001_00010_00001_000101_1#32, .andi 1 2 0x5a69),
    (0b101101001101001_00010_00001_000110_1#32, .ori 1 2 0x5a69),
    (0b101101001101001_00010_00001_000111_1#32, .xori 1 2 0x5a69),
    (0b000000000_101101_00010_00001_001000_1#32, .slli 1 2 0x2d),
    (0b000000001_101101_00010_00001_001000_1#32, .srli 1 2 0x2d),
    (0b000000010_101101_00010_00001_001000_1#32, .srai 1 2 0x2d),
    (0b101101001101001_00010_00001_001001_1#32, .slti 1 2 0x5a69),
    (0b101101001101001_00010_00001_001010_1#32, .sltiu 1 2 0x5a69),
    (0b101101001101001_00010_00001_001011_1#32, .addiw 1 2 0x5a69),
    (0b10100101110000111101_00001_001100_1#32, .lui 1 0xa5c3d),
    (0b10100101110000111101_00001_001101_1#32, .addpc 1 0xa5c3d),
    (0b0_10110001011011_00010_00001_001111_1#32, .lca 1 2 0x2c5b),
    (0b1000000000_00011_00010_00001_001111_1#32, .addx2 1 2 3),
    (0b1000000001_00011_00010_00001_001111_1#32, .addx4 1 2 3),
    (0b1000000010_00011_00010_00001_001111_1#32, .addx8 1 2 3),
    (0b1000000011_00011_00010_00001_001111_1#32, .lcr 1 2 3),
    (0b100000010000000_00010_00001_001111_1#32, .lcx 1 2)] = true := by decide +kernel

/-- R214, R215. -/
theorem test_decode_branches : reads32 [
    (0b101001010011_000_00011_00010_010000_1#32, .beq 2 3 0xa53),
    (0b101001010011_001_00011_00010_010000_1#32, .bne 2 3 0xa53),
    (0b101001010011_010_00011_00010_010000_1#32, .blt 2 3 0xa53),
    (0b101001010011_011_00011_00010_010000_1#32, .bge 2 3 0xa53),
    (0b101001010011_100_00011_00010_010000_1#32, .bltu 2 3 0xa53),
    (0b101001010011_101_00011_00010_010000_1#32, .bgeu 2 3 0xa53),
    (0b101001010011_1100000000000_010000_1#32, .bto 0xa53),
    (0b101001010011_1110000000000_010000_1#32, .bnto 0xa53),
    (0b10100101110000111101_00001_010001_1#32, .jal 1 0xa5c3d),
    (0b101101001101001_00010_00001_010010_1#32, .jalr 1 2 0x5a69)] = true := by decide +kernel

/-- R197, R198, R200. -/
theorem test_decode_loads_and_stores : reads32 [
    (0b101001010011_000_00010_00001_010100_1#32, .lb 1 2 0xa53),
    (0b101001010011_001_00010_00001_010100_1#32, .lh 1 2 0xa53),
    (0b101001010011_010_00010_00001_010100_1#32, .lw 1 2 0xa53),
    (0b101001010011_011_00010_00001_010100_1#32, .ld 1 2 0xa53),
    (0b101001010011_100_00010_00001_010100_1#32, .lbu 1 2 0xa53),
    (0b101001010011_101_00010_00001_010100_1#32, .lhu 1 2 0xa53),
    (0b101001010011_110_00010_00001_010100_1#32, .lwu 1 2 0xa53),
    (0b101001010011_000_00010_00001_010101_1#32, .sb 1 2 0xa53),
    (0b101001010011_001_00010_00001_010101_1#32, .sh 1 2 0xa53),
    (0b101001010011_010_00010_00001_010101_1#32, .sw 1 2 0xa53),
    (0b101001010011_011_00010_00001_010101_1#32, .sd 1 2 0xa53),
    (0b101001010011_000_00010_00001_010110_1#32, .ldacq 1 2 0xa53),
    (0b101001010011_000_00010_00001_010111_1#32, .sdrel 1 2 0xa53)] = true := by decide +kernel

/-- R202. -/
theorem test_decode_full_empty : reads32 [
    (0b00011_1011010_001_00010_00001_010110_1#32, .ldf 1 2 0x5a 3),
    (0b00011_1011010_010_00010_00001_010110_1#32, .ldfe 1 2 0x5a 3),
    (0b101001010011_011_00010_00001_010110_1#32, .probe 1 2 0xa53),
    (0b101001010011_001_00010_00001_010111_1#32, .ste 1 2 0xa53),
    (0b00011_1011010_010_00010_00001_010111_1#32, .stf 1 2 0x5a 3),
    (0b101001010011_011_00010_00000_010111_1#32, .sete 2 0xa53)] = true := by decide +kernel

/-- R110, R115, R303. -/
theorem test_decode_amo_red_fence : reads32 [
    (0b1_000000000_00011_00010_00001_011000_1#32, .amoadd true 1 2 3),
    (0b1_000100000_00011_00010_00001_011000_1#32, .amoand true 1 2 3),
    (0b1_001000000_00011_00010_00001_011000_1#32, .amoor true 1 2 3),
    (0b1_001100000_00011_00010_00001_011000_1#32, .amoxor true 1 2 3),
    (0b1_010000000_00011_00010_00001_011000_1#32, .amomin true 1 2 3),
    (0b1_010100000_00011_00010_00001_011000_1#32, .amomax true 1 2 3),
    (0b1_011000000_00011_00010_00001_011000_1#32, .amominu true 1 2 3),
    (0b1_011100000_00011_00010_00001_011000_1#32, .amomaxu true 1 2 3),
    (0b1_100000000_00011_00010_00001_011000_1#32, .amoswap true 1 2 3),
    (0b1_1001_00100_00011_00010_00001_011000_1#32, .amocas true 1 2 3 4),
    (0b0_1_00000000_00011_00010_00000_011001_1#32, .redadd true 2 3),
    (0b0_1_00000001_00011_00010_00000_011001_1#32, .redand true 2 3),
    (0b0_1_00000010_00011_00010_00000_011001_1#32, .redor true 2 3),
    (0b0_1_00000011_00011_00010_00000_011001_1#32, .redxor true 2 3),
    (0b0_1_00000100_00011_00010_00000_011001_1#32, .redmin true 2 3),
    (0b0_1_00000101_00011_00010_00000_011001_1#32, .redmax true 2 3),
    (0b0_1_00000110_00011_00010_00000_011001_1#32, .redminu true 2 3),
    (0b0_1_00000111_00011_00010_00000_011001_1#32, .redmaxu true 2 3),
    (0b00110101_00110101_000000000_011010_1#32, .fence 0x35 0x35)] = true := by decide +kernel

/-- R252, R253, R254, R255, R256. -/
theorem test_decode_float : reads32 [
    (0b10_011_00000_00011_00010_00001_011011_1#32, .fadd .h .rup 1 2 3),
    (0b10_011_00001_00011_00010_00001_011011_1#32, .fsub .h .rup 1 2 3),
    (0b10_011_00010_00011_00010_00001_011011_1#32, .fmul .h .rup 1 2 3),
    (0b10_011_00011_00011_00010_00001_011011_1#32, .fdiv .h .rup 1 2 3),
    (0b10_011_0010000000_00010_00001_011011_1#32, .fsqrt .h .rup 1 2),
    (0b10_00000101_00011_00010_00001_011011_1#32, .fmin .h 1 2 3),
    (0b10_00000110_00011_00010_00001_011011_1#32, .fmax .h 1 2 3),
    (0b10_00000111_00011_00010_00001_011011_1#32, .fsgcpy .h 1 2 3),
    (0b10_00001000_00011_00010_00001_011011_1#32, .fsgneg .h 1 2 3),
    (0b10_00001001_00011_00010_00001_011011_1#32, .fsgxor .h 1 2 3),
    (0b10_00001010_00011_00010_00001_011011_1#32, .feq .h 1 2 3),
    (0b10_00001011_00011_00010_00001_011011_1#32, .flt .h 1 2 3),
    (0b10_00001100_00011_00010_00001_011011_1#32, .fle .h 1 2 3),
    (0b10_0000110100000_00010_00001_011011_1#32, .fclass .h 1 2),
    (0b10_0000111000000_00010_00001_011011_1#32, .frcpe .h 1 2),
    (0b10_0000111100000_00010_00001_011011_1#32, .frsqe .h 1 2),
    (0b0_10_00_00100_00011_00010_00001_011100_1#32, .fma .h 1 2 3 4),
    (0b0_10_01_00100_00011_00010_00001_011100_1#32, .fms .h 1 2 3 4),
    (0b0_10_10_00100_00011_00010_00001_011100_1#32, .fnma .h 1 2 3 4),
    (0b0_10_11_00100_00011_00010_00001_011100_1#32, .fnms .h 1 2 3 4),
    (0b011_00_10_01_000000_00010_00001_011101_1#32, .fcvtI .rup .h .wu 1 2),
    (0b011_01_10_11_000000_00010_00001_011101_1#32, .fcvtF .rup .l .bf 1 2),
    (0b011_10_10_11_000000_00010_00001_011101_1#32, .fcvtFf .rup .h .bf 1 2)] = true := by decide +kernel

/-- R258. -/
theorem test_decode_vector_arithmetic : reads32 [
    (0b10_00000000_00011_00010_00001_011110_1#32, .vadd .w 1 2 3),
    (0b10_00000001_00011_00010_00001_011110_1#32, .vsub .w 1 2 3),
    (0b10_00000010_00011_00010_00001_011110_1#32, .vmul .w 1 2 3),
    (0b10_00000011_00011_00010_00001_011110_1#32, .vand .w 1 2 3),
    (0b10_00000100_00011_00010_00001_011110_1#32, .vor .w 1 2 3),
    (0b10_00000101_00011_00010_00001_011110_1#32, .vxor .w 1 2 3),
    (0b10_00000110_00011_00010_00001_011110_1#32, .vsll .w 1 2 3),
    (0b10_00000111_00011_00010_00001_011110_1#32, .vsrl .w 1 2 3),
    (0b10_00001000_00011_00010_00001_011110_1#32, .vsra .w 1 2 3),
    (0b01_01000000_00011_00010_00001_011110_1#32, .vfadd .bf 1 2 3),
    (0b01_01000001_00011_00010_00001_011110_1#32, .vfsub .bf 1 2 3),
    (0b01_01000010_00011_00010_00001_011110_1#32, .vfmul .bf 1 2 3),
    (0b01_01000011_00011_00010_00001_011110_1#32, .vfdiv .bf 1 2 3),
    (0b01_01000100_00011_00010_00001_011110_1#32, .vfmin .bf 1 2 3),
    (0b01_01000101_00011_00010_00001_011110_1#32, .vfmax .bf 1 2 3),
    (0b100100011000000_00010_00001_011110_1#32, .vrcpe 1 2),
    (0b100100011100000_00010_00001_011110_1#32, .vrsqe 1 2),
    (0b00_01_0_00100_00011_00010_00001_011111_1#32, .vfma .bf 1 2 3 4),
    (0b00_01_1_00100_00011_00010_00001_011111_1#32, .vfnma .bf 1 2 3 4)] = true := by decide +kernel

/-- R259, R262, R263, R264, R265. -/
theorem test_decode_vector_moves : reads32 [
    (0b101001010011_000_00010_00001_100000_1#32, .vld 1 2 0xa53),
    (0b101001010011_001_00010_00001_100000_1#32, .vst 1 2 0xa53),
    (0b101001010011_010_00010_00001_100000_1#32, .vlds 1 2 0xa53),
    (0b101001010011_011_00010_00001_100000_1#32, .vsts 1 2 0xa53),
    (0b011_000000000100_00010_00001_100000_1#32, .vgath 1 2 3),
    (0b011_000000000101_00010_00001_100000_1#32, .vscat 1 2 3),
    (0b10_0000000000000_00010_00001_100001_1#32, .vbcast .w 1 2),
    (0b10_00000001_00011_00010_00001_100001_1#32, .vext .w 1 2 3),
    (0b10_00000010_00011_00010_00001_100001_1#32, .vins .w 1 2 3),
    (0b10_00000011_00011_00010_00001_100001_1#32, .vsel .w 1 2 3),
    (0b10_011_00100_00011_00010_00001_100001_1#32, .vcmp (.int .ge .w) 1 2 3),
    (0b10_00000110_00011_00010_00001_100001_1#32, .vperm .w 1 2 3),
    (0b10_010_0010100000_00010_00001_100001_1#32, .vred (.int .max .w) 1 2),
    (0b00110_0011100000_00010_00001_100001_1#32, .vcvt .e4m3S 1 2),
    (0b10_0000100000000_00010_00001_100001_1#32, .vpack .bx7 1 2),
    (0b10_0000100100000_00010_00001_100001_1#32, .vunpk .bx7 1 2)] = true := by decide +kernel

/-- R286, R287, R288. -/
theorem test_decode_matrix : reads32 [
    (0b0000_1_00100_00011_00010_00001_100010_1#32, .mma .acc1 1 2 3 4),
    (0b0001_1_000000000000000_00001_100010_1#32, .accz .acc1 1),
    (0b0010_1_0000000000_00010_00001_100010_1#32, .accld .acc1 1 2),
    (0b0011_1_0000000000_00010_00001_100010_1#32, .accst .acc1 1 2),
    (0b0100_1_000000000000000_00001_100010_1#32, .accmv .acc1 1),
    (0b01010_00100_00011_00010_00001_100010_1#32, .wbld 1 2 3 4)] = true := by decide +kernel

/-- R140, R141, R142, R143, R149, R154. -/
theorem test_decode_copy_and_streams : reads32 [
    (0b000000000000000_00010_00001_100011_1#32, .shpchk 1 2),
    (0b0001_1_00100_00011_00010_00001_100011_1#32, .cpyin .cp1 1 2 3 4),
    (0b0010_1_00100_00011_00010_00001_100011_1#32, .cpyout .cp1 1 2 3 4),
    (0b0011_1_00100_00011_00010_00001_100011_1#32, .cpyll .cp1 1 2 3 4),
    (0b0100_1_000000000000000_00001_100011_1#32, .cstat .cp1 1),
    (0b000000000000000_00010_11110_100100_1#32, .sbind 2 2),
    (0b00000000010000000000_11110_100100_1#32, .sunb 2),
    (0b000000001000000_11110_00001_100100_1#32, .qcnt 1 2),
    (0b000000010000000_00010_00111_100100_1#32, .sbindV 1 2),
    (0b00000001010000000000_00111_100100_1#32, .sunbV 1),
    (0b000000011000000_00111_00001_100100_1#32, .qcntV 1 1),
    (0b0010000000_00011_00010_00001_100101_1#32, .halo 1 2 3)] = true := by decide +kernel

/-- R163, R164, R165, R168, R173, R176, R177. -/
theorem test_decode_groups_and_collectives : reads32 [
    (0b0000000000_00011_00010_00001_100101_1#32, .xchg 1 2 3),
    (0b0_1_001_00100_00011_00010_00001_100101_1#32, .mcast true 1 2 3 4),
    (0b0_1_010_00100_00011_00010_00001_100101_1#32, .mcastWin true 1 2 3 4),
    (0b10_011_00100_00011_00010_00001_100101_1#32, .reduce .min 1 2 3 4),
    (0b0000000000_00011_00010_00001_100110_1#32, .gjoin 1 2 3),
    (0b000000000100000_00010_00001_100110_1#32, .gleave 1 2),
    (0b0000000010_00011_00010_00000_100110_1#32, .gbar 2 3),
    (0b000000001100000_00010_00001_100110_1#32, .garr 1 2),
    (0b0000000100_00011_00010_00000_100110_1#32, .gwait 2 3),
    (0b0000000101_00011_00010_00001_100110_1#32, .ginfo 1 2 3)] = true := by decide +kernel

/-- R144, R155, R362, R364, R366, R368. -/
theorem test_decode_waits_and_alarms : reads32 [
    (0b0000_010_000_00011_00010_00000_100111_1#32, .cwait .mx 2 3),
    (0b0000_010_001_00011_00010_00000_100111_1#32, .hwait .s 2 3),
    (0b000000001000000_00010_00000_100111_1#32, .waitc 2),
    (0b0000000011_00011_00010_00000_100111_1#32, .waitw 2 3),
    (0b0000000100_00011_00000_00001_100111_1#32, .waita 1 3),
    (0b00000000000000000000_00001_101001_1#32, .rdcyc 1),
    (0b00000000010000000000_00001_101001_1#32, .rdwall 1),
    (0b00000_1_001000000_00010_00000_101001_1#32, .alc 0x1 2),
    (0b00000_1_001100000_00010_00000_101001_1#32, .alw 0x1 2),
    (0b00000_1_0100000000000000000_101001_1#32, .alx 0x1),
    (0b000000010100000_00010_00000_101001_1#32, .dlarm 2),
    (0b0000000110000000000000000_101001_1#32, .dlclr)] = true := by decide +kernel

/-- R335, R336, R337, R338, R339, R340, R341. -/
theorem test_decode_messages_and_tasks : reads32 [
    (0b00110101_00_00011_00010_00000_101000_1#32, .send 2 3 0x35),
    (0b00110101_01_00011_00010_00000_101000_1#32, .sendr 2 3 0x35),
    (0b00110101_1000000_00010_00001_101000_1#32, .spawn 1 2 0x35),
    (0b0000000011_00011_00010_00001_101000_1#32, .join 1 2 3),
    (0b0000000111_00011_00010_00001_101000_1#32, .bind 1 2 3),
    (0b000000101100000_00010_00001_101000_1#32, .unbind 1 2),
    (0b0000001111_00011_00010_00001_101000_1#32, .reside 1 2 3),
    (0b0000010011_00011_00010_00001_101000_1#32, .rule 1 2 3),
    (0b0000010111_00011_00010_00001_101000_1#32, .codeld 1 2 3)] = true := by decide +kernel

/-- R86, R88, R217, R219, R220, R221, R222, R356, R399, R400. -/
theorem test_decode_control_and_system : reads32 [
    (0b000_110001110010_00000_00001_101010_1#32, .crr 1 0xc72),
    (0b001_110001110010_00010_00000_101010_1#32, .crw 0xc72 2),
    (0b010_110001110010_00010_00001_101010_1#32, .crs 1 0xc72 2),
    (0b011_110001110010_00010_00001_101010_1#32, .crc 1 0xc72 2),
    (0b101101_0000000000000000000_101011_1#32, .trap 0x2d),
    (0b101101_0010000000000000000_101011_1#32, .brk 0x2d),
    (0b0000000001000000000000000_101011_1#32, .tret),
    (0b0000000011000000000000000_101011_1#32, .taskDone),
    (0b0000000100000000000000000_101011_1#32, .yieldCtx),
    (0b0000000101_00011_00010_00000_101011_1#32, .tlbinv 2 3),
    (0b0000000110_00011_00010_00001_101011_1#32, .pgmove 1 2 3),
    (0b000000011100000_00010_00000_101011_1#32, .swapok 2),
    (0b000000000000000_00010_00001_101100_1#32, .dpoint 1 2),
    (0b000000000100000_00010_00001_101100_1#32, .rddig 1 2)] = true := by decide +kernel

/-- R54. -/
theorem test_decode_halfword_forms : reads16 [
    (0b101101_00010_0000_0#16, .hAddi 2 0x2d),
    (0b101101_00010_0001_0#16, .hSeti 2 0x2d),
    (0b0_00011_00010_0010_0#16, .hCopy 2 3),
    (0b1_00011_00010_0010_0#16, .hAdd 2 3),
    (0b0_00011_00010_0011_0#16, .hSub 2 3),
    (0b1_00011_00010_0011_0#16, .hAnd 2 3),
    (0b101101_00010_0100_0#16, .hShl 2 0x2d),
    (0b101101_00010_0101_0#16, .hShr 2 0x2d),
    (0b101101_00010_0110_0#16, .hLds 2 0x2d),
    (0b101101_00010_0111_0#16, .hSds 2 0x2d),
    (0b101101_00010_1000_0#16, .hBz 2 0x2d),
    (0b101101_00010_1001_0#16, .hBnz 2 0x2d),
    (0b10110100011_1010_0#16, .hJmp 0x5a3),
    (0b000000_00010_1011_0#16, .hJreg 2),
    (0b100000_00010_1011_0#16, .hCallr 2),
    (0b000000000001100_0#16, .hDone)] = true := by decide +kernel

/-- R24: the two illegal words; R41: the float format 3 is reserved. -/
theorem test_decode_illegal : (decode32 0xFFFFFFFF#32).toOption = none ∧ (decode16 0#16).toOption = none
    ∧ (decode32 0b11_000_00001_00011_00010_00001_011011_1#32).toOption = none := by decide +kernel

/-! ## Well-formedness: for each check a term that it refuses -/

/-- R29, R43, R333, R30, R54: equal conversion types, classes that no SEND, SENDR or SPAWN names, register numbers that
no register has, and x0 where a 16-bit form excludes it. -/
theorem test_wf_instructions :
    ([.fcvtFf .rne .s .s 1 2, .send 1 2 0x06, .send 1 2 0x0F, .sendr 1 2 0x0E, .spawn 1 2 0x09, .crr 1 0x005, .crw 0xC76 1,
      .crs 1 0xCC2 2, .crc 1 0x083 2, .hAddi 0 1, .hSeti 0 1, .hCopy 0 1, .hAdd 0 1, .hSub 0 1, .hAnd 0 1, .hShl 0 1, .hShr 0 1,
      .hLds 0 1, .hJreg 0, .hCallr 0] : List Instr).all (fun i => !i.wf) = true
    ∧ ([.fcvtFf .rne .s .h 1 2, .send 1 2 0x07, .send 1 2 0x0E, .sendr 1 2 0x10, .spawn 1 2 0xFF, .crr 1 0x004, .crw 0xC75 1,
      .crs 1 0xCC1 2, .crc 1 0x082 2, .hAddi 1 1, .hSeti 1 1, .hCopy 1 0, .hAdd 1 0, .hSub 1 0, .hAnd 1 0, .hShl 1 0, .hShr 1 0,
      .hLds 1 1, .hSds 0 1, .hJreg 1, .hCallr 1] : List Instr).all (fun i => i.wf) = true := by decide +kernel

/-- R2 and R204: a core, a context or an octet that the die has not. -/
theorem test_wf_cores :
    ([.pageTableWalk ⟨12288, 0, 0, .read, false⟩, .pageTableWalk ⟨0, 20, 0, .read, false⟩, .taskStart 12288, .firingStart 12288,
      .messageAcceptance 12288 (msg 0x10), .refused 12288 (msg 0x10) false, .refusedMessageResend 12288 0 0,
      .refusedMessageResend 0 3 0, .withdrawal 12288 0 0 0 0 0, .withdrawal 0 0 0 3 0 0, .storeAcknowledgement 12288 0,
      .decombineSplit 1536 0 .retry, .decombineSplit 0 32 .retry, .amoLimitExpiry ⟨0, 12288, 0, 0⟩, .amoLimitExpiry ⟨0, 0, 9, 0⟩,
      .pageLineCopy 272 0, .pageLineCopy 0 4, .channelOperationStart 12288 .cp0, .channelOperationComplete 12288 .cp0 1,
      .engineFault 12288 .cp0 1 ⟨0, 0⟩, .streamRefill 12288 0 0, .streamRefill 0 8 0, .streamRefill 0 0 6,
      .haloPush ⟨7, 0, 1, 12288, .n, 4, []⟩, .collectiveOperationStart 12288, .collectiveOperationComplete 12288,
      .engineAcknowledgement 12288 0, .barrierRelease 12288 ⟨0, 0⟩ 0, .barrierRelease 0 ⟨64, 0⟩ 0, .joinDelivery ⟨12288, 0, 0, 0, 0, 0⟩, .drainMessagePost 12288,
      .swapControl 12288 0, .swapControl 0 12288, .swapExchange 12288 0, .swapExchange 0 12288, .swapExchangeEnd 12288 0,
      .swapExchangeEnd 0 12288, .alarmFire 12288 0 0, .alarmFire 0 8 0, .alarmFire 0 0 2, .deadlineTrap 12288 0, .deadlineTrap 0 8,
      .waitDeadlineExpiry 12288 0, .waitDeadlineExpiry 0 8, .waitTargetReached 12288 0, .waitTargetReached 0 8,
      .mxstatRecover 12288, .stkcfgWrite 12288 0] : List Instr).all (fun i => !i.wf) = true := by decide +kernel

/-- R2, R310, R57, R358: an octet, a partition, a rail, a port or an amount out of its range. -/
theorem test_wf_places :
    ([.matrixCommandStart 1536 false, .matrixCommandComplete 1536 false 1, .locatorCorrection 1536 0 0 0,
      .ratioWindowEnd 1536, .regulatorRequestChange 1536, .retentionEntry 1536, .gatingEntry 1536,
      .octetWake 1536 ⟨false, [], false, [], [], []⟩, .retentionTimedWake 1536, .supplyChange ⟨1536, 0⟩ 1, .supplyChange ⟨0, 9⟩ 1, .supplyChange ⟨0, 0⟩ 0,
      .barrierArrival 64 0 0, .supervisorNotice ⟨64, 0, 1, 0, []⟩, .supervisorNotice ⟨0, 1536, 1, 0, []⟩,
      .noticeResend ⟨64, 0, 1, 0, []⟩, .noticeResend ⟨0, 1536, 1, 0, []⟩, .swapInstant 64, .launchStart 64 0, .launchStart 0 4,
      .launchComplete 64 0, .launchEndByFault 64 0 0 0 0, .phaseLoss 16, .supplyEmergency 16, .emergencyClear 16,
      .fltgenAdvance 64, .fltkill 64 0, .svlocWrite 64 0, .hostepWrite 64 0, .prosanFlitReceive 8 ⟨true, true, true, false, []⟩,
      .linkDegrade 8, .linkTraining 8 0, .linkTraining 0 4096, .linkKeyRenewal 8, .hostCommand 64 ⟨0, true, true, true⟩ [], .hostCommand 0 ⟨4, true, true, true⟩ [],
      .rmaWrite 64 ⟨⟨0, true, true, true⟩, 0⟩ 0 [], .rmaRead 64 ⟨⟨0, true, true, true⟩, 0⟩ 0 0, .sessionStart 64 [], .logStallExpiry 64 0, .replayHoldExpiry 64 0,
      .writeQueueEntryFree 272, .groupEntryUpdate ⟨⟨0, 0, 0, 0⟩, 64, 0, .leave⟩, .logReaderEntry 64, .wallDiscipline 101,
      .wallDiscipline (-101)] : List Instr).all (fun i => !i.wf) = true := by decide +kernel

/-! ## Registers, memory, issue and fetch -/

theorem test_register_zero : ((Ctx.reset.putX 0 5).getX 0, (Ctx.reset.putX 3 5).getX 3, (Ctx.reset.putX 3 5).getX 4) = (0, 5, 0) := by
  decide +kernel

theorem wit_memory : Memory.wf base.mem = true ∧ ((base.write 0x100 4 0x11223344).byte 0x100, (base.write 0x100 4 0x11223344).byte 0x103)
    = (0x44, 0x11) := by decide +kernel

/-- Two ready contexts of different priorities, and a core with none. -/
def ranked : State := base.modCore 0 fun k => { k with ctxs := k.ctxs.set 5 { task with run := .task 16 3 none false } }
theorem wit_choose : (∀ j, j < 8 → (ranked.ctx 0 j).run.prio < 4) ∧ ranked.choose 0 = some 5 ∧ State.reset.choose 0 = none := by
  decide +kernel

/-- Core 0 with halfwords in its code store and its pc. -/
def codeAt (pc : Word) (l : List (Nat × Nat)) : State :=
  (l.foldl (fun s p => s.write (codeKey 0 p.1) 2 p.2) base).modF fun c => { c with pc := pc }

/-- Core 0 is to run VADD, which its quad's unit accepts once in a cycle. -/
def vectorNext : State := codeAt 0 [(0, 0x20BD), (2, 0x8006)]
theorem wit_offers : vectorNext.offers 0 = true ∧ vectorNext.quadTakes 0 = true ∧ vectorNext.choose 0 = some 0
    ∧ (vectorNext.quadTook 0).quadTakes 0 = false ∧ (vectorNext.quadTook 0).choose 0 = none := by decide +kernel

/-- The partition of vectorNext is being pre-empted: only a vector load that has read a word goes on. -/
def preempted0 (l : List (Nat × Word)) : State :=
  { vectorNext.modCore 0 fun q => { q with ctxs := q.ctxs.set 1 { task with vread := l } } with
    parts := [(0, { part with stage := .preempting 1 })] }
theorem wit_finishes : (preempted0 []).coreRuns 0 = false ∧ (preempted0 []).choose 0 = none ∧ (preempted0 [(0x100, 5)]).choose 0 = some 1
    ∧ (preempted0 [(0x100, 5)]).finishes 0 = true := by decide +kernel

/-- What a fetch gives: the kind, the instruction, the word. -/
def shown (f : Fetched) : Nat × Option Instr × Nat :=
  match f with | .trap c v => (c.toNat, none, v.toNat) | .illegal w => (0, none, w.toNat) | .instr i => (1, some i, 0)

/-- R22 and R23 at the end of the code store: the last halfword may hold a 16-bit instruction, not a 32-bit one; the last
32-bit instruction stands at 16380. -/
theorem wit_fetch : (base.core 0).badCode = []
    ∧ shown ((codeAt 16383 []).fetch 0 0) = (5, none, 16383) ∧ shown ((codeAt 16384 []).fetch 0 0) = (5, none, 16384)
    ∧ shown ((codeAt 16382 [(16382, 0x18)]).fetch 0 0) = (1, some .hDone, 0) ∧ shown ((codeAt 0 []).fetch 0 0) = (0, none, 0)
    ∧ shown ((codeAt 16382 [(16382, 1)]).fetch 0 0) = (5, none, 16382)
    ∧ shown ((codeAt 16380 [(16380, 0x2083), (16382, 0x0006)]).fetch 0 0) = (1, some (.add 1 2 3), 0)
    ∧ shown ((codeAt 16380 [(16380, 0xFFFF), (16382, 0xFFFF)]).fetch 0 0) = (0, none, 0xFFFFFFFF) := by decide +kernel

/-- A machine whose next turn issues from core 0, where context 0 is to run ADD x1, x2, x3. -/
def issuing : State := { codeAt 0 [(0, 0x2083), (2, 0x0006)] with turns := [.issue 0] }
theorem wit_step : issuing.due.isNone = true ∧ issuing.turns = [.issue 0] ∧ issuing.coreRuns 0 = true
    ∧ (issuing.core 0).lastIssue ≠ some (issuing.cycle 0) ∧ issuing.choose 0 = some 0
    ∧ (({ issuing with turns := [], focusCore := 0, focusCtx := 0 } : State).takeDeadline 0 0).isNone = true
    ∧ shown (({ issuing with turns := [], focusCore := 0, focusCtx := 0 } : State).fetch 0 0) = (1, some (.add 1 2 3), 0) := by
  decide +kernel
theorem test_step : ((next (step { issuing with cores := (codeAt 0 [(0, 0x2083), (2, 0x0006)] |>.modF fun c =>
    (c.putX 2 40).putX 3 2).cores })).ctx 0 0).getX 1 = 42 := by decide +kernel

/-- The first step after a word is placed runs it: ADDI x1, x0, 7. -/
theorem test_place : ((next (step (State.reset.withFetchWord 32 0b000000000000111_00000_00001_000100_1))).ctx 0 0).getX 1 = 7
    ∧ decodeTableWord 32 0b000000000000111_00000_00001_000100_1 = some (.addi 1 0 7) := by decide +kernel

theorem wit_encode : (.addi 1 0 7 : Instr).wf = true ∧ encode (.addi 1 0 7) = .w32 0b000000000000111_00000_00001_000100_1#32 := by
  decide +kernel

/-- A step from a canonical memory; and reset, where a core without a task issues nothing. -/
theorem wit_memory_step : Memory.wf issuing.mem = true ∧ (match step issuing with | .next _ => true | _ => false) = true
    ∧ Memory.wf State.reset.mem = true := by decide +kernel
/-! ## Integer instructions, branches and 16-bit forms -/

/-- Two operands, −7 and 2. -/
def two : State := regs [(2, -7), (3, 2)]

/-- The witness of the register operations, and R209's worked division. -/
theorem wit_registerOperations : Reads two 2 (-7) two ∧ Reads two 3 2 two := ⟨readsOf (by decide +kernel), readsOf (by decide +kernel)⟩

/-- A bound stream register: the position that its port has read pops. -/
def streaming : State :=
  base.modF fun c => { c with streams := c.streams.set 0 (some ⟨false, 8, false, 256, [(8, 2)], 0, [some 5]⟩) }

theorem wit_pop : Reads streaming 28 ((5 : VWord).truncate 64)
    (streaming.popped 0 ⟨false, 8, false, 256, [(8, 2)], 0, [some 5]⟩) :=
  .pop 0 _ 5 [] (by decide +kernel) (by decide +kernel) (by decide +kernel) (by decide +kernel)

theorem test_divRem : (after (.div 1 2 3) two).getX 1 = -3 ∧ (after (.rem 1 2 3) two).getX 1 = -1 := by decide +kernel
theorem test_divZero : (after (.divu 1 2 0) (regs [(2, 0x1234)])).getX 1 = 0xFFFFFFFFFFFFFFFF
    ∧ (after (.remu 1 2 0) (regs [(2, 0x1234)])).getX 1 = 0x1234 := by decide +kernel
theorem test_mulhu : (after (.mulhu 1 2 2) (regs [(2, -1)])).getX 1 = 0xFFFFFFFFFFFFFFFE
    ∧ (after (.mulhsu 1 2 3) (regs [(2, -1), (3, 2)])).getX 1 = 0xFFFFFFFFFFFFFFFF := by decide +kernel
theorem test_words : (after (.addw 1 2 3) (regs [(2, 0x7FFFFFFF), (3, 1)])).getX 1 = 0xFFFFFFFF80000000
    ∧ (after (.sraw 1 2 3) (regs [(2, 0x80000000), (3, 4)])).getX 1 = 0xFFFFFFFFF8000000
    ∧ (after (.srlw 1 2 3) (regs [(2, 0x80000000), (3, 4)])).getX 1 = 0x0000000008000000 := by decide +kernel
theorem test_shiftCount : (after (.sll 1 2 3) (regs [(2, 1), (3, 65)])).getX 1 = 2 := by decide +kernel
theorem test_counts : (after (.clz 1 2) (regs [(2, 1)])).getX 1 = 63 ∧ (after (.ctz 1 2) (regs [(2, 0)])).getX 1 = 64 := by decide +kernel
theorem test_x0 : after (.addi 0 2 1) two = (two.done 4 id).fctx := by decide +kernel
theorem test_lui : (after (.lui 1 0x80000) base).getX 1 = 0xFFFFFFFF80000000 := by decide +kernel

/-- R213's worked case: core (12, 5) holds the relative address of core (10, 6) at offset 0x40. -/
def corner : State :=
  let s : State := { base with focusCore := 972 }
  s.modF fun c => ((({ c with run := .task 16 1 none false } : Ctx).putX 6 0xFD01FE0000000040).putX 8 2).putX 9 3

theorem wit_coreForm : coreForm corner.fpart corner.focusCore 0xFD01FE0000000040 = some (6 * 192 + 10, 0x40)
    ∧ coreForm corner.fpart corner.focusCore 0x40 = none ∧ Reads corner 6 0xFD01FE0000000040 corner
    ∧ Reads corner 8 2 corner := ⟨by decide +kernel, by decide +kernel, readsOf (by decide +kernel), readsOf (by decide +kernel)⟩

theorem test_lcr : (after (.lcr 7 6 8) corner).getX 7 = 0xFE060A0000000040
    ∧ next (exec (.lcr 7 6 0) corner) = corner.trapped 0x05 0xFD01FE0000000040
    ∧ next (exec (.lcr 7 6 9) corner) = corner.trapped 0x05 3 := by decide +kernel
theorem test_lcx : (after (.lcx 8 6) corner).getX 8 = 0x00000000060A0040 := by decide +kernel
theorem test_lca : (after (.lca 1 2 16383) (regs [(2, 49152)])).getX 1 = 0xFC0000000000FFFF
    ∧ next (exec (.lca 1 2 16383) (regs [(2, 49153)])) = (regs [(2, 49153)]).trapped 0x05 65536 := by decide +kernel

/-- A branch taken inside the code store, at its end, and before its start. -/
theorem wit_branches : (base.fctx.pc + (4 : BitVec 12).signExtend 64 * 2).toNat < 16384
    ∧ 16384 ≤ (base.fctx.pc + (-1 : BitVec 12).signExtend 64 * 2).toNat := by decide +kernel
theorem test_bltu : (after (.bltu 3 2 4) two).pc = 8 ∧ (after (.blt 3 2 4) two).pc = 4
    ∧ next (exec (.bltu 3 2 (-1)) two) = two.trapped 0x05 (-2) := by decide +kernel
theorem test_bto : (after (.bto 4) base).pc = 4 ∧ (after (.bnto 4) base).pc = 8 := by decide +kernel
theorem test_jalr : (after (.jalr 2 2 0) (regs [(2, 16382)])).pc = 16382 ∧ (after (.jalr 2 2 0) (regs [(2, 16382)])).getX 2 = 4
    ∧ next (exec (.jalr 1 2 1) (regs [(2, 16)])) = (regs [(2, 16)]).trapped 0x04 17
    ∧ next (exec (.jalr 1 2 2) (regs [(2, 16382)])) = (regs [(2, 16382)]).trapped 0x05 16384 := by decide +kernel

theorem wit_halfwords : two.fpart.enabled .c16 = true ∧ Reads two 3 2 two ∧ two.Clear :=
  ⟨by decide +kernel, readsOf (by decide +kernel), clearOf (by decide +kernel)⟩
theorem test_halfwords : (after (.hAdd 2 3) two).getX 2 = -5 ∧ (after (.hAddi 3 (-2)) two).getX 3 = 0
    ∧ (after (.hCallr 3) two).getX 1 = 2 ∧ (after (.hCallr 3) two).pc = 2 ∧ (after (.hBnz 3 (-1)) (two.modF fun c => { c with pc := 8 })).pc = 6 := by
  decide +kernel
/-! ## Loads, stores and atomic operations -/

/-- base with translation: the page of VA 0 is frame 4 with the entry's low bits given, and is in the DTLB as entry old. -/
def paged (bits : Word) (old : List (Nat × Word × Word × Bool)) : State :=
  (((({ base with parts := [(0, { part with ptEn := true, ptBase := 1 })] } : State).write 0x10000 8 0x200001).write
    0x20000 8 0x300001).write 0x30000 8 (0x400000 + bits).toNat).modCore 0 fun c => { c with dtlb := old }

/-- An address that is no form, one not aligned, at the last byte of the local memory. -/
theorem wit_accessesCheckForm : ReadsAll (regs [(2, 2 ^ 55)]) [2] [2 ^ 55] (regs [(2, 2 ^ 55)])
    ∧ ReadsAll (regs [(2, own 65535)]) [2] [own 65535] (regs [(2, own 65535)])
    ∧ memForm (.lw 1 2 0) = some ([2], 0, 4, .read) ∧ target (regs [(2, 2 ^ 55)]).fpart 0 (2 ^ 55) = none
    ∧ target (regs [(2, own 65535)]).fpart 0 (own 65535) ≠ none ∧ (own 65535).toNat % 4 ≠ 0 :=
  ⟨readsAllOf (l := [(2, 2 ^ 55)]) (by decide +kernel), readsAllOf (l := [(2, own 65535)]) (by decide +kernel), by decide +kernel⟩
theorem test_accessesCheckForm : next (exec (.lw 1 2 0) (regs [(2, 2 ^ 55)])) = (regs [(2, 2 ^ 55)]).trapped 0x05 (2 ^ 55)
    ∧ next (exec (.lw 1 2 0) (regs [(2, own 65535)])) = (regs [(2, own 65535)]).trapped 0x04 (own 65535) := by decide +kernel

/-- A page whose entry, in the DTLB and in the table, permits reads alone. -/
def readOnly : State := paged 3 [(0, 0, 0x400003, false)]

theorem wit_deniedAccesses : memForm (.sd 3 2 8) = some ([2, 3], 8, 8, .write) ∧ ReadsAll readOnly [2, 3] [0, 0] readOnly
    ∧ target readOnly.fpart 0 8 = some (.virt 8) ∧ readOnly.fpart.ptEn = true
    ∧ tlbFind (readOnly.pidOf 0) 8 readOnly.fcore.dtlb = some (0x400003, false) ∧ permits 0x400003 .write = false
    ∧ readOnly.walk readOnly.fpart 8 = .leaf 0x400003 false 0x30000 :=
  ⟨by decide +kernel, readsAllOf (l := [(2, 0), (3, 0)]) (by decide +kernel), by decide +kernel⟩
theorem test_deniedAccess : (let c := after (.sd 3 2 8) (readOnly.modF fun c => { c with tvec := 8 }); (c.cause, c.tval, c.ih)) = (0x07, 8, true) := by
  decide +kernel

theorem wit_misses : (paged 3 []).fctx.mode = .ready ∧ target (paged 3 []).fpart 0 8 = some (.virt 8)
    ∧ (paged 3 []).fpart.ptEn = true ∧ tlbFind ((paged 3 []).pidOf 0) 8 (paged 3 []).fcore.dtlb = none
    ∧ tlbFind ((paged 3 []).pidOf 0) 8 ((paged 3 []).clusterTlb 0) = none ∧ mapGet [] (paged 3 []).walkers (clusterOf 0) = [] := by decide +kernel
theorem test_miss : after (.ld 1 2 8) (paged 3 []) = { (paged 3 []).fctx with mode := .walking 8 .read } := by decide +kernel
theorem test_parks : (next (exec (.pageTableWalk ⟨0, 0, 8, .read, false⟩) (next (exec (.ld 1 2 8) (paged 0 []))))).fctx.mode
    = .parked 8 .read 3 0 := by decide +kernel

/-- x2 holds the own address 0x100, whose word is 0x8877665544332211; x3 holds 5. -/
def local1 : State := words [(0x100, 0x8877665544332211)] (regs [(2, own 0x100), (3, 5)])

theorem wit_localLoads : local1.Clear ∧ Reads local1 2 (own 0x100) local1
    ∧ target local1.fpart 0 (own 0x100 + (7 : BitVec 12).signExtend 64) = some (.here 0 0x107)
    ∧ local1.poisoned (localKey 0 0x107) = false ∧ (own 0x107).toNat % 1 = 0 ∧ (own 0x100).toNat % 8 = 0 :=
  ⟨clearOf (by decide +kernel), readsOf (by decide +kernel), by decide +kernel⟩
theorem test_loads : (after (.lb 1 2 7) local1).getX 1 = 0xFFFFFFFFFFFFFF88 ∧ (after (.lhu 1 2 6) local1).getX 1 = 0x8877
    ∧ (after (.lw 1 2 4) local1).getX 1 = 0xFFFFFFFF88776655 ∧ (after (.ldacq 1 2 0) local1).getX 1 = 0x8877665544332211 := by
  decide +kernel

/-- The word at x2 is poisoned. -/
def poisoned1 : State := { local1 with poison := [localKey 0 0x100] }

theorem wit_loadsOfPoison : poisoned1.Clear ∧ Reads poisoned1 2 (own 0x100) poisoned1
    ∧ poisoned1.poisoned (localKey 0 0x100) = true
    ∧ target poisoned1.fpart 0 (own 0x100 + (0 : BitVec 12).signExtend 64) = some (.here 0 0x100) :=
  ⟨clearOf (by decide +kernel), readsOf (by decide +kernel), by decide +kernel⟩
theorem test_loadOfPoison : next (exec (.lb 1 2 0) poisoned1) = poisoned1.trapped 0x08 (own 0x100) := by decide +kernel

/-- A page of frame 4 that permits reads and writes: its home is memory port 4. -/
def writable : State := paged 7 [(0, 0, 0x400007, false)]

theorem pageOf' {s : State} {va : Word} {w : Nat} {k : Access} {pte : Word} {big : Bool}
    (h : target s.fpart s.focusCore va = some (.virt va) ∧ va.toNat % w = 0 ∧ s.fpart.ptEn = true
      ∧ tlbFind (s.pidOf s.focusCore) va s.fcore.dtlb = some (pte, big) ∧ permits pte k = true) :
    Resolves s va w k (leafDest pte big va) := .page pte big h.1 h.2.1 h.2.2.1 h.2.2.2.1 h.2.2.2.2

theorem wit_remoteLoads : writable.Clear ∧ Reads writable 2 0 writable
    ∧ Resolves writable 8 8 .read (leafDest 0x400007 false 8) ∧ Resolves writable 8 8 .write (leafDest 0x400007 false 8)
    ∧ leafDest 0x400007 false 8 = ⟨0, 0x40008, false, false⟩ ∧ writable.isHere ⟨0, 0x40008, false, false⟩ = false :=
  ⟨clearOf (by decide +kernel), readsOf (by decide +kernel),
    pageOf' (by decide +kernel), pageOf' (by decide +kernel),
    by decide +kernel⟩
theorem test_remoteLoad : (next (exec (.ld 1 2 8) writable)).flights.map (·.dst) = [12288 + 4]
    ∧ (after (.ld 1 2 8) writable).pc = 4 ∧ (after (.ld 1 2 8) writable).pending 1 = true := by decide +kernel

theorem wit_stores : ReadsAll local1 [2, 3] [own 0x100, 5] local1
    ∧ Resolves local1 (own 0x100 + (-1 : BitVec 12).signExtend 64) 1 .write ⟨0, localKey 0 0xFF, false, false⟩
    ∧ Resolves local1 (own 0x100) 8 .write ⟨0, localKey 0 0x100, false, false⟩ :=
  ⟨readsAllOf (l := [(2, own 0x100), (3, 5)]) (by decide +kernel),
    .core 0 0xFF (by decide +kernel) (by decide +kernel), .core 0 0x100 (by decide +kernel) (by decide +kernel)⟩
theorem test_store : (next (exec (.sb 3 2 (-1)) local1)).fcore.sb.map (·.req.op) = [.bytes (localKey 0 0xFF) 1 5]
    ∧ (next (exec (.sb 3 2 (-1)) local1)).mem = local1.mem := by decide +kernel
/-- The store's request, performed at the home: the byte below the word takes the low byte. -/
theorem test_storePerformed : ((next (exec (.sb 3 2 (-1)) local1)).flights.foldl (fun s f => next (runEv f.ev s))
    (next (exec (.sb 3 2 (-1)) local1))).byte (localKey 0 0xFF) = 5 := by decide +kernel

theorem wit_stackForms : (regs [(2, own 0x100), (3, 5)]).fpart.enabled .c16 = true
    ∧ ReadsAll local1 [2, 3] [own 0x100, 5] local1 ∧ target local1.fpart 0 (own 0x100 + BitVec.ofNat 64 (8 * 63)) = some (.here 0 0x2F8)
    ∧ Resolves local1 (own 0x100 + BitVec.ofNat 64 (8 * 63)) 8 .write ⟨0, localKey 0 0x2F8, false, false⟩
    ∧ local1.poisoned (localKey 0 0x2F8) = false :=
  ⟨by decide +kernel, readsAllOf (l := [(2, own 0x100), (3, 5)]) (by decide +kernel), by decide +kernel,
    .core 0 0x2F8 (by decide +kernel) (by decide +kernel), by decide +kernel⟩
theorem test_stackForms : (after (.hLds 1 0) local1).getX 1 = 0x8877665544332211 ∧ (after (.hLds 1 0) local1).pc = 2
    ∧ (next (exec (.hSds 3 63) local1)).fcore.sb.map (·.req.op) = [.bytes (localKey 0 0x2F8) 8 5] := by decide +kernel

theorem wit_reductions : Resolves local1 (own 0x104) 4 .amo ⟨0, localKey 0 0x104, false, false⟩ :=
  .core 0 0x104 (by decide +kernel) (by decide +kernel)
theorem test_reduction : (next (exec (.redmin true 2 3) local1)).fcore.sb.map (·.req.op) = [.red (localKey 0 0x100) 4 .min 5]
    ∧ (after (.redmin true 2 3) local1).dordE = 1 := by decide +kernel

theorem wit_localAmos : local1.Clear ∧ local1.fctx.lmode ≠ 2 ∧ local1.fctx.lmode ≠ 3
    ∧ ReadsAll local1 [2, 3] [own 0x100, 5] local1 ∧ Reads local1 4 0 local1
    ∧ target local1.fpart 0 (own 0x100) = some (.here 0 0x100) ∧ local1.poisoned (localKey 0 0x100) = false
    ∧ (own 0x100).toNat % 8 = 0 :=
  ⟨clearOf (by decide +kernel), by decide +kernel, by decide +kernel, readsAllOf (l := [(2, own 0x100), (3, 5)]) (by decide +kernel),
    readsOf (by decide +kernel), by decide +kernel⟩
theorem test_amoadd : (after (.amoadd false 1 2 3) local1).getX 1 = 0x8877665544332211
    ∧ (next (exec (.amoadd false 1 2 3) local1)).word (localKey 0 0x100) = 0x8877665544332216
    ∧ (next (exec (.amominu true 1 2 3) local1)).word (localKey 0 0x100) = 0x8877665500000005 := by decide +kernel
theorem test_amocas : (next (exec (.amocas false 1 2 3 4) local1)).mem = local1.mem
    ∧ (next (exec (.amocas false 1 2 3 2) (words [(0x100, own 0x100)] local1))).word (localKey 0 0x100) = 5
    ∧ (after (.amoadd false 1 2 3) local1).fflags = local1.fctx.fflags := by decide +kernel

/-- The word at x2 is full. -/
def full1 : State := { local1 with tags := [(localKey 0 0x100, 0)] }

theorem wit_fullEmptyActs : full1.Clear ∧ ReadsAll full1 [2, 4, 3] [own 0x100, 0, 5] full1 ∧ full1.fcore.waitTab = []
    ∧ full1.focusCore < 12288 ∧ full1.poisoned (localKey 0 0x100) = false ∧ target full1.fpart 0 (own 0x100 + (0 : BitVec 7).signExtend 64 * 8) = some (.here 0 0x100) ∧ full1.tag (localKey 0 0x100) = true
    ∧ local1.tag (localKey 0 0x100) = false ∧ full1.wallUnits < 5 * 1600000 :=
  ⟨clearOf (by decide +kernel), readsAllOf (l := [(2, own 0x100), (4, 0), (3, 5)]) (by decide +kernel), by decide +kernel⟩
theorem test_ldfe : (after (.ldfe 1 2 0 3) full1).getX 1 = 0x8877665544332211
    ∧ (next (exec (.ldfe 1 2 0 3) full1)).tag (localKey 0 0x100) = false := by decide +kernel
theorem test_stf : (next (exec (.stf 3 2 0 4) local1)).word (localKey 0 0x100) = 5
    ∧ (next (exec (.stf 3 2 0 4) local1)).tag (localKey 0 0x100) = true := by decide +kernel
theorem test_probe : (after (.probe 1 2 0) full1).getX 1 = 1 ∧ (after (.probe 1 2 0) local1).getX 1 = 0
    ∧ (next (exec (.sete 2 0) full1)).tag (localKey 0 0x100) = false ∧ (next (exec (.ste 3 2 0) full1)).word (localKey 0 0x100) = 5 := by
  decide +kernel

/-- Wall has come to 5 ns, the time in x3. -/
def late1 : State := { local1 with wallUnits := 5 * 1600000 }

theorem wit_fullEmptyTimesOutOrWaits : Reads late1 3 5 late1 ∧ (5 : Word) ≠ 0 ∧ (5 : Word).toNat * 1600000 ≤ late1.wallUnits
    ∧ local1.wallUnits < (5 : Word).toNat * 1600000 ∧ local1.tag (localKey 0 0x100) = false ∧ full1.tag (localKey 0 0x100) = true :=
  ⟨readsOf (by decide +kernel), by decide +kernel⟩
theorem test_ldfTimesOut : (after (.ldf 1 2 0 3) late1).tmo = true ∧ (after (.ldf 1 2 0 3) late1).pc = 4
    ∧ (after (.ldf 1 2 0 3) local1).pc = 0 ∧ (next (exec (.ldf 1 2 0 3) local1)).flights.length = 1 := by decide +kernel

theorem test_fence : (after (.fence 2 4) base).fences.length = 1 ∧ (after (.fence 0 4) base).fences = []
    ∧ (after (.fence 0x80 4) base).fences = [] := by decide +kernel
/-! ## Floating point and vectors -/

/-- x2 to x4 hold binary32 1, 2^-24 and 3, boxed. -/
def floats : State := regs [(2, 0xFFFFFFFF3F800000), (3, 0xFFFFFFFF33800000), (4, 0xFFFFFFFF40400000)]

theorem wit_floats : floats.fpart.enabled .fp = true ∧ ReadsAll floats [2, 3, 4] [0xFFFFFFFF3F800000, 0xFFFFFFFF33800000, 0xFFFFFFFF40400000] floats :=
  ⟨by decide +kernel, readsAllOf (l := [(2, 0xFFFFFFFF3F800000), (3, 0xFFFFFFFF33800000), (4, 0xFFFFFFFF40400000)]) (by decide +kernel)⟩
/-- A tie goes to even under RNE and away under RUP, both inexact. -/
theorem test_fadd : (after (.fadd .s .rne 1 2 3) floats).getX 1 = 0xFFFFFFFF3F800000
    ∧ (after (.fadd .s .rup 1 2 3) floats).getX 1 = 0xFFFFFFFF3F800001
    ∧ (after (.fadd .s .rne 1 2 3) floats).fflags = excIX := by decide +kernel
theorem test_fma : (after (.fma .s 1 4 4 2) floats).getX 1 = 0xFFFFFFFF41200000
    ∧ (after (.fnms .s 1 4 4 2) floats).getX 1 = 0xFFFFFFFFC1200000 := by decide +kernel
theorem test_unboxed : (after (.feq .s 1 2 2) floats).getX 1 = 1
    ∧ (after (.fadd .s .rne 1 2 0) floats).getX 1 = 0xFFFFFFFF7FC00000 := by decide +kernel

/-- Binary64 2.5, −2^63 and 2^63. -/
def doubles : State := regs [(2, 0x4004000000000000), (3, 0xC3E0000000000000), (4, 0x43E0000000000000)]

theorem wit_conversions : Reads doubles 2 0x4004000000000000 doubles
    ∧ fmtD.val (unbox fmtD 0x4004000000000000) = .fin false 0x14000000000000 (-51)
    ∧ fmtD.val (unbox fmtD 0x7FF0000000000000) = .inf false ∧ fmtD.val (unbox fmtD 0x7FF8000000000000) = .nan false :=
  ⟨readsOf (by decide +kernel), by decide +kernel⟩
theorem test_fcvt : (after (.fcvtI .rne .d .w 1 2) doubles).getX 1 = 2 ∧ (after (.fcvtI .rmm .d .w 1 2) doubles).getX 1 = 3
    ∧ (after (.fcvtI .rtz .d .l 1 3) doubles).getX 1 = 0x8000000000000000
    ∧ (after (.fcvtI .rtz .d .l 1 4) doubles).getX 1 = 0x7FFFFFFFFFFFFFFF
    ∧ (after (.fcvtI .rtz .d .l 1 4) doubles).fflags = excIV ||| excIX := by decide +kernel
theorem test_fcvtF : (after (.fcvtF .rne .l .d 1 2) (regs [(2, -2)])).getX 1 = 0xC000000000000000
    ∧ (after (.fcvtFf .rne .d .s 1 2) doubles).getX 1 = 0xFFFFFFFF40200000 := by decide +kernel

/-- Rounding at and beyond a multiple; a value that is not boxed, and one that is. -/
theorem wit_rounding : (3 : Int) ≤ 4 ∧ (2 : Int) < 4 ∧ roundMul .rne false 6 2 4 = (2, true) ∧ roundMul .rtz false 6 2 4 = (1, true)
    ∧ roundMul .rdn true 5 2 4 = (2, true) ∧ roundMul .rmm false 2 3 4 = (1, false) := by decide +kernel
theorem wit_boxed : fmtS ∈ [fmtH, fmtBf, fmtS, fmtD] ∧ ((1 : Word)).toNat < 2 ^ 64 - 2 ^ fmtS.width := by decide +kernel

/-- v1 holds lanes of 0x01, v2 of 0xFF; x2 is the own address 0x100, x3 holds 5. -/
def vecs : State := local1.modF fun c => (c.putV 1 (BitVec.ofNat 512 (2 ^ 512 / 255))).putV 2 (BitVec.allOnes 512)

theorem wit_vectors : vecs.fpart.enabled .vec = true ∧ ReadsV vecs 1 (BitVec.ofNat 512 (2 ^ 512 / 255)) vecs
    ∧ ReadsV vecs 2 (BitVec.allOnes 512) vecs ∧ ReadsV vecs 3 0 vecs :=
  ⟨by decide +kernel, readsVOf (by decide +kernel), readsVOf (by decide +kernel), readsVOf (by decide +kernel)⟩
theorem test_vadd : (after (.vadd .b 0 1 2) vecs).getV 0 = 0
    ∧ lane 16 31 ((after (.vsub .h 0 1 2) vecs).getV 0) = 0x0102 := by decide +kernel
theorem test_vshift : lane 8 63 ((after (.vsll .b 0 2 1) vecs).getV 0) = 0xFE
    ∧ lane 8 63 ((after (.vsra .b 0 2 1) vecs).getV 0) = 0xFF := by decide +kernel
theorem test_vfadd : lane 32 15 ((after (.vfadd .s 0 3 3) vecs).getV 0) = 0
    ∧ lane 32 15 ((after (.vfmin .s 0 3 2) vecs).getV 0) = 0 := by decide +kernel

theorem vecOkOf {s : State} {va : Word} {n : Nat} (h : va.extractLsb' 16 48 = 0xFC0000000000 ∧ va.toNat % n = 0
    ∧ s.poisoned (localKey s.focusCore (va.toNat % 65536)) = false) : s.VecOk va n := ⟨h.1, h.2.1, h.2.2⟩

theorem wit_vectorMemory : vecs.Clear ∧ Reads vecs 2 (own 0x100) vecs ∧ vecs.VecOk (own 0x100) 64
    ∧ (∀ j, j < 8 → vecs.poisoned (vecs.ownKey (own 0x100) + 8 * j) = false) ∧ vecs.focusCore < 12288 ∧ vecs.fctx.vread = []
    ∧ (∀ j, j < 16 → vecs.VecOk (own 0x100 + BitVec.ofNat 64 j * (-16 : BitVec 12).signExtend 64) 4)
    ∧ (∀ j, j < 16 → vecs.VecOk (own 0x100 + (lane 32 j (0 : VWord)).setWidth 64) 4) :=
  ⟨clearOf (by decide +kernel), readsOf (by decide +kernel), vecOkOf (by decide +kernel),
    by decide +kernel, by decide +kernel, by decide +kernel, fun j h => vecOkOf (by revert j; decide +kernel),
    fun j h => vecOkOf (by revert j; decide +kernel)⟩
/-- VLD reads one word at each issue; the last one writes v[rd]. -/
theorem test_vld : (after (.vld 0 2 0) vecs).vread = [(0x100, 0x8877665544332211)] ∧ (after (.vld 0 2 0) vecs).pc = 0
    ∧ lane 64 6 ((after (.vld 0 2 0) (vecs.modF fun c => { c with vread := (List.range 7).map fun j => (0x100 + 8 * j, BitVec.ofNat 64 j) })).getV 0) = 6
    ∧ lane 32 15 ((after (.vgath 0 2 3) vecs).getV 0) = 0x44332211 := by decide +kernel
theorem test_vst : ((next (exec (.vst 1 2 0) vecs)).fcore.sb.map (·.req.op)) = [.lanes ((List.range 8).map fun j =>
    (localKey 0 (0x100 + 8 * j), 8, 0x0101010101010101))] := by decide +kernel

/-- The second strided address leaves the own-core form downwards; the first one is misaligned in the other state. -/
theorem wit_vectorAddresses : (own 0 + (1 : Word) * (-4 : BitVec 12).signExtend 64).extractLsb' 16 48 ≠ 0xFC0000000000
    ∧ (own 0).extractLsb' 16 48 = 0xFC0000000000 ∧ (own 0).toNat % 4 = 0
    ∧ (own 2).extractLsb' 16 48 = 0xFC0000000000 ∧ (own 2).toNat % 4 ≠ 0 := by decide +kernel
theorem test_vlds : next (exec (.vlds 0 2 (-4)) (regs [(2, own 0)])) = (regs [(2, own 0)]).trapped 0x05 (own 0 - 4)
    ∧ next (exec (.vlds 0 2 4) (regs [(2, own 2)])) = (regs [(2, own 2)]).trapped 0x04 (own 2) := by decide +kernel

theorem wit_vectorMoves : ReadsV vecs 1 (BitVec.ofNat 512 (2 ^ 512 / 255)) vecs ∧ Reads vecs 3 5 vecs ∧ Reads vecs 4 0 vecs
    ∧ vecs.fpart.enabled .bxf = true :=
  ⟨readsVOf (by decide +kernel), readsOf (by decide +kernel), readsOf (by decide +kernel), by decide +kernel⟩
theorem test_vext : (after (.vext .b 1 2 3) vecs).getX 1 = -1 ∧ (after (.vext .d 1 2 2) vecs).getX 1 = 0
    ∧ lane 64 5 ((after (.vins .d 0 3 3) vecs).getV 0) = 5 ∧ lane 64 4 ((after (.vbcast .d 0 3) vecs).getV 0) = 5 := by decide +kernel
theorem test_vcmp : (after (.vcmp (.int .lt .b) 0 2 1) vecs).getV 0 = BitVec.allOnes 512
    ∧ (after (.vcmp (.int .ltu .b) 0 2 1) vecs).getV 0 = 0 := by decide +kernel
theorem test_vpack : (after (.vpack .bx7 0 3) vecs).getV 0 = 0 ∧ (after (.vunpk .bx7 0 3) vecs).getV 0 = 0 := by decide +kernel

/-- A partition without floating point and without block formats. -/
def plain1 : State := { base with parts := [(0, { part with featmask := 0 })] }

theorem wit_disabledFeatures : featureOf (.fadd .s .rne 1 2 3) = some .fp ∧ plain1.fpart.enabled .fp = false
    ∧ plain1.fpart.enabled .bxf = false := by decide +kernel
theorem test_illfeat : next (exec (.fadd .s .rne 1 2 3) plain1) = plain1.trapped 0x02 (encode (.fadd .s .rne 1 2 3)).toWord
    ∧ next (exec .hDone plain1) = plain1.trapped 0x02 0x0018 := by decide +kernel
/-! ## The matrix unit, the copy channels and streams -/

/-- x2 holds the own address 0x1000, x3 zero and x4 64: an MMA of K = 64 from there and from the buffer's start. -/
def mats : State := regs [(2, own 0x1000), (3, 0), (4, 64), (5, own 0x40)]

theorem spanOf {va : Word} {k n : Nat} (h : va.extractLsb' 16 48 = 0xFC0000000000 ∧ va.toNat % k = 0
    ∧ va.toNat % 65536 + n ≤ 65536) : ownSpan va k n := h

theorem wit_matrixTakesANumber : mats.Clear ∧ ReadsAll mats [2, 3, 4] [own 0x1000, 0, 64] mats
    ∧ ownSpan (own 0x1000) 64 4096 ∧ ownSpan (own 0x40) 8 64 ∧ mats.fpart.enabled .mat = true ∧ (mats.fcore.mx).queue.length < 4
    ∧ mmaCode (afmt mats.fctx.mfmt) (bfmt mats.fctx.mfmt) (own 0x1000) 0 64 mats.fctx.mascale mats.fctx.mbscale.toNat = 0
    ∧ mats.fcore.wOf .acc0 ≤ mats.fcore.mxq ∧ (0 : Word).toNat + (64 : Word).toNat ≤ 262144 :=
  ⟨clearOf (by decide +kernel), readsAllOf (l := [(2, own 0x1000), (3, 0), (4, 64)]) (by decide +kernel), spanOf (by decide +kernel),
    spanOf (by decide +kernel), by decide +kernel⟩
theorem test_mma : (after (.mma .acc1 1 2 3 4) mats).getX 1 = 1 ∧ (next (exec (.mma .acc1 1 2 3 4) mats)).fcore.w1 = 1
    ∧ (after (.mma .acc1 1 2 3 4) mats).dordJ = 1 ∧ (after (.mma .acc1 1 2 3 4) mats).pc = 4 := by decide +kernel
theorem test_matrixQueue : (next (exec (.accz .acc0 1) mats)).fcore.mx.queue.map (·.cmd) = [.accz .acc0]
    ∧ (next (exec (.accmv .acc0 1) mats)).fcore.w1 = 1 ∧ (after (.wbld 1 3 5 4) mats).getX 1 = 1
    ∧ (after (.accld .acc0 1 2) mats).getX 1 = 1 ∧ (after (.accst .acc0 1 2) mats).getX 1 = 1 := by decide +kernel

/-- W0 is above Q in a RECORD launch, so that an ACCST is premature; in a FREE launch it is accepted. -/
def early (mode : BitVec 3) : State := (mats.modFcore fun q => { q with w0 := 1 }).modF fun c => { c with lmode := mode }

theorem wit_premature : (early 2).fcore.mxq < (early 2).fcore.wOf .acc0 ∧ (early 2).fctx.lmode = 2 ∧ (early 0).fctx.lmode = 0
    ∧ (∀ o ∈ (early 0).fcore.mx.queue, o.num ≤ (early 0).fcore.mx.i) := by decide +kernel
theorem test_ndread : next (exec (.accst .acc0 1 2) (early 2)) = (early 2).trapped 0x0F 1
    ∧ (after (.accst .acc0 1 2) (early 0)).getX 1 = 1 := by decide +kernel

/-- Each argument that fails a check alone: formats of two rows, K of 0, A misaligned, a scale plane of A elsewhere, B misaligned,
a scale plane of B at the buffer's end; a tile misaligned, a length of 0, and a source that is no address. -/
theorem test_matrixCodes :
    let f (m : BitVec 8) (a : Word) (b : BitVec 18) : State :=
      mats.modF fun c => { c with mfmt := m, mascale := a, mbscale := b }
    next (exec (.mma .acc0 1 2 3 4) (f 0x20 0 0)) = (f 0x20 0 0).trapped 0x09 28
    ∧ next (exec (.mma .acc0 1 2 3 0) mats) = mats.trapped 0x09 29
    ∧ next (exec (.mma .acc0 1 4 3 4) mats) = mats.trapped 0x09 30
    ∧ next (exec (.mma .acc0 1 2 3 4) (f 0x88 0 0)) = (f 0x88 0 0).trapped 0x09 31
    ∧ next (exec (.mma .acc0 1 2 2 4) mats) = mats.trapped 0x09 32
    ∧ next (exec (.mma .acc0 1 2 3 4) (f 0x88 (own 0) 0x3FFFF)) = (f 0x88 (own 0) 0x3FFFF).trapped 0x09 33
    ∧ next (exec (.accld .acc0 1 3) mats) = mats.trapped 0x09 34
    ∧ next (exec (.wbld 1 3 5 0) mats) = mats.trapped 0x09 35
    ∧ next (exec (.wbld 1 3 2 4) (regs [(2, 2 ^ 63), (4, 64)])) = (regs [(2, 2 ^ 63), (4, 64)]).trapped 0x09 36 := by decide +kernel

/-- A command issued, and started on the free array. -/
def issued (i : Instr) : State := next (exec i mats)
def started (i : Instr) : State := next (execMatrixCommandStart 0 false (issued i))

theorem wit_matrixStarts : ((issued (.accz .acc0 1)).octet 0).array = none
    ∧ ((issued (.accz .acc0 1)).arbiter 0).map (·.1) = some 0
    ∧ ((issued (.accz .acc0 1)).core 0).mx.queue.map (·.cmd) = [.accz .acc0] ∧ ((issued (.accz .acc0 1)).core 0).mx.halt = none
    ∧ ((issued (.mma .acc0 1 2 3 4)).core 0).mx.queue.map (·.cmd) = [.mma .acc0 (own 0x1000) 0 64] := by decide +kernel
/-- The format changes between issue and start, and the recheck fails. -/
def changed : State := (issued (.mma .acc0 1 2 3 4)).modF fun c => { c with mfmt := 0x20 }
theorem wit_matrixRecheck : (changed.core 0).mx.queue.map (fun o => changed.recheck 0 64 (changed.sampled 0 o)) = [false]
    ∧ ((next (exec (.matrixCommandStart 0 false) changed)).core 0).mx.halt = some (9, 0, 1, 0)
    ∧ ((next (exec (.matrixCommandStart 0 false) changed)).octet 0).array = none := by decide +kernel

/-- What an MMA and an ACCLD read, with its second word poisoned. -/
def spoiled (i : Instr) : State := { issued i with poison := [localKey 0 0x1008] }
theorem wit_matrixOperands : ((issued (.mma .acc0 1 2 3 4)).core 0).mx.queue.map (fun o =>
      let s := issued (.mma .acc0 1 2 3 4)
      (s.recheck 0 64 (s.sampled 0 o), ((mmaRanges 0 0x1000 0 64 (s.sampled 0 o)).take 2).filterMap s.rangePoison,
        ((mmaRanges 0 0x1000 0 64 (s.sampled 0 o)).take 2).filterMap (spoiled (.mma .acc0 1 2 3 4)).rangePoison)) = [(true, [], [8])]
    ∧ (spoiled (.accld .acc0 1 2)).rangePoison (localKey 0 0x1000, 4096) = some 8
    ∧ (issued (.accld .acc0 1 2)).rangePoison (localKey 0 0x1000, 4096) = none := by decide +kernel
theorem test_matrixOperands : [Instr.mma .acc0 1 2 3 4, .accld .acc0 1 2, .accst .acc0 1 2].map (fun i => ((started i).octet 0).array)
      = List.replicate 3 (some (0, 1))
    ∧ [Instr.mma .acc0 1 2 3 4, .accld .acc0 1 2].map (fun i => ((next (exec (.matrixCommandStart 0 false) (spoiled i))).core 0).mx.halt)
      = List.replicate 2 (some (5, 8, 1, 0)) := by decide +kernel
/-- An exchange of residents holds what an ACCLD reads. -/
def heldLoad : State :=
  (issued (.accld .acc0 1 2)).modCore 0 fun q => { q with exch := some 4, resident := some { resident 5 true with base := 0x1000 } }
theorem wit_heldLoad : heldLoad.swapping 0 0x1000 4096 = true ∧ (heldLoad.octet 0).array = none ∧ (heldLoad.octet 0).fill = none
    ∧ (heldLoad.core 0).mx.queue.length = 1 := by decide +kernel

theorem wit_matrixCompletes : ((started (.accz .acc0 1)).octet 0).array = some (0, 1)
    ∧ ((started (.accz .acc0 1)).core 0).mx.queue.map (·.num) = [1] ∧ ((started (.accz .acc0 1)).core 0).mx.barred 1 = false
    ∧ ((started (.accz .acc0 1)).core 0).mx.queue.map (·.reply) = [none]
    ∧ ((started (.accmv .acc0 1)).core 0).mx.queue.map (·.cmd) = [.accmv .acc0]
    ∧ ((started (.accld .acc0 1 2)).core 0).mx.queue.map (·.snap)
      = [(started (.accld .acc0 1 2)).snapRanges [(localKey 0 0x1000, 4096)]] := by decide +kernel
theorem test_matrixComplete : ((next (exec (.matrixCommandComplete 0 false 0) (started (.accz .acc0 1)))).core 0).mx.c = 1
    ∧ ((next (exec (.matrixCommandComplete 0 false 0) (started (.accz .acc0 1)))).octet 0).array = none := by decide +kernel

theorem wit_matrixRecovery : ((next (exec (.matrixCommandStart 0 false) changed)).core 0).mx.halt = some (9, 0, 1, 0)
    ∧ (mats.core 0).mx.halt = none := by decide +kernel
theorem test_matrixRecovery :
    let t := next (exec (.mxstatRecover 0) (next (exec (.matrixCommandStart 0 false) changed)))
    (t.core 0).mx.halt = none ∧ (t.core 0).mx.c = 1 ∧ (t.core 0).mxq = 1 ∧ (t.core 0).mx.queue = [] := by decide +kernel

/-- A record of one dimension of 8 elements of 8 bytes, all in the box, at VA 0, and its SEAL. -/
def record : List Word := [0x301, 0, 0, 8, 0x800000008] ++ List.replicate 11 0
/-- The record at 0x200, unsealed, and a coordinate block of zeros at 0x300; x2 the local address, x3 and x4 theirs. -/
def copies : State :=
  words ((List.range 5).map fun j => (0x200 + 8 * j, record.getD j 0)) (regs [(2, own 0x400), (3, own 0x200), (4, own 0x300), (5, 64)])
/-- The record sealed by SHPCHK. -/
def sealed : State := next (exec (.shpchk 1 3) copies)

theorem wit_shapeCheck : copies.Clear ∧ copies.fpart.enabled .cpy = true ∧ Reads copies 3 (own 0x200) copies
    ∧ ownSpan (own 0x200) 128 128 ∧ ¬ ownSpan (own 0x208) 128 128
    ∧ (∀ j, j < 16 → copies.poisoned (copies.ownKey (own 0x200) + 8 * j) = false) :=
  ⟨clearOf (by decide +kernel), by decide +kernel, readsOf (by decide +kernel), spanOf (by decide +kernel),
    fun h => absurd h.2.1 (by decide +kernel), by decide +kernel⟩
theorem test_shpchk : (after (.shpchk 1 3) copies).getX 1 = 0
    ∧ sealed.read (localKey 0 0x206) 2 = (0x301 ^^^ 8 ^^^ 8 ^^^ 8 ^^^ 0x5A5A : BitVec 16).toNat
    ∧ (after (.shpchk 1 3) (words [(0x200, 0x300)] copies)).getX 1 = 2 := by decide +kernel

theorem wit_copyTakesANumber : sealed.Clear ∧ (sealed.fcore.engine (chanEng .cp1)).queue.length < 4 ∧ ownSpan (own 0x300) 32 32
    ∧ cpyCode sealed.fpart 0 (own 0x400) ((List.range 16).map fun j => sealed.word (localKey 0 0x200 + 8 * j))
      ((List.range 4).map fun j => sealed.word (localKey 0 0x300 + 8 * j)) = 0
    ∧ cpyllCode sealed.fpart 0 (own 0x400) (own 0x300) 64 = 0 :=
  ⟨clearOf (by decide +kernel), by decide +kernel, spanOf (by decide +kernel), by decide +kernel,
    by decide +kernel⟩
theorem test_cpyin : (after (.cpyin .cp1 1 2 3 4) sealed).getX 1 = 1 ∧ (next (exec (.cpyin .cp1 1 2 3 4) sealed)).fcore.cp1.i = 1
    ∧ (after (.cpyout .cp0 1 2 3 4) sealed).getX 1 = 1 ∧ (after (.cpyll .cp0 1 2 4 5) sealed).getX 1 = 1 := by decide +kernel
theorem wit_copyCodes : ¬ ownSpan (own 0x400 + 1) 128 128 ∧ coreForm sealed.fpart 0 64 = none
    ∧ coreForm sealed.fpart 0 (own 0x300) = some (0, 0x300) ∧ coreForm sealed.fpart 0 (own 0x400) = some (0, 0x400) :=
  ⟨fun h => absurd h.2.1 (by decide +kernel), by decide +kernel⟩
theorem test_copyCodes : next (exec (.cpyin .cp0 1 2 5 4) sealed) = sealed.trapped 0x09 1
    ∧ next (exec (.cpyout .cp0 1 2 3 5) sealed) = sealed.trapped 0x09 2 ∧ next (exec (.cpyin .cp0 1 2 3 4) copies) = copies.trapped 0x09 4
    ∧ next (exec (.cpyll .cp0 1 5 4 5) sealed) = sealed.trapped 0x09 8 ∧ next (exec (.cpyll .cp0 1 2 4 0) sealed) = sealed.trapped 0x09 9
    ∧ next (exec (.cpyll .cp0 1 2 2 5) sealed) = sealed.trapped 0x09 10 := by decide +kernel

/-- A CPYLL of 8 bytes from 0x200 to 0x400, issued, and started. -/
def copying : State := next (exec (.cpyll .cp0 1 2 3 5) ((copies.modF fun c => c.putX 5 8)))
def running : State := next (execChannelOperationStart 0 .cp0 copying)

theorem wit_channelStarts : (copying.engine 0 .cp0).queue.map (·.cmd) = [.cpyll (own 0x400) (own 0x200) 8]
    ∧ (copying.engine 0 .cp0).barred 1 = false ∧ copying.enginesRun 0 = true ∧ (running.engine 0 .cp0).queue.map (·.started) = [true]
    ∧ ((copying.modFcore fun q => { q with cp0 := { q.cp0 with halt := some (5, 0, 1, 0) } }).engine 0 .cp0).barred 1 = true := by
  decide +kernel
theorem wit_localCopies : (running.engine 0 .cp0).queue.map (fun o => (o.num, o.next, o.posted, o.reply)) = [(1, 0, [], none)]
    ∧ (running.engine 0 .cp0).c = 0 ∧ (running.octet 0).engInbox = [] ∧ coreForm (running.partAt 0) 0 (own 0x400) = some (0, 0x400)
    ∧ (running.octet 0).power = .active ∧ running.poisoned (localKey 0 0x200) = false := by decide +kernel
theorem test_localCopy : (next (exec (.channelOperationComplete 0 .cp0 1) running)).word (localKey 0 0x400) = 0x301
    ∧ ((next (exec (.channelOperationComplete 0 .cp0 1) running)).engine 0 .cp0).c = 1 := by decide +kernel
theorem test_engineFault : ((next (exec (.engineFault 0 .cp0 5 ⟨1, 3⟩) running)).engine 0 .cp0).halt = some (5, 3, 1, 0)
    ∧ ((next (exec (.engineFault 0 .cp0 5 ⟨1, 3⟩) running)).engine 0 .cp0).c = 0 := by decide +kernel
/-- The fault of an operation that is no longer in the queue halts nothing. -/
theorem test_engineFaultLate : next (exec (.engineFault 0 .cp0 5 ⟨2, 3⟩) running) = running := by decide +kernel
theorem test_cstat : (after (.cstat .cp0 1) (next (exec (.engineFault 0 .cp0 5 ⟨1, 3⟩) running))).getX 1 = 2 ^ 63 + 5 * 2 ^ 32 + 3
    ∧ ((next (exec (.cstat .cp0 1) (next (exec (.engineFault 0 .cp0 5 ⟨1, 3⟩) running)))).engine 0 .cp0).c = 1
    ∧ (after (.cstat .cp0 1) (next (exec (.channelOperationComplete 0 .cp0 1) running))).getX 1 = 1 := by decide +kernel

/-- A stream of two 8-byte elements from 0x100, described at 0x200. -/
def described : State := words [(0x200, 0x30100), (0x208, 8 * 2 ^ 32 + 2)] (local1.modF fun c => c.putX 4 (own 0x200))
def bound : State := next (exec (.sbind 0 4) described)
def ready : State := next (execStreamRefill 0 0 0 bound)

theorem wit_streams : described.Clear ∧ Reads described 4 (own 0x200) described ∧ ownSpan (own 0x200) 64 64
    ∧ streamOf false ((List.range 8).map fun j => described.word (described.ownKey (own 0x200) + 8 * j))
      = some ⟨false, 8, false, 0x100, [(8, 2)], 0, []⟩
    ∧ streamOf true ((List.range 8).map fun j => described.word (described.ownKey (own 0x200) + 8 * j)) = none
    ∧ ¬ ownSpan (own 0x208) 64 64 :=
  ⟨clearOf (by decide +kernel), readsOf (by decide +kernel), spanOf (by decide +kernel), by decide +kernel,
    by decide +kernel, fun h => absurd h.2.1 (by decide +kernel)⟩
theorem wit_vectorStream : streamOf true [0x100, 64 * 2 ^ 32 + 2] = some ⟨true, 64, false, 0x100, [(64, 2)], 0, []⟩ := by
  decide +kernel
theorem test_sbind : (bound.fctx.bound (some (xStreamSlot 0))).isSome = true ∧ bound.fctx.getX (xStreamReg 0) = 0
    ∧ (after (.qcnt 1 0) bound).getX 1 = 2 ∧ ((after (.sunb 0) bound).bound (some (xStreamSlot 0))) = none
    ∧ next (exec (.sbindV 0 4) described) = described.trapped 0x09 12 := by decide +kernel
theorem test_sunbV : (after (.sunbV 1) described).pc = 4 ∧ (after (.qcntV 1 1) described).getX 1 = 0 := by decide +kernel

theorem wit_streamRefill : (bound.ctx 0 0).bound (some 0) = some ⟨false, 8, false, 0x100, [(8, 2)], 0, []⟩
    ∧ bound.enginesRun 0 = true ∧ (⟨false, 8, false, 0x100, [(8, 2)], 0, []⟩ : Stream).place 0 = some 0x100
    ∧ (⟨false, 8, false, 0xFFFF, [(8, 2)], 0, []⟩ : Stream).place 1 = none := by decide +kernel
/-- A stream of two strips from 0x100, and it with a poisoned word in the first. -/
def strips (bad : Bool) : State :=
  { words [(0x100, 1), (0x138, 2)] (base.modF fun c => c.setStream 4 (some ⟨true, 64, false, 0x100, [(64, 2)], 0, []⟩)) with
    poison := if bad then [localKey 0 0x110] else [] }
theorem wit_strips : ((strips false).ctx 0 0).bound (some 4) = some ⟨true, 64, false, 0x100, [(64, 2)], 0, []⟩ ∧ (strips false).enginesRun 0 = true
    ∧ (⟨true, 64, false, 0x100, [(64, 2)], 0, []⟩ : Stream).place 0 = some 0x100 ∧ ((strips false).core 0).exch = none
    ∧ (List.range 64).all (fun j => !(strips false).poisoned (localKey 0 0x100 + j)) = true
    ∧ (strips true).poisoned (localKey 0 0x100 + 0x10) = true := by decide +kernel
theorem test_strips : (((next (exec (.streamRefill 0 0 4) (strips false))).ctx 0 0).bound (some 4)).map (·.ahead) = some [some (BitVec.ofNat 512 (1 + 2 * 2 ^ 448))]
    ∧ (((next (exec (.streamRefill 0 0 4) (strips true))).ctx 0 0).bound (some 4)).map (·.ahead) = some [none] := by decide +kernel
theorem test_streamPops : ((ready.ctx 0 0).bound (some 0)).map (·.ahead) = some [some 0x8877665544332211]
    ∧ (after (.addi 1 (xStreamReg 0) 1) ready).getX 1 = 0x8877665544332212
    ∧ (after (.addi 1 (xStreamReg 0) 1) bound).mode = .blocked := by decide +kernel
/-! ## Groups and collectives -/

/-- The oldest message on the mesh arrives and takes effect. -/
def deliver (s : State) : State :=
  match s.flights with
  | f :: rest => next (runEv f.ev { s with flights := rest })
  | [] => s

/-- x2 holds group 3, x3 rank 0 of one member; the group table has 8 entries. -/
def groups0 : State :=
  (({ base with parts := [(0, { part with grpBase := 0x100, grpLimit := 8 })] } : State).modF fun c => ((c.putX 2 3).putX 3 1).putX 4 8)
def asked : State := next (execGjoin 1 2 3 groups0)
def answered : State := deliver (deliver asked)
def joined : State := next (execGjoin 1 2 3 answered)

theorem wit_groupJoin : groups0.Clear ∧ ReadsAll groups0 [2, 3, 4] [3, 1, 8] groups0 ∧ groups0.fpart.enabled .coll = true ∧ (3 : Word).toNat < groups0.fpart.grpLimit.toNat ∧ groups0.fctx.groupReply = none
    ∧ groups0.slot 0 3 = none ∧ groups0.fcore.groups.length < 16 ∧ answered.fctx.groupReply = some (0, 0)
    ∧ (joined.slot 0 3).isSome = true :=
  ⟨clearOf (by decide +kernel), readsAllOf (l := [(2, 3), (3, 1), (4, 8)]) (by decide +kernel), by decide +kernel⟩
theorem test_gjoin : joined.fctx.getX 1 = 0 ∧ joined.fctx.pc = 4 ∧ (after (.gjoin 1 4 3) groups0).getX 1 = 1
    ∧ (after (.gjoin 1 2 4) (groups0.modF fun c => c.putX 4 0)).getX 1 = 2 ∧ (after (.gjoin 1 2 3) joined).getX 1 = 5
    ∧ (after (.gjoin 1 2 3) (groups0.modFcore fun q => { q with groups := List.replicate 16 (newSlot 9 0 0 0) })).getX 1 = 6 := by
  decide +kernel
theorem test_groupBusy : next (exec (.gjoin 1 2 3) (groups0.modF fun c => { c with groupReply := some (99, 0) }))
    = (groups0.modF fun c => { c with groupReply := some (99, 0) }).trapped 0x0C 3 := by decide +kernel

/-- The entry's home: joined by one, left again, and with DRAIN raised. -/
def key3 : Nat := groups0.fpart.groupKey 3
theorem wit_groupEntry : asked.part 0 = some groups0.fpart ∧ asked.module < 4096 ∧ rangeOk key3 65536 = true
    ∧ (asked.flights.map (·.ev)) = [.groupEntryUpdate ⟨⟨0, 0, 0, 1⟩, 0, 3, .join 1 0⟩]
    ∧ (asked.ctx 0 0).awaits 1 = true ∧ asked.heldStop (homePlace key3) (.groupEntryUpdate ⟨⟨0, 0, 0, 1⟩, 0, 3, .join 1 0⟩) = none
    ∧ (asked.queueLine key3).isSome = true ∧ grpDrain asked key3 = 0 ∧ asked.member key3 0 = none ∧ grpJoined asked key3 = 0 := by
  decide +kernel
theorem test_groupEntry : grpJoined answered key3 = 1 ∧ grpNmem answered key3 = 1 ∧ answered.member key3 0 = some (0, 0)
    ∧ grpComplete answered key3 = true := by decide +kernel
theorem test_gleave : (after (.gleave 1 2) groups0).getX 1 = 1
    ∧ grpJoined (deliver (next (execGleave 1 2 joined))) key3 = 0 ∧ (deliver (next (execGleave 1 2 joined))).slot 0 3 = none
    ∧ (after (.gleave 1 2) (deliver (next (execGleave 1 2 joined)))).getX 1 = 0
    ∧ (after (.gleave 1 2) (joined.modSlot 0 3 fun x => { x with a0 := 1 })).getX 1 = 2 := by decide +kernel
theorem wit_groupLeave : joined.fctx.groupReply = none ∧ joined.fcore.clOn 3 = false
    ∧ (joined.slot 0 3).map (fun x => (x.a0, x.a1, x.rank)) = some (0, 0, 0) ∧ grpBarr joined key3 = 0 ∧ reads joined [(5, 0)] = true := by decide +kernel
theorem test_ginfo : (after (.ginfo 1 4 0) joined).getX 1 = 0 ∧ (after (.ginfo 1 2 3) joined).pc = 8
    ∧ next (exec (.ginfo 1 2 2) joined) = joined.trapped 0x09 25 := by decide +kernel

/-- The one member arrives, and the generation is released. -/
def arrived : State := next (execGarr 1 2 joined)
theorem wit_arrival : (joined.slot 0 3).map (·.arr) = some false ∧ joined.fcore.arrivals = [] ∧ grpNmem arrived key3 ≤ 16368
    ∧ grpBarr arrived key3 + 1 = grpNmem arrived key3 ∧ (deliver (deliver arrived)).flights.map (·.ev) = [.barrierRelease 0 ⟨0, 3⟩ 1]
    ∧ (deliver arrived).heldBack 0 0 (.barrierRelease 0 ⟨0, 3⟩ 1) = none := by decide +kernel
theorem wit_arrivalSettled : (deliver arrived).Settled key3 65536 := by
  refine settledOf (by decide +kernel) fun k => ?_
  have f : (deliver arrived).flights.map (·.ev) = (deliver arrived).flights.map (·.ev) := rfl
  have g : (deliver arrived).flights.all (fun x => match x.ev with | .remoteStore _ => false | _ => true) = true := by decide +kernel
  rw [List.any_eq_false]
  intro x hx
  have := List.all_eq_true.mp g x hx
  cases e : x.ev <;> simp_all [hardwareStoreOf]
theorem test_garr : arrived.fctx.getX 1 = 3 ∧ (arrived.slot 0 3).map (·.arr) = some true ∧ (after (.garr 1 2) arrived).getX 1 = 3
    ∧ next (exec (.garr 1 4) joined) = joined.trapped 0x09 17 ∧ next (exec (.garr 1 2) groups0) = groups0.trapped 0x09 19 := by
  decide +kernel
theorem test_release : ((deliver (deliver (deliver arrived))).slot 0 3).map (fun x => (x.arr, x.bseen)) = some (false, 1)
    ∧ grpBgen (deliver arrived) key3 = 1 ∧ grpBarr (deliver arrived) key3 = 0 := by decide +kernel

/-- joined with a HALO descriptor at 0x200: 4 × 4 cells of 8 bytes from 0x1000, pitch 0x100, width 1; and a map at 0x300: two
dimensions of 2 elements of 1 byte each, on one core. x5 to x9: their addresses, the source 0x800 and a specification to 0x900. -/
def coll : State :=
  words [(0x200, 0x0004000401001000), (0x208, 0x103), (0x300, 0x402), (0x308, 0xA00 + 0xB00 * 0x10000), (0x310, 0x0001000100000002),
      (0x318, 0x0000000200000002), (0x320, 0x0001000100000002), (0x328, 0x0000000200000002)]
    (joined.modF fun c => ((((c.putX 5 (own 0x200)).putX 6 (own 0x300)).putX 7 (own 0x800)).putX 8 0x900).putX 9 (own 0x400))
/-- The state after DRAIN has been raised for an instruction at the group's home, and the reply has come. -/
def drained (f : State → Host.Outcome State Fault Refusal) : State := deliver (deliver (next (f coll)))
def xchgIssued : State := next (execXchg 1 6 2 (drained (execXchg 1 6 2)))

theorem wit_collectives : coll.Clear ∧ ReadsAll coll [5, 6] [own 0x200, own 0x300] coll ∧ coll.Sound (coll.ownKey (own 0x200)) 4
    ∧ (ownSpan (own 0x200) 32 32 ∧ ownSpan (own 0x300) 128 128 ∧ ownSpan (own 0x400) 64 64) ∧ coll.fcore.cl.queue.length < 4
    ∧ haloOk (coll.wordsAt (coll.ownKey (own 0x200)) 4) = true
    ∧ (drained (execXchg 1 6 2)).fctx.groupReply = some (2, 0x10003) ∧ (drained (execXchg 1 6 2)).fpart.groupOk 3 = true
    ∧ (drained (execXchg 1 6 2)).fctx.mapCopy = none ∧ mapOk (coll.wordsAt (coll.ownKey (own 0x300)) 16) = true
    ∧ mapProd (coll.wordsAt (coll.ownKey (own 0x300)) 16) (mapP (coll.wordsAt (coll.ownKey (own 0x300)) 16)) = 1
    ∧ misplaced (own 0x800) (specOff 0x900) (8 * specCount 0x900) 8 = false ∧ specOk 0x900 = true
    ∧ overlaps ((own 0x800).toNat % 65536) (specOff 0x900) (8 * specCount 0x900) = false
    ∧ windowOk (coll.wordsAt (coll.ownKey (own 0x400)) 8) = true
    ∧ windowOctets (coll.wordsAt (coll.ownKey (own 0x400)) 8) = [] :=
  ⟨clearOf (by decide +kernel), readsAllOf (l := [(5, own 0x200), (6, own 0x300)]) (by decide +kernel), by unfold State.Sound; decide +kernel,
    by unfold ownSpan; decide +kernel, by decide +kernel⟩
theorem test_halo : (after (.halo 1 5 4) coll).getX 1 = 1 ∧ next (exec (.halo 1 5 7) coll) = coll.trapped 0x09 15
    ∧ next (exec (.halo 1 7 4) coll) = coll.trapped 0x09 14 := by decide +kernel
theorem test_xchg : xchgIssued.fctx.getX 1 = 1 ∧ (xchgIssued.slot 0 3).map (·.xep) = some 1
    ∧ next (exec (.xchg 1 6 5) coll) = coll.trapped 0x09 17
    ∧ next (exec (.xchg 1 6 2) (coll.modF fun c => { c with groupReply := some (1, 0) }))
      = (coll.modF fun c => { c with groupReply := some (1, 0) }).trapped 0x09 18 := by decide +kernel
theorem test_mcast : (after (.mcast false 1 7 8 2) (drained (execMcast false 1 7 8 2))).getX 1 = 1
    ∧ (after (.mcastWin true 1 7 8 9) coll).getX 1 = 1 ∧ next (exec (.mcastWin true 1 7 8 8) coll) = coll.trapped 0x09 24
    ∧ next (exec (.mcastWin true 1 0 8 9) coll) = coll.trapped 0x09 23 := by decide +kernel
theorem test_reduce : (after (.reduce .add 1 7 8 2) (drained (execReduce .add 1 7 8 2))).getX 1 = 1 := by decide +kernel

/-- A push of one cell to the north of core 0. -/
def push : Push := ⟨7, 1, 4, 0, .n, 8, [(0x100, 5)]⟩
theorem wit_push : (∀ c ∈ push.cells, coll.poisoned (localKey push.dstCore c.1) = false) ∧ coll.heldEngine 0 (coll.pidOf 1) 0x100 8 (.haloPush push) = none
    ∧ coll.swapping 0 0x100 8 = false ∧ push.size ∈ [1, 2, 4, 8] := by decide +kernel
theorem test_push : ((next (exec (.haloPush push) coll)).core 0).haloN.count = 1 ∧ ((next (exec (.haloPush push) coll)).core 0).haloS.count = 0
    ∧ (next (exec (.haloPush push) coll)).word (localKey 0 0x100) = 5 := by decide +kernel

/-- A deposit of epoch 1, of epoch 3, of epoch 0, and for a group of which core 0 is no member. -/
def deposit (g e : Nat) : Deposit := ⟨7, 1, 4, 0, 0, 0, g, e, 7, 0x100, 8, 5⟩
theorem wit_deposit : coll.heldEngine 0 (coll.pidOf 1) 0x100 8 (.deposit (deposit 3 1)) = none ∧ coll.poisoned (localKey 0 0x100) = false
    ∧ (coll.slot 0 3).map (·.xc) = some 0 ∧ coll.slot 0 4 = none ∧ (coll.core 0).cl.halt = none := by decide +kernel
theorem test_deposit : ((next (exec (.deposit (deposit 3 1)) coll)).slot 0 3).map (fun x => (x.a1, x.d1)) = some (1, some 7)
    ∧ (next (exec (.deposit (deposit 3 2)) coll)).word (localKey 0 0x100) = 5
    ∧ (next (exec (.deposit (deposit 3 3)) coll)).mem = coll.mem ∧ (next (exec (.deposit (deposit 4 1)) coll)).mem = coll.mem := by
  decide +kernel
theorem test_depositLate : ((next (exec (.deposit (deposit 3 0)) coll)).core 0).cl.halt.map (fun h => (h.1, h.2.2.1)) = some (8, 1) := by
  decide +kernel
theorem wit_delivery : coll.heldEngine 0 (coll.pidOf 1) 0x100 8 (.multicastDelivery ⟨7, 1, 4, 0, 0, 0x100, [5], true⟩) = none
    ∧ coll.waitTab 0 = [] := by decide +kernel
theorem test_delivery : (next (exec (.multicastDelivery ⟨7, 1, 4, 0, 0, 0x100, [5], true⟩) coll)).word (localKey 0 0x100) = 5
    ∧ (next (exec (.multicastDelivery ⟨7, 1, 4, 0, 0, 0x100, [5], true⟩) coll)).tag (localKey 0 0x100) = true := by decide +kernel

/-- A partial of 32,769 words, one too many for the staging that is left. -/
def partial1 (n : Nat) : Partial := ⟨7, 1, 0, 4, 0, 0, 0, 3, 0, .add, false, 0x100, List.replicate n 5⟩
theorem wit_partial : coll.heldBack 0 (coll.pidOf 1) (.reducePartial (partial1 1)) = none ∧ partialBytes (partial1 32769) = 262152
    ∧ coll.heldEngine 0 (coll.pidOf 1) 0x100 8 (.reduceResult (partial1 1)) = none := by decide +kernel
theorem test_partial : ((next (exec (.reducePartial (partial1 1)) coll)).octet 0).staging.length = 1
    ∧ ((next (exec (.reducePartial (partial1 32769)) coll)).octet 0).staging = []
    ∧ (next (exec (.reduceResult (partial1 1)) coll)).word (localKey 0 0x100) = 5 := by decide +kernel
theorem test_resends : (next (exec (.depositResend (deposit 3 1)) coll)).flights.length = 1
    ∧ (next (exec (.partialResend (partial1 1)) coll)).flights.length = 1 ∧ coll.partRuns 1 = true
    ∧ (∀ m ∈ coll.members key3 (grpNmem coll key3), m.1 = coll.module) := by decide +kernel

/-- The exchange runs: started, its four elements sent, deposited and acknowledged. -/
def xchgStarted : State := next (execCollectiveOperationStart 0 xchgIssued)
theorem wit_collectiveRuns : (xchgIssued.core 0).cl.queue.map (fun o => (o.stores, o.posted, o.started, o.out, o.num)) = [([], [], false, 0, 1)]
    ∧ (xchgIssued.core 0).cl.halt = none ∧ xchgIssued.enginesRun 0 = true
    ∧ (xchgStarted.core 0).cl.queue.map (fun o => (o.started, o.next)) = [(true, 0)]
    ∧ mapCount (coll.wordsAt (localKey 0 0x300) 16) 0 = 4 ∧ mapExpected (coll.wordsAt (localKey 0 0x300) 16) 0 = 4
    ∧ (next (execCollectiveOperationStart 0 xchgStarted)).flights.any (fun f => match f.ev with | .deposit d => d.off == 0xB00 | _ => false)
      = true := by decide +kernel
/-- The exchange, its deposits received, completes. -/
def xchgDone : State :=
  (xchgStarted.modCore 0 fun q => { q with cl := { q.cl with queue := q.cl.queue.map fun o => { o with next := 4 } } }).modSlot 0 3
    fun x => { x with a1 := 4 }
theorem test_collectiveComplete : ((next (exec (.collectiveOperationComplete 0) xchgDone)).core 0).cl.c = 1
    ∧ ((next (exec (.collectiveOperationComplete 0) xchgDone)).slot 0 3).map (fun x => (x.xc, x.a1)) = some (1, 0) := by decide +kernel
theorem test_acknowledgement : ((next (exec (.engineAcknowledgement 0 1) (next (execCollectiveOperationStart 0 xchgStarted)))).core 0).cl.queue.map
    (fun o => (o.next, o.out)) = [(1, 0)] := by decide +kernel
/-- What the statements ask of every offset and length, and of every line of the entry. -/
theorem wit_pushHome (off n : Nat) : coll.heldEngine 0 (coll.pidOf 1) off n (.haloPush push) = none ∧ asked.Settled key3 65536 := by
  have h : coll.heldBack 0 (coll.pidOf 1) (.haloPush push) = none ∧ (coll.core 0).exch = none := by decide +kernel
  have f : asked.flights.map (·.ev) = [.groupEntryUpdate ⟨⟨0, 0, 0, 1⟩, 0, 3, .join 1 0⟩] := by decide +kernel
  refine ⟨by simp [State.heldEngine, State.swapping, h.1, h.2], settledOf (by decide +kernel) fun k => ?_⟩
  cases e : asked.flights with
  | nil => rfl
  | cons x l => rw [e] at f; cases l <;> simp_all [hardwareStoreOf]
/-! ## Waits and time -/

/-- Channel 0 has issued 3 operations and completed 1, at wall 0; x1 to x5 hold 1 to 5, and wall is as given in ns. -/
def wait0 (wall : Nat) (ab : Option (Nat × Nat × Nat × Nat)) : State :=
  { (regs [(1, 1), (2, 2), (3, 3), (4, 4), (5, 5)]).modFcore fun q =>
      { q with cp0 := { q.cp0 with i := 3, c := 1, hist := [(1, 0)], aband := ab } } with wallUnits := wall * 1600000 }

theorem unloggedOf {s : State} (h : s.fctx.lmode ≠ 2 ∧ s.fctx.lmode ≠ 3 ∧ s.recMode (s.pidOf s.focusCore) s.fctx.lnum.toNat ≠ 3) :
    s.Unlogged := h

theorem wit_engineWaits : (wait0 0 none).Clear ∧ (wait0 0 none).Unlogged ∧ ReadsAll (wait0 0 none) [2, 4] [2, 4] (wait0 0 none) ∧ (wait0 0 none).fctx.mode = .ready ∧ (wait0 0 none).fctx.wait = none
    ∧ ((wait0 0 none).fcore.engine .cp0).i = 3 ∧ ((wait0 0 none).fcore.engine .cp0).hist = [(1, 0)]
    ∧ ((wait0 0 (some (2, 3, 7, 0))).fcore.engine .cp0).aband = some (2, 3, 7, 0) ∧ (wait0 4 none).wallUnits = 4 * 1600000 :=
  ⟨clearOf (by decide +kernel), unloggedOf (by decide +kernel), readsAllOf (l := [(2, 2), (4, 4)]) (by decide +kernel), by decide +kernel⟩
theorem test_cwait : (after (.cwait .cp0 1 0) (wait0 0 none)).pc = 4 ∧ (after (.cwait .cp0 1 4) (wait0 0 none)).dordE = 1
    ∧ next (exec (.cwait .cp0 4 0) (wait0 0 none)) = (wait0 0 none).trapped 0x09 16
    ∧ next (exec (.cwait .cp0 2 0) (wait0 0 (some (2, 3, 7, 0)))) = (wait0 0 (some (2, 3, 7, 0))).trapped 0x0A 7
    ∧ next (exec (.cwait .cp0 2 4) (wait0 4 none)) = (wait0 4 none).waited (wait0 4 none) true 1 id := by decide +kernel
theorem test_cwaitWaits : (after (.cwait .cp0 2 4) (wait0 3 none)).pc = 0 ∧ (after (.cwait .cp0 2 4) (wait0 3 none)).wait.isSome = true := by
  decide +kernel
theorem test_cwaitMx : (next (exec (.cwait .mx 1 0) ((wait0 0 none).modFcore fun q => { q with mx := q.cp0 }))).fcore.mxq = 1 := by
  decide +kernel

/-- The halo counter of the north has reached 2 at wall 0; core 0 is rank 0 of group 3, which has seen generation 1. -/
def halo0 (wall : Nat) : State :=
  (wait0 wall none).modFcore fun q =>
    { q with haloN := ⟨2, [(2, 0)]⟩, groups := [{ newSlot 3 0 1 0 with hist := [(1, 0)] }] }
theorem wit_haloWaits : (halo0 0).fpart.enabled .coll = true ∧ ((halo0 0).fcore.halo .n).hist = [(2, 0)]
    ∧ ((halo0 0).slot 0 3).map (fun x => (x.seen 0 0, x.seen 1 0, x.arr)) = some (true, false, false)
    ∧ (0x10003 : Word).extractLsb' 48 16 = 0 ∧ (0x10003 : Word).extractLsb' 12 4 = 0 ∧ (0x1003 : Word).extractLsb' 12 4 ≠ 0 := by
  decide +kernel
theorem test_hwait : (after (.hwait .n 2 0) (halo0 0)).pc = 4 ∧ (after (.hwait .n 3 0) (halo0 0)).pc = 0
    ∧ (after (.hwait .n 3 4) (halo0 4)).tmo = true := by decide +kernel
theorem test_gwait : (after (.gwait 3 0) (halo0 0)).pc = 4
    ∧ (after (.gwait 6 0) ((halo0 0).modF fun c => c.putX 6 0x10003)).pc = 0
    ∧ next (exec (.gwait 4 0) (halo0 0)) = (halo0 0).trapped 0x09 19
    ∧ next (exec (.gwait 6 0) ((halo0 0).modF fun c => c.putX 6 0x1003)) = ((halo0 0).modF fun c => c.putX 6 0x1003).trapped 0x09 27 := by
  decide +kernel
/-- The group's home, and a GBAR that arrives and one that has arrived. -/
def halo1 : State := { halo0 0 with parts := [(0, { part with grpBase := 0x100, grpLimit := 8 })] }
theorem wit_gbar : halo1.fctx.ap = false ∧ halo1.fpart.groupOk 3 = true ∧ (halo1.slot 0 3).map (fun x => (x.seen x.bseen 0, x.arr)) = some (false, false)
    ∧ halo1.fcore.arrivals = [] := by decide +kernel
theorem test_gbar : (after (.gbar 3 0) halo1).ap = true ∧ (after (.gbar 3 0) halo1).waitGen = 1 ∧ (after (.gbar 3 0) halo1).pc = 0
    ∧ (next (exec (.gbar 3 0) halo1)).flights.map (·.ev) = [.barrierArrival 0 3 0]
    ∧ (after (.gbar 3 0) (halo1.modF fun c => { c with ap := true, waitGen := 0 })).pc = 4 := by decide +kernel

/-- Join slots from 0x100: slot 0 full, slot 1 empty. -/
def joins0 (wall : Nat) : State :=
  { (wait0 wall none).modF fun c => { c with joinBase := 0x10 } with tags := [(localKey 0 0x108, 0)] }
theorem wit_joins : (joins0 0).slotFull 0 0x100 0 0 = true ∧ (joins0 0).slotFull 0 0x100 4 1 = false
    ∧ (joins0 0).poisoned (joinKey 0 0x100 0) = false ∧ (joins0 0).waitTab 0 = [] ∧ (joins0 0).fctx.joinBase.toNat * 16 = 0x100
    ∧ ({ joins0 0 with poison := [localKey 0 0x108] } : State).poisoned (joinKey 0 0x100 0) = true := by decide +kernel
theorem test_join : (after (.join 6 1 0) (joins0 0)).getX 6 = 1 ∧ (next (exec (.join 6 1 0) (joins0 0))).tag (localKey 0 0x108) = false
    ∧ (after (.join 6 2 4) (joins0 4)).getX 6 = 1 ∧ (after (.join 6 2 4) (joins0 4)).tmo = true ∧ (after (.join 6 2 4) (joins0 3)).pc = 0
    ∧ next (exec (.join 6 7 0) ((joins0 0).modF fun c => c.putX 7 257)) = ((joins0 0).modF fun c => c.putX 7 257).trapped 0x05 257 := by
  decide +kernel
theorem test_joinPoison : next (exec (.join 6 1 0) { joins0 0 with poison := [localKey 0 0x108] })
    = ({ joins0 0 with poison := [localKey 0 0x108] } : State).trapped 0x08 (own 0x108) := by decide +kernel

theorem wit_timeWaits : (2 : Word) ^ 48 - 1 < 2 ^ 48 ∧ (wait0 4 none).wallUnits = (4 : Word).toNat * 1600000
    ∧ (after (.waitc 0) (wait0 0 none)).waitTarget = some ((wait0 0 none).cycle 0 + 1)
    ∧ (after (.waitc 0) (wait0 0 none)).wait = some (.cycles 0) := by decide +kernel
theorem test_waitw : (after (.waitw 4 0) (wait0 4 none)).pc = 4 ∧ (after (.waitw 4 0) (wait0 3 none)).pc = 0
    ∧ (after (.waitw 4 5) (wait0 4 none)).tmo = false ∧ (after (.waitw 5 4) (wait0 4 none)).tmo = true := by decide +kernel
theorem test_waitc : next (exec (.waitc 6) ((wait0 0 none).modF fun c => c.putX 6 (2 ^ 48)))
    = ((wait0 0 none).modF fun c => c.putX 6 (2 ^ 48)).trapped 0x05 (2 ^ 48)
    ∧ (after (.waitc 0) { next (exec (.waitc 0) (wait0 0 none)) with octets := [(0, { Octet.reset with clocks := Vector.replicate 9 ⟨1200000, 0, 10 ^ 18⟩ })] }).pc = 4 := by
  decide +kernel

/-- Alarm slots 0 and 1 have fired at the same time; or slot 1 alone; or one is armed. -/
def alarms (a b : Alarm) (wall : Nat) : State := (wait0 wall none).modF fun c => { c with alarm0 := a, alarm1 := b }
theorem wit_alarmWaits : (alarms (.fired 0) (.fired 0) 0).fctx.alarm0 = .fired 0 ∧ (alarms .idle (.fired 0) 0).fctx.alarm0 = .idle
    ∧ (alarms (.wall 9) .idle 4).fctx.alarm0 = .wall 9 := by decide +kernel
theorem test_waita : (after (.waita 6 0) (alarms (.fired 0) (.fired 0) 0)).getX 6 = 0
    ∧ (after (.waita 6 0) (alarms .idle (.fired 0) 0)).getX 6 = 1 ∧ (after (.waita 6 0) (alarms .idle .idle 0)).getX 6 = 2
    ∧ (after (.waita 6 4) (alarms (.wall 9) .idle 4)).getX 6 = 3 ∧ (after (.waita 6 4) (alarms (.wall 9) .idle 3)).pc = 0 := by
  decide +kernel

/-- A WAITC and a WAITW registered. -/
def registered (i : Instr) : State := next (exec i (wait0 0 none))
theorem wit_registeredWaits : ((registered (.waitc 0)).ctx 0 0).mode = .blocked ∧ ((registered (.waitc 0)).ctx 0 0).dlDue = none
    ∧ ((registered (.waitw 4 5)).ctx 0 0).wait = some (.wall 4 5) ∧ ((registered (.waitw 5 4)).ctx 0 0).wait = some (.wall 5 4) := by
  decide +kernel
theorem test_registeredWaits : ((next (exec (.waitTargetReached 0 0) { registered (.waitw 4 5) with wallUnits := 4 * 1600000 })).ctx 0 0).pc = 4
    ∧ ((next (exec (.waitDeadlineExpiry 0 0) { registered (.waitw 5 4) with wallUnits := 4 * 1600000 })).ctx 0 0).tmo = true
    ∧ ((next (exec (.waitTargetReached 0 0) { registered (.waitw 4 5) with wallUnits := 3 * 1600000 })).ctx 0 0).pc = 0 := by decide +kernel

theorem test_alarms : (after (.alc 0 0) (wait0 4 none)).alarm0 = .fired (4 * 1600000)
    ∧ (after (.alc 1 4) (wait0 4 none)).alarm1 = .cycle ((wait0 4 none).cycle 0 + 4) ∧ (after (.alw 0 5) (wait0 4 none)).alarm0 = .wall 5
    ∧ (after (.alw 1 4) (wait0 4 none)).alarm1 = .fired (4 * 1600000) ∧ (after (.alx 0) (alarms (.wall 9) .idle 4)).alarm0 = .idle := by
  decide +kernel
theorem test_deadline : (after (.dlarm 5) (wait0 4 none)).deadline = 5 ∧ (after .dlclr (next (exec (.dlarm 5) (wait0 4 none)))).deadline = 0
    ∧ (after (.rdwall 6) (wait0 4 none)).getX 6 = 4 ∧ (after (.rdcyc 6) (wait0 4 none)).dordE = 1 := by decide +kernel
theorem wit_timeEvents : ((alarms (.wall 4) .idle 4).ctx 0 0).alarm0 = .wall 4 ∧ ((alarms (.cycle 0) .idle 4).ctx 0 0).alarm0 = .cycle 0
    ∧ ((wait0 4 none).octet 0).power = .active := by decide +kernel
theorem test_timeEvents : ((next (exec (.alarmFire 0 0 0) (alarms (.wall 4) .idle 4))).ctx 0 0).alarm0 = .fired (4 * 1600000)
    ∧ ((next (exec (.alarmFire 0 0 0) (alarms (.wall 5) .idle 4))).ctx 0 0).alarm0 = .wall 5
    ∧ ((next (exec (.deadlineTrap 0 0) (next (exec (.dlarm 4) (wait0 4 none))))).ctx 0 0).dlDue = some 4
    ∧ (next (exec (.wallDiscipline 101) base)).ppm = 0 ∧ (next (exec (.wallDiscipline (-100)) base)).ppm = -100 := by decide +kernel
theorem test_ratioWindow : ((next (exec (.ratioWindowEnd 0) { base with octets := [(0, { Octet.reset with winWhole := true })] })).octet 0).winIdx
    = 1 := by decide +kernel
/-! ## Messages and tasks -/

/-- x2 names core 0 by the own form, x3 its payload at 0x100, x4 a reply header that names core 0, x5 no place. -/
def sender : State :=
  words [(0x100, 1), (0x108, 2)] (regs [(2, 0xFC00000000000000), (3, own 0x100), (4, 0x2000000000000000), (5, 0)])

theorem wit_sends : sender.Clear ∧ ReadsAll sender [2, 3] [0xFC00000000000000, own 0x100] sender
    ∧ ownSpan (own 0x100) 8 48 ∧ sender.Sound (sender.ownKey (own 0x100)) 6
    ∧ sendGoal sender 0 0x20 0xFC00000000000000 = some ⟨0, 0, 0⟩ ∧ replyGoal sender 0 0x2000000000000000 = some ⟨0, 0, 0⟩
    ∧ sender.fcore.sq0 = [] ∧ sender.fcore.sq1 = [] ∧ sender.fcore.sq2 = [] ∧ sender.forHost 0 (msg 0x20) = false
    ∧ sender.fctx.lnum ≠ 0 ∧ pathDepth sender.fctx.path ≠ 6 ∧ sender.fctx.joinNext ≠ 256
    ∧ sendGoal sender 0 0x20 0 = none ∧ replyGoal sender 0 0xFFFF000000000000 = none :=
  ⟨clearOf (by decide +kernel), readsAllOf (l := [(2, 0xFC00000000000000), (3, own 0x100)]) (by decide +kernel),
    by unfold ownSpan; decide +kernel, by unfold State.Sound; decide +kernel, by decide +kernel⟩
theorem test_send : (next (exec (.send 2 3 0x20) sender)).fcore.sq0.map (fun e => (e.msg.cls, e.msg.payload, e.msg.key)) = [(0x20, [1, 2, 0, 0, 0, 0], 7)]
    ∧ (after (.send 2 3 0x20) sender).dordE = 1 ∧ (next (exec (.send 2 3 0x20) sender)).fcore.seq0 = 1
    ∧ next (exec (.send 5 3 0x20) sender) = sender.trapped 0x05 0 := by decide +kernel
theorem test_sendr : (next (exec (.sendr 4 3 0x20) sender)).fcore.sq1.length = 1
    ∧ next (exec (.sendr 4 5 0x20) sender) = sender.trapped 0x05 0
    ∧ next (exec (.sendr 4 6 0x20) (sender.modF fun c => c.putX 6 (own 0x104)))
      = (sender.modF fun c => c.putX 6 (own 0x104)).trapped 0x04 (own 0x104) := by decide +kernel
theorem test_spawn : (after (.spawn 1 3 0x20) sender).getX 1 = 0 ∧ (after (.spawn 1 3 0x20) sender).joinNext = 1
    ∧ (next (exec (.spawn 1 3 0x20) sender)).fcore.sq0.map (fun e => (e.msg.s, e.msg.payload.length)) = [(true, 6)]
    ∧ next (exec (.spawn 1 3 0x20) (sender.modF fun c => { c with joinNext := 256 }))
      = (sender.modF fun c => { c with joinNext := 256 }).trapped 0x05 0 := by decide +kernel
/-- Network 1's queue holds 8 messages, with the trap chosen, and the wait. -/
def fullQueue (b : Bool) : State :=
  sender.modFcore fun q => { q with mode1 := b, sq1 := List.replicate 8 ⟨0, 0, msg 0x20, [], [], none, (0, 0), .sent, none⟩ }
theorem wit_fullQueue : 8 ≤ (fullQueue true).fcore.sq1.length ∧ (fullQueue true).fcore.mode1 = true ∧ (fullQueue false).fcore.mode1 = false
    ∧ (fullQueue false).fctx.mode = .ready := by decide +kernel
theorem test_fullQueue : next (exec (.sendr 4 3 0x20) (fullQueue true)) = (fullQueue true).trapped 0x0B 1
    ∧ (after (.sendr 4 3 0x20) (fullQueue false)).mode = .blocked := by decide +kernel

/-- Class 0x20 is bound to a task, 0x21 to port 1 of a resident of two ports at 0x4000, and 0x22 to nothing. -/
def host0 : State :=
  base.modFcore fun q =>
    { q with binds := [(0x20, .task 0x40 2), (0x21, .port 1)]
             resident := some ⟨5, 0x4000, 3, [⟨0, 0, []⟩, ⟨0, 0, []⟩], [(0, ⟨[(1, 1)], 3, 0x80, none⟩)], false, false, 0, none⟩ }
theorem welcomeOf {s : State} {core : Nat} {m : Message}
    (h : s.heldBack core (s.msgPid m) (.messageAcceptance core m) = none ∧ s.heldStop core (.messageAcceptance core m) = none
      ∧ s.keyOk core m = true ∧ s.forHost core m = false ∧ (m.kind = 1 → (s.core core).hosts m.dest = true) ∧ (s.core core).exch = none
      ∧ tableRefuses (s.core core).refTab m = false ∧ s.behindBuilt m = false ∧ overtakes (s.core core).refused m = false
      ∧ s.holdBehind core m (.messageAcceptance core m) = none
      ∧ s.recMode (s.pidOf core) m.launch ≠ 3) (ha : s.Alone m) : Welcome s core m :=
  have ⟨h1, h2, h3, h4, h5, h6, h7, h8, h9, h10, h11⟩ := h
  ⟨h1, fun _ => h2, h3, h4, h5, h6, h7, h8, h9, h10, h11, ha⟩

theorem wit_welcome : Welcome host0 0 (msg 0x20) ∧ Welcome host0 0 (msg 0x21) ∧ Welcome host0 0 (msg 0x22)
    ∧ (host0.core 0).binding 0x20 = some (.task 0x40 2) ∧ (host0.core 0).binding 0x21 = some (.port 1) ∧ (host0.core 0).binding 0x22 = none
    ∧ (host0.core 0).inbox.length < 32 ∧ (host0.core 0).hold.length < 4 ∧ (host0.core 0).latch = none :=
  have alone (m : Message) (h : m = msg 0x20 ∨ m = msg 0x21 ∨ m = msg 0x22) : host0.Alone m := by
    refine .inr ⟨by rcases h with rfl | rfl | rfl <;> decide +kernel, .inr fun v hv e he => ?_⟩
    have hn : ∀ v, v < 3 → (host0.core (senderOf m)).sq v = [] := by rcases h with rfl | rfl | rfl <;> decide +kernel
    rw [hn v hv] at he; cases he
  ⟨welcomeOf (by decide +kernel) (alone _ (.inl rfl)), welcomeOf (by decide +kernel) (alone _ (.inr (.inl rfl))),
    welcomeOf (by decide +kernel) (alone _ (.inr (.inr rfl))), by decide +kernel⟩
/-- host0 after a message has arrived. -/
def got (cls : BitVec 8) : State := next (execMessageAcceptance 0 (msg cls) host0)
theorem test_accepted : ((got 0x20).core 0).inbox.map (·.msg.cls) = [0x20] ∧ ((got 0x22).core 0).hold.map (·.msg.h) = [true]
    ∧ ((got 0x21).core 0).resident.map (fun r => r.ports.map (·.count)) = some [0, 1]
    ∧ (got 0x21).word (localKey 0 0x4400) = 0x2100010008000000 := by decide +kernel

/-- The hold is full; and a message of another key. -/
def crowded : State := host0.modFcore fun q => { q with hold := List.replicate 4 ⟨msg 0x22, 0, 0, false⟩ }
theorem wit_refusals : (crowded.core 0).messageRoom (msg 0x22) = false ∧ crowded.keyOk 0 (msg 0x22) = true
    ∧ (crowded.core 0).refused = [] ∧ crowded.holdBehind 0 (msg 0x22) (.messageAcceptance 0 (msg 0x22)) = none
    ∧ findRef (msg 0x22) (crowded.core 0).refTab = none ∧ (crowded.core 0).refTab.length < 16
    ∧ crowded.recMode (crowded.pidOf 0) (msg 0x22).launch = 0 ∧ crowded.keyOk 0 { msg 0x22 with key := 8 } = false
    ∧ crowded.heldBack 0 (crowded.msgPid (msg 0x22)) (.messageAcceptance 0 (msg 0x22)) = none
    ∧ crowded.heldBack 0 (crowded.msgPid { msg 0x22 with key := 8 }) (.messageAcceptance 0 { msg 0x22 with key := 8 }) = none := by
  decide +kernel
theorem test_refusals : ((next (exec (.messageAcceptance 0 (msg 0x22)) crowded)).core 0).refTab = [⟨0, 1, 0, 0, 0⟩]
    ∧ (next (exec (.messageAcceptance 0 (msg 0x22)) crowded)).flights.map (·.dst) = [1]
    ∧ ((next (exec (.messageAcceptance 0 { msg 0x20 with key := 8 }) host0)).core 0).inbox = [] := by decide +kernel

/-- Core 0 is the proxy of the host, and its class is 0x30. -/
def proxied : State := { host0 with parts := [(0, { part with hostEn := true, hcls := 0x30 })] }
theorem wit_hostClass : proxied.forHost 0 (msg 0x30) = true ∧ proxied.keyOk 0 (msg 0x30) = true ∧ proxied.forHost 0 (msg 0x20) = false := by
  decide +kernel
theorem test_hostClass : (next (exec (.hostClassMessage (msg 0x30)) proxied)).hostOut.length = 1
    ∧ ((next (exec (.hostClassMessage (msg 0x20)) proxied)).core 0).inbox.length = 1 := by decide +kernel

/-- Core 1 waits for its message, which core 0 has refused. -/
def waiting1 (m : SqMode) : State :=
  host0.modCore 1 fun q => { q with sq0 := [⟨3, 0, msg 0x20, [], [], none, (0, 0), m, none⟩] }
theorem wit_resends : ((waiting1 .sent).core 1).sq 0 = [⟨3, 0, msg 0x20, [], [], none, (0, 0), .sent, none⟩] ∧ (waiting1 .refused).partRuns 1 = true
    ∧ (waiting1 .sent).heldBack 1 ((waiting1 .sent).pidOf 1) (.refused 1 (msg 0x20) false) = none
    ∧ (msg 0x20).side.hardware = false ∧ ({ (msg 0x20).side with built := 1 } : Side).hardware = true := by decide +kernel
theorem test_resends2 : ((next (exec (.refused 1 (msg 0x20) false) (waiting1 .sent))).core 1).sq0.map (·.mode) = [.refused]
    ∧ ((next (exec (.refusedMessageResend 1 0 0) (waiting1 .refused))).core 1).sq0.map (·.mode) = [.sent]
    ∧ (next (exec (.refusedMessageResend 1 0 0) (waiting1 .refused))).flights.map (·.dst) = [0]
    ∧ (next (exec (.hardwareMessageResend { msg 0x20 with side := { (msg 0x20).side with built := 1 } }) host0)).flights.length = 1 := by
  decide +kernel
theorem test_withdrawal : ((next (exec (.withdrawal 0 0 1 0 0 0) (host0.modFcore fun q => { q with refTab := [⟨0, 1, 0, 0, 0⟩] }))).core 0).refTab
    = [] := by decide +kernel

/-- A drain message is armed; and with the inbox full. -/
def armed (n : Nat) : State :=
  base.modFcore fun q => { q with arm := true, drainCls := 0x20, inbox := List.replicate n ⟨msg 0x20, 0, 0, false⟩ }
theorem wit_drain : ((armed 0).core 0).arm = true ∧ ((armed 0).core 0).latch = none ∧ ((armed 32).core 0).sq1.length ≤ ((armed 0).core 0).low.toNat
    ∧ 0x10 ≤ ((armed 0).core 0).drainCls.toNat := by decide +kernel
theorem test_drain : ((next (exec (.drainMessagePost 0) (armed 0))).core 0).inbox.length = 1
    ∧ ((next (exec (.drainMessagePost 0) (armed 32))).core 0).latch.map (·.cls) = some 0x20
    ∧ ((next (exec (.drainMessagePost 0) (armed 0))).core 0).arm = false := by decide +kernel
theorem test_locator : findLocator 5 ((next (exec (.locatorCorrection 0 5 0 9) base)).octet 0).locators = some ⟨5, 0, 9⟩ := by decide +kernel

/-- Port 1 of core 0's resident takes notices; it is full in one state, and there is no resident in another. -/
def supervised (n : Nat) : State :=
  { host0.modFcore fun q => { q with resident := q.resident.map fun r => { r with ports := [⟨0, 0, []⟩, ⟨0, n, []⟩] } } with
    parts := [(0, { part with svEn := true, svPort := 1 })] }
def notice : Notice := ⟨0, 0, 1, 0, [0, 0, 0, 0]⟩
theorem wit_noticeEntry : (supervised 0).noticeBehind notice = false ∧ (supervised 0).Sound (localKey 0 0x4400) 8
    ∧ localKey 0 0x4400 % 8 = 0 := ⟨by decide +kernel, by unfold State.Sound; decide +kernel, by decide +kernel⟩
/-- A notice of kind 1 of core 193, at (1, 1). -/
theorem test_noticeEntry :
    let t := next (exec (.supervisorNotice { notice with core := 193, octet := 0 }) (supervised 0))
    t.word (localKey 0 0x4400) = 0x0D01010008000000 ∧ t.word (localKey 0 0x4408) = 0xC101 := by decide +kernel
theorem wit_notice : (supervised 0).part 0 = some { part with svEn := true, svPort := 1 }
    ∧ (supervised 0).heldBack 0 0 (.supervisorNotice notice) = none
    ∧ ((supervised 16).core 0).resident.map (fun r => r.ports.map (·.count)) = some [0, 16]
    ∧ (base.core 0).resident = none ∧ part.svNdrop ≠ 0xFFFF := by decide +kernel
theorem test_notice : ((next (exec (.supervisorNotice notice) (supervised 0))).core 0).resident.map (fun r => r.ports.map (·.count)) = some [0, 1]
    ∧ ((next (exec (.supervisorNotice notice) (supervised 16))).timers.length) = 1
    ∧ ((next (exec (.supervisorNotice notice) base)).part 0).map (·.svNdrop) = some 1
    ∧ (next (exec (.noticeResend notice) (supervised 0))).flights.map (·.dst) = [0] := by decide +kernel

theorem wit_starts : ((got 0x20).core 0).freeCtx = some 1 ∧ ((got 0x21).core 0).freeCtx = some 1
    ∧ (match (got 0x20).choice 0 with | some (.task e pc prio) => some (e.msg.cls, pc, prio) | _ => none) = some (0x20, 0x40, 2)
    ∧ (match (got 0x21).choice 0 with | some (.fire u) => some (u.counts, u.pc) | _ => none) = some ([(1, 1)], 0x80)
    ∧ (msg 0x20).payload.length = 6 ∧ (got 0x20).recMode ((got 0x20).pidOf 0) (msg 0x20).launch = 0 := by decide +kernel
/-- The task runs in context 1: its pc, its stack, the header and the payload. -/
def begun : State := next (execTaskStart 0 (got 0x20))
def fired : State := next (execFiringStart 0 (got 0x21))
theorem test_taskStart : (begun.ctx 0 1).run = .task 0x20 2 none false ∧ (begun.ctx 0 1).pc = 0x40 ∧ (begun.ctx 0 1).getX 15 = 6
    ∧ (begun.ctx 0 1).getX 2 = (base.core 0).stackTop 1 ∧ (begun.core 0).inbox = [] := by decide +kernel
theorem test_firingStart : (fired.ctx 0 1).pc = 0x80 ∧ (fired.ctx 0 1).getX 11 = 1 ∧ (fired.ctx 0 1).getX 10 = own 0x4400
    ∧ (fired.core 0).resident.map (·.firing) = some true := by decide +kernel

/-- Context 1 at its end, a child's end, and a firing's. -/
def ending (s : State) : State := { s with focusCtx := 1 }
def childEnding : State := (ending begun).modF fun c => { c with run := .task 0x20 2 (some (0, 1, 0x100)) false }
theorem wit_done : (ending begun).Clear ∧ (ending begun).fcore.joins = [] ∧ (ending begun).fctx.groupReply = none ∧ (ending begun).fctx.lmode = 0
    ∧ (ending begun).fpart.enabled .c16 = true ∧ childEnding.fcore.taskOps 1 childEnding.fctx.task = []
    ∧ (ending fired).fctx.run = .firing 5 3 [(1, 1)] :=
  ⟨clearOf (by decide +kernel), by decide +kernel⟩
theorem test_done : (after .taskDone (ending begun)).run = .none ∧ (after .hDone (ending begun)).run = .none
    ∧ (next (exec .taskDone childEnding)).flights.map (·.dst) = [1]
    ∧ (next (exec .taskDone (ending fired))).fcore.resident.map (fun r => (r.firing, r.ports.map (·.count))) = some (false, [0, 0]) := by
  decide +kernel
/-- A child's result for a slot at 0x100 of core 0. -/
def delivery : JoinDel := ⟨0, 0x100, 5, 6, 0, 1⟩
theorem wit_joinDelivery : base.arriveAt (localKey 0 0x108) (base.pidOf 0) (.joinDelivery delivery) = none ∧ base.poisoned (localKey 0 0x108) = false
    ∧ base.tag (localKey 0 0x108) = false ∧ base.waitTab 0 = [] := by decide +kernel
theorem test_joinDelivery : (next (exec (.joinDelivery delivery) base)).word (localKey 0 0x108) = 6
    ∧ (next (exec (.joinDelivery delivery) base)).tag (localKey 0 0x108) = true
    ∧ ((next (exec (.joinDelivery delivery) { base with tags := [(localKey 0 0x108, 0)] })).waitTab 0).length = 1 := by decide +kernel

/-- A partition with a directory at frame 0x200; x2 and x3 as given. -/
def binder (x y : Word) : State := { host0.modF fun c => (c.putX 2 x).putX 3 y with parts := [(0, { part with resEn := true, resBase := 0x200 })] }
theorem wit_binds : bindStatus (binder 0x20 0x40).fcore 0x20 0x40 = 0 ∧ bindStatus (binder 0x420 0).fcore 0x420 0 = 0
    ∧ bindStatus (binder 0x420 1).fcore 0x420 1 = 2 ∧ bindable 0x20 = true ∧ bindable 1 = false
    ∧ resideStatus (binder 5 0xF0000) 5 0xF0000 = 0
    ∧ resideStatus ((binder 6 0x30000).modFcore fun q => { q with resident := none }) 6 0x30000 = 0
    ∧ paOk ((binder 6 0).fpart.dirKey 6) = true ∧ (binder 6 0).homeNow ((binder 6 0).fpart.dirKey 6) = (0, (binder 6 0).fpart.dirKey 6)
    ∧ (binder 6 0).steady ((binder 6 0).fpart.dirKey 6) = true ∧ ruleStatus (binder 0x300001 0x80).fcore 0x300001 0x80 = 0
    ∧ (binder 6 0).part ((binder 6 0).pidOf 0) = some (binder 6 0).fpart := by decide +kernel
theorem test_bind : mapFind (next (exec (.bind 1 2 3) (binder 0x20 0x40))).fcore.binds 0x20 = some (.task 0x40 0)
    ∧ mapFind (next (exec (.bind 1 2 3) (binder 0x420 0))).fcore.binds 0x20 = some (.port 0)
    ∧ (after (.bind 1 2 3) (binder 0x420 1)).getX 1 = 2 ∧ mapFind (next (exec (.unbind 1 2) (binder 0x20 0))).fcore.binds 0x20 = none
    ∧ (after (.unbind 1 2) (binder 1 0)).getX 1 = 1 := by decide +kernel
theorem test_reside : (next (exec (.reside 1 2 3) (binder 5 0xF0000))).fcore.resident = none ∧ (after (.reside 1 2 3) (binder 6 0x30000)).getX 1 = 2
    ∧ ((next (exec (.reside 1 2 3) ((binder 6 0x30000).modFcore fun q => { q with resident := none }))).fcore.resident.map (·.name)) = some 6 := by
  decide +kernel
theorem test_rule : (next (exec (.rule 1 2 3) (binder 0x300001 0x80))).fcore.resident.map (fun r => mapFind r.rules 3) = some (some ⟨[(0, 1)], 0, 0x80, none⟩)
    := by decide +kernel

/-- Supervisor privilege; x2 the image's address on an executable page, whose header names 4 bytes at offset 0x10; x3 core 0. -/
def loader (f : Ctx → Ctx) : State :=
  ((((paged 9 [(0, 0, 0x400009, false)]).modF fun c => f { ((c.putX 2 0).putX 3 (own 0)) with prv := true }).write 0x40000 8 0x100004).write
    0x40010 8 0x1122334455667788)
theorem wit_codeLoads : (loader id).Clear ∧ ReadsAll (loader id) [2, 3] [0, own 0] (loader id)
    ∧ (loader id).fctx.prv = true ∧ (loader id).fctx.copy = none ∧ coreForm (loader id).fpart 0 (own 0) = some (0, 0)
    ∧ tlbFind ((loader id).pidOf 0) 0 (loader id).fcore.dtlb = some (0x400009, false) ∧ permits 0x400009 .codeSource = true
    ∧ (leafDest 0x400009 false 0x10).module = (loader id).module ∧ (loader id).forward (leafDest 0x400009 false 0x10).key = none
    ∧ imageStatus (loader id).fpart [0x100004, 0] = 0 ∧ imageStatus (loader id).fpart [0x100005, 0] = 1
    ∧ imageDest [0x100004, 0] = 0x10 ∧ imageLen [0x100004, 0] = 4 ∧ ((loader id).octet 0).power = .active :=
  ⟨clearOf (by decide +kernel), readsAllOf (l := [(2, 0), (3, own 0)]) (by decide +kernel), by decide +kernel⟩
/-- The four issues of a CODELD: the address, two words of the header, and the code. -/
def load1 : State := next (execCodeld 1 2 3 (loader id))
def load2 : State := next (execCodeld 1 2 3 load1)
def load3 : State := next (execCodeld 1 2 3 load2)
def load4 : State := next (execCodeld 1 2 3 load3)
theorem test_codeld : load1.fctx.copy.map (·.header) = some [] ∧ load2.fctx.copy.map (·.header) = some [0x100004]
    ∧ load3.fctx.copy.map (·.header) = some [0x100004, 0] ∧ load4.fctx.pc = 4 ∧ load4.fctx.getX 1 = 0
    ∧ load4.read (codeKey 0 0x10) 4 = 0x55667788 ∧ load4.read (codeKey 0 0x14) 4 = 0 := by decide +kernel
theorem test_codeldTraps : next (exec (.codeld 1 2 3) (loader fun c => { c with prv := false }))
    = (loader fun c => { c with prv := false }).trapped 0x03 (encode (.codeld 1 2 3)).toWord
    ∧ next (exec (.codeld 1 2 3) (loader fun c => c.putX 2 4)) = (loader fun c => c.putX 2 4).trapped 0x04 4
    ∧ next (exec (.codeld 1 2 3) (loader fun c => c.putX 2 (2 ^ 55))) = (loader fun c => c.putX 2 (2 ^ 55)).trapped 0x05 (2 ^ 55) := by decide +kernel
/-! ## What happens at a word's home -/

/-- A store, a RED, a load, an AMO and a full/empty request of core 0's context 0 for the word at device byte 0x40008. -/
def who0 : Who := ⟨0, 0, 0, 9⟩
def store (op : StoreOp) : StoreReq := ⟨.ctx who0, 0, 0, 1, 0, op, false, 0, 7⟩
def amo (op : AmoOp) : AmoReq := ⟨.ctx who0, 0, 0, 1, 0, 0x40008, op, false, 5, 6, false, 0, 7⟩
def fe (op : FeOp) (deadline : Word) : FeReq := ⟨who0, 0, 1, 0, 0x40008, op, 7, deadline, 0, 7⟩
/-- The word holds 0x1111; poisoned, or full, if so asked. -/
def device (bad full : Bool) : State :=
  { base.write 0x40008 8 0x1111 with poison := if bad then [0x40008] else [], tags := if full then [(0x40008, 0)] else [] }

theorem arrivesOf {s : State} {key pid k : Nat} {e : Event} (h : (match s.onward key pid e with | .inr j => j == k | _ => false) = true) :
    s.Arrives key pid e k := by
  unfold State.Arrives
  split at h
  · next j hj => rw [hj, beq_iff_eq.mp h]
  · cases h

/-- Each at its own key; and, with frame 4's first line moved to frame 6, at the new place. -/
def moved : State := (device false false).modPort 4 fun q => { q with moves := [(0, ⟨0x40000, 0, 0x60000, 0, 0x30000, 0x400007, 1, false, false, 0, 0⟩)] }
theorem wit_home : (device false false).Serves 0x40008 0 1 (.remoteStore (store (.bytes 0x40008 4 5))) who0 0x40008
    ∧ moved.Serves 0x40008 0 1 (.remoteStore (store (.bytes 0x40008 4 5))) who0 0x60008
    ∧ (device true false).Serves 0x40008 0 1 (.amoRequest (amo .cas)) who0 0x40008
    ∧ (device false true).Serves 0x40008 0 1 (.fullEmptyRequest (fe .ldfe 0)) who0 0x40008
    ∧ (moved.queueLine 0x60008).isSome = true ∧ ((device false false).queueLine 0x40008).isSome = true ∧ (device true false).poisoned 0x40008 = true
    ∧ (device true false).waitTab (homePlace 0x40008) = [] :=
  ⟨⟨arrivesOf (by decide +kernel), rfl, by decide +kernel⟩, ⟨arrivesOf (by decide +kernel), rfl, by decide +kernel⟩,
    ⟨arrivesOf (by decide +kernel), rfl, by decide +kernel⟩, ⟨arrivesOf (by decide +kernel), rfl, by decide +kernel⟩, by decide +kernel⟩
theorem test_storeHome : (next (exec (.remoteStore (store (.bytes 0x40008 4 5))) (device false true))).word 0x40008 = 5
    ∧ (next (exec (.remoteStore (store (.bytes 0x40008 4 5))) (device false true))).tag 0x40008 = true
    ∧ (next (exec (.remoteStore (store (.bytes 0x40008 4 5))) (device true false))).poisoned 0x40008 = true
    ∧ (next (exec (.remoteStore (store (.bytes 0x40008 8 5))) (device true true))).poisoned 0x40008 = false := by decide +kernel
theorem test_redHome : (next (exec (.remoteStore (store (.red 0x40008 8 .add 5))) (device false false))).word 0x40008 = 0x1116
    ∧ (next (exec (.remoteStore (store (.red 0x40008 8 .add 5))) (device true false))).mchecks = 1 := by decide +kernel
theorem test_loadHome : (next (exec (.remoteLoad ⟨who0, 0, 0, 0x40008, 2, 7⟩) (device false false))).flights.map (·.ev)
    = [.loadReply ⟨who0, .value 0x1111⟩]
    ∧ (next (exec (.remoteLoad ⟨who0, 0, 0, 0x40008, 2, 7⟩) (device true false))).flights.map (·.ev) = [.loadReply ⟨who0, .poisoned⟩] := by
  decide +kernel
theorem test_amoHome : (next (exec (.amoRequest (amo .cas)) (device false false))).word 0x40008 = 0x1111
    ∧ (next (exec (.amoRequest (amo .swap)) (device false false))).word 0x40008 = 5 := by decide +kernel

/-- Port 4's write queue is full. -/
def stuffed : State := (device false false).modPort 4 fun q => { q with queue := List.range 64, stopped := [] }
theorem wit_forwarded : moved.forward 0x40008 = some (0, 0x60008) ∧ stuffed.queueLine 0x40008 = none
    ∧ moved.arriveAt 0x40008 0 (.remoteLoad ⟨who0, 0, 0, 0x40008, 2, 7⟩) = none
    ∧ (moved.homeNow 0x40008, moved.lineAway 0x60008, moved.stopsAt (homePlace 0x60008)) = ((0, 0x60008), false, false)
    ∧ moved.leaves (.remoteLoad ⟨who0, 0, 0, 0x40008, 2, 7⟩) = none ∧ (moved.port 4).fwd = []
    ∧ moved.heldAfter (homePlace 0x60008) (.remoteLoad ⟨who0, 0, 0, 0x40008, 2, 7⟩) = none
    ∧ stuffed.Arrives 0x40008 0 (.remoteStore (store (.bytes 0x40008 4 5))) 0x40008 :=
  ⟨by decide +kernel, by decide +kernel, by decide +kernel, by decide +kernel, by decide +kernel, by decide +kernel,
    by decide +kernel, arrivesOf (by decide +kernel)⟩
/-- The frame's first line lies in module 7 now, and a request of core 0 is on its way there. -/
def away : State := (device false false).modPort 4 fun q => { q with moves := [(0, ⟨0x40000, 7, 0x60000, 0, 0x30000, 0x400007, 1, false, false, 0, 0⟩)] }
def gone0 : State := next (execRemoteLoad ⟨who0, 0, 0, 0x40008, 2, 7⟩ away)
theorem wit_sentAway : (away.port 4).fwd = [] ∧ away.homeNow 0x40008 = (7, 0x60008)
    ∧ (gone0.port 4).fwd.map (fun x => (gone0.requesters x.2 == gone0.requesters (.remoteLoad ⟨who0, 0, 0, 0x40008, 1, 7⟩), x.1 != 0))
      = [(true, true)] := by decide +kernel
theorem test_sentAway : gone0.fabOut.map (fun p => (p.2.dst, match p.2.cargo with | .load r => r.key | _ => 0)) = [(7, 0x60008)]
    ∧ (let i := ((gone0.port 4).fwd.getD 0 (0, .bootFailureFrame)).1
      (next (exec (.loadReply ⟨⟨0, portPlace 4, 32, i⟩, .value 0x1234⟩) gone0)).flights.map (·.ev)) = [.loadReply ⟨who0, .value 0x1234⟩]
    ∧ ((next (exec (.remoteLoad ⟨who0, 0, 0, 0x40008, 1, 7⟩) gone0)).port 4).fwd.map (·.1 == 0) = [false, true] := by
  decide +kernel
theorem test_forwarded : (next (exec (.remoteStore (store (.bytes 0x40008 4 5))) moved)).word 0x60008 = 5
    ∧ (next (exec (.remoteStore (store (.bytes 0x40008 4 5))) moved)).word 0x40008 = 0x1111
    ∧ ((next (exec (.remoteStore (store (.bytes 0x40008 4 5))) stuffed)).port 4).stopped.length = 1
    ∧ ((next (exec (.writeQueueEntryFree 4) stuffed)).port 4).queue.length = 63 := by decide +kernel

theorem wit_fullEmptyHome : (fe .ldfe 0).deadline = 0 ∧ (5 : Word).toNat * 1600000 ≤ ({ device false true with wallUnits := 5 * 1600000 } : State).wallUnits
    ∧ (device false true).tag 0x40008 = true ∧ (device false false).tag 0x40008 = false
    ∧ (device false false).feRoom (homePlace 0x40008) (fe .ldf 0) = true
    ∧ ((device false false).modPort 4 fun q => { q with waitTab := List.replicate 64 ⟨fe .ldf 0, none, 0, 0⟩ }).feRoom (homePlace 0x40008) (fe .ldf 0)
      = false := by decide +kernel
theorem test_fullEmptyHome : (next (exec (.fullEmptyRequest (fe .ldfe 0)) (device false true))).tag 0x40008 = false
    ∧ (next (exec (.fullEmptyRequest (fe .stf 0)) (device false false))).word 0x40008 = 7
    ∧ ((next (exec (.fullEmptyRequest (fe .ldf 5)) (device false false))).waitTab (homePlace 0x40008)).length = 1
    ∧ (next (exec (.fullEmptyRequest (fe .ste 0)) (device true false))).poisoned 0x40008 = false
    ∧ (next (exec (.fullEmptyRequest (fe .ldf 5)) { device false true with wallUnits := 5 * 1600000 })).flights.map (·.ev)
      = [.loadReply ⟨who0, .timeout⟩] := by decide +kernel
/-- The request is held at its home; its context asks again, or has given it up. -/
def held0 : State := next (execFullEmptyRequest (fe .ldf 5) (device false false))
def asking (c : Bool) : State := base.modF fun x => { x with mode := .waiting, req := some (.fe (fe .ldf 5) 1 8 false c x.streams) }
theorem wit_heldRequests : (held0.waitTab (homePlace 0x40008)).map (·.req) = [fe .ldf 5] ∧ base.waitTab (homePlace 0x40008) = []
    ∧ held0.recMode 0 1 = 0 ∧ ((asking true).ctx 0 0).req.isSome = true := by decide +kernel
theorem test_heldRequests : (next (exec (.heldEntryTimeout (fe .ldf 5)) { held0 with wallUnits := 5 * 1600000 })).waitTab (homePlace 0x40008) = []
    ∧ (next (exec (.fullEmptyCancel (fe .ldf 5)) held0)).waitTab (homePlace 0x40008) = []
    ∧ (next (exec (.fullEmptyResend (fe .ldf 5)) (asking false))).flights.map (·.ev) = [.fullEmptyRequest (fe .ldf 5)]
    ∧ ((next (exec (.fullEmptyResend (fe .ldf 5)) (asking true))).ctx 0 0).mode = .ready := by decide +kernel

/-- A load of one signed byte into x1 is outstanding; its context, with a handler at 0x40, has gone on and written x2. -/
def loading0 : State :=
  base.modF fun c =>
    let c := { c with tvec := 0x20 }
    { c.putX 2 7 with pc := 4, pend := [⟨9, 1, .load 1 true, 8, (0, 4), false, some c.regs⟩] }
theorem wit_replies : (loading0.ctx 0 0).req = none ∧ (splitPend 9 (loading0.ctx 0 0).pend).2.map (·.kind) = some (.load 1 true)
    ∧ task.regs.ih = false ∧ ((asking false).ctx 0 0).req.isSome = true := by decide +kernel
/-- Poison undoes what the context has done since, and traps at the load. -/
theorem test_loadPoison : let c := (next (exec (.loadReply ⟨who0, .poisoned⟩) loading0)).fctx
    (c.cause, c.tval, c.tpc, c.pc, c.getX 2) = (0x08, 8, 0, 0x40, 0) := by decide +kernel
theorem test_loadReply : (next (exec (.loadReply ⟨who0, .value 0x180⟩) loading0)).fctx.getX 1 = 0xFFFFFFFFFFFFFF80
    ∧ (next (exec (.loadReply ⟨who0, .value 0x180⟩) loading0)).fctx.pc = 4 := by decide +kernel
theorem test_fullEmptyReply : (next (exec (.loadReply ⟨who0, .value 3⟩) (asking false))).fctx.getX 1 = 3
    ∧ (next (exec (.loadReply ⟨who0, .timeout⟩) (asking false))).fctx.tmo = true
    ∧ (next (exec (.loadReply ⟨who0, .cancelled⟩) (asking false))).fctx.mode = .ready
    ∧ (next (exec (.loadReply ⟨who0, .retry⟩) (asking false))).timers.length = 1 := by decide +kernel

/-- An AMO is outstanding in x1, and a store in the buffer. -/
def pending0 : State :=
  (base.modF fun c => { c with pend := [⟨9, 1, .amo true, 8, (0, 4), false, none⟩] }).modFcore fun q =>
    { q with sb := [⟨7, 0, store (.bytes 0x40008 4 5), 0, [], false, true⟩] }
theorem wit_answers : splitPend 9 (pending0.ctx 0 0).pend = ([], some ⟨9, 1, .amo true, 8, (0, 4), false, none⟩)
    ∧ splitPend 4 (pending0.ctx 0 0).pend = ([⟨9, 1, .amo true, 8, (0, 4), false, none⟩], none) ∧ (pending0.core 0).sb.map (·.id) = [7] := by decide +kernel
theorem test_amoReply : (next (exec (.amoReply ⟨who0, .value 0x80000000⟩) pending0)).fctx.getX 1 = 0xFFFFFFFF80000000
    ∧ findMark 1 (next (exec (.amoReply ⟨who0, .poisoned⟩) pending0)).fctx.marks = some (.poisoned 8)
    ∧ findMark 1 (next (exec (.amoLimitExpiry who0) pending0)).fctx.marks = some (.lost 8)
    ∧ (next (exec (.amoLimitExpiry ⟨0, 0, 8, 7⟩) pending0)).mchecks = 1 := by decide +kernel
theorem test_storeAcknowledged : (next (exec (.storeAcknowledgement 0 7) pending0)).fcore.sb = [] := by decide +kernel
/-- Two AMOADDs of 5 and 6 merged into record 3. -/
def merged : State := base.modOctet 0 fun o => { o with records := [(3, ⟨.ctx who0, .ctx ⟨0, 1, 0, 4⟩, .add, false, 5, false, false⟩)] }
theorem wit_records : mapFind (merged.octet 0).records 3 = some ⟨.ctx who0, .ctx ⟨0, 1, 0, 4⟩, .add, false, 5, false, false⟩
    ∧ mapFind (merged.octet 0).records 4 = none := by decide +kernel
theorem test_split : (next (exec (.decombineSplit 0 3 (.value 10)) merged)).flights.map (·.ev)
    = [.amoReply ⟨who0, .value 10⟩, .amoReply ⟨⟨0, 1, 0, 4⟩, .value 15⟩]
    ∧ (next (exec (.decombineSplit 0 4 (.value 10)) merged)).mchecks = 1 := by decide +kernel

/-- A context of core 0 that walks for VA 8, through a page that is mapped, and through one that is not. -/
def walking (bits : Word) : State :=
  { (paged bits []).modF fun c => { c with mode := .walking 8 .read } with walkers := [(clusterOf 0, [⟨0, pageOf 8, false, [⟨0, 0, 8, .read, false⟩]⟩])] }
theorem wit_walks : ((walking 3).ctx 0 0).mode = .walking 8 .read ∧ tlbFind ((walking 3).pidOf 0) 8 ((walking 3).clusterTlb 0) = none
    ∧ mapGet [] (walking 3).walkCache (clusterOf 0) = [] ∧ (walking 3).walk ((walking 3).partAt 0) 8 = .leaf 0x400003 false 0x30000
    ∧ (walking 0).walk ((walking 0).partAt 0) 8 = .bad 3 false ∧ (walking 3).farReads = []
    ∧ ((walking 3).walkKeys ((walking 3).partAt 0) 8).all (fun k => ((walking 3).homeNow k).1 == 0) = true := by decide +kernel
/-- The same walk, begun afresh for a denied write. -/
def rewalking (bits : Word) : State :=
  { (paged bits []).modF fun c => { c with mode := .walking 8 .write } with
    walkers := [(clusterOf 0, [⟨0, pageOf 8, true, [⟨0, 0, 8, .write, true⟩]⟩])] }
theorem wit_rewalk : permits 0x400007 .write = true ∧ ((rewalking 7).ctx 0 0).mode = .walking 8 .write
    ∧ (rewalking 7).walk ((rewalking 7).partAt 0) 8 = .leaf 0x400007 false 0x30000 := by decide +kernel
theorem test_rewalk : ((next (exec (.pageTableWalk ⟨0, 0, 8, .write, true⟩) (rewalking 7))).ctx 0 0).mode = .ready
    ∧ (next (exec (.pageTableWalk ⟨0, 0, 8, .write, true⟩) (rewalking 3))).flights.map (·.ev) = [.launchEndByFault 0 1 0x07 8 0] := by
  decide +kernel
theorem test_walks : ((next (exec (.pageTableWalk ⟨0, 0, 8, .read, false⟩) (walking 3))).ctx 0 0).mode = .ready
    ∧ tlbFind 0 8 ((next (exec (.pageTableWalk ⟨0, 0, 8, .read, false⟩) (walking 3))).core 0).dtlb = some (0x400003, false)
    ∧ ((next (exec (.pageTableWalk ⟨0, 0, 8, .read, false⟩) (walking 0))).ctx 0 0).mode = .parked 8 .read 3 0 := by decide +kernel

/-- A move of frame 4 to frame 6, at its first line, and at its last, with the entry at 0x30000. -/
def moving (n : Nat) : State :=
  ((device false false).write 0x30000 8 0x400007).modPort 4 fun q => { q with moves := [(0, ⟨0x40000, 0, 0x60000, 0, 0x30000, 0x400007, n, false, false, 0, 0⟩)] }
theorem wit_moves : Memory.wf (moving 0).mem = true ∧ (moving 1023).forward 0x30000 = none ∧ (moving 1023).steady 0x30000 = true
    ∧ mapFind ((moving 1023).port 4).moves 0 = some ⟨0x40000, 0, 0x60000, 0, 0x30000, 0x400007, 1023, false, false, 0, 0⟩ := by decide +kernel
theorem test_moves : (next (exec (.pageLineCopy 4 0) (moving 0))).word 0x60008 = 0x1111
    ∧ (next (exec (.pageLineCopy 4 0) (moving 1023))).word 0x30000 = 0x600007
    ∧ (next (exec (.pageLineCopy 4 0) ((moving 1023).write 0x30000 8 0x400003))).mchecks = 1 := by decide +kernel

/-- The steps of a page's move between modules, as packets from module 7. -/
def between (c : Cargo) (s : State) : State := next (execFabricMessageReceive ⟨7, 0, 3, (findPair 7 3 s.fabric).expect, c⟩ s)
def request7 : MoveReq := ⟨⟨7, 0, 0, 5⟩, 0, 0, 0x40000, 7, 0x60000, 0x30000, 0x400007⟩
theorem wit_movesSteady : (device false false).steady 0x30000 = true ∧ (device false false).steady 0x40008 = true := by decide +kernel
theorem wit_movesBetween : (away.ctx 0 0).req.isSome = false ∧ freeMove ((device false false).port 4).moves = some 0
    ∧ freeMove (((device false false).modPort 4 fun q => { q with moves := (List.range 4).map fun i => (i, ⟨0, 0, 0, 0, 0, 0, 0, false, false, 0, 0⟩) }).port 4).moves
      = none := by decide +kernel
theorem test_movesBetween : ((between (.moveReq request7) (device false false)).port 4).moves.map (fun m => (m.2.dstModule, m.2.copied)) = [(7, 0)]
    ∧ (between (.line 0 4 0 0x60000 ((List.range 8).map fun j => (BitVec.ofNat 64 j, j == 1, j == 2))) (device false false)).word 0x60018 = 3
    ∧ (between (.pteSwitch 0 0x40008 0x1111 5) (device false false)).word 0x40008 = 5
    ∧ (between (.pteSwitch 0 0x40008 0x1112 5) (device false false)).mchecks = 1 := by decide +kernel
theorem test_lineSent : (next (exec (.pageLineCopy 4 0) away)).fabOut.map (fun p => match p.2.cargo with | .line _ _ _ k l => (k, l.getD 1 (0, false, false)) | _ => (0, (0, false, false)))
    = [(0x60040, (0, false, false))] ∧ (next (exec (.pageLineCopy 4 0) away)).mem = away.mem := by decide +kernel
/-! ## Launches, the log, Smalt and power -/

/-- A partition whose stream 0 holds n requests. -/
def queuedUp (n : Nat) : State := { base with parts := [(0, part.setStream 0 (List.replicate n (request 0x2000, false)))] }

theorem aloneRequest (w : Word) : base.Alone (request w) := by
  refine .inr ⟨rfl, .inr fun v hv e he => ?_⟩
  have hn : ∀ v, v < 3 → (base.core 1).sq v = [] := by decide +kernel
  have : (base.core (senderOf (request w))).sq v = [] := hn v hv
  rw [this] at he; cases he
theorem wit_launchRequest : base.part (base.pidOf (senderOf (request 0x2000))) = some part ∧ base.Alone (request 0x2000)
    ∧ (∀ q ∈ base.parts, q.2.stage ≠ .saved) ∧ base.preempted (part.coreOf 0) (base.pidOf 1) = false ∧ part.key = (request 0).key
    ∧ tableRefuses part.seqRef (request 0x2000) = false ∧ overtakes part.seqRefused (request 0x2000) = false ∧ base.behindBuilt (request 0x2000) = false ∧ 16 ≤ ((part.setStream 0 (List.replicate 16 (request 0x2000, false))).stream 0).length
    ∧ ((0x2000 : Word).extractLsb' 8 8).toNat = 0x20 ∧ ((0x1000 : Word).extractLsb' 8 8).toNat = 16 :=
  ⟨by decide +kernel, aloneRequest _, by decide +kernel⟩
theorem wit_launchRefusals : base.recMode (base.pidOf 1) (request 0x2000).launch = 0 ∧ base.refusalLogged 0 (request 0x2000) = false
    ∧ base.holdBehind 0 (request 0x2000) (.launchRequest (request 0x2000)) = none := by decide +kernel
theorem test_launchRequest : ((next (exec (.launchRequest (request 0x2000)) base)).part 0).map (fun p => (p.stream 0).length) = some 1
    ∧ ((next (exec (.launchRequest (request 0x2004)) base)).part 0).map (fun p => (p.stream 0).length) = some 0
    ∧ (next (exec (.launchRequest (request 0x0F00)) base)).flights.map (fun f => (f.dst, (eventMessage f.ev).map (·.payload)))
      = [(1, some [0x8000000000000004, 0, 0, 0, 0, 0])]
    ∧ ((next (exec (.launchRequest (request 0x2000)) (queuedUp 16))).part 0).map (fun p => (p.stream 0).length) = some 16 := by decide +kernel

theorem wit_launchStart : (queuedUp 2).part 0 = some (part.setStream 0 (List.replicate 2 (request 0x2000, false)))
    ∧ (part.setStream 0 (List.replicate 2 (request 0x2000, false))).startable 0 = some (request 0x2000, false)
    ∧ part.launches = [] := by decide +kernel
/-- The first launch runs. -/
def launched : State := next (execLaunchStart 0 0 (queuedUp 2))
theorem test_launchStart : (launched.part 0).map (fun p => (p.activeOn 0, (p.stream 0).length, p.nextNum)) = some (some 1, 1, 2)
    ∧ launched.flights.map (fun f => (eventMessage f.ev).map (fun m => (m.launch, m.cls, m.payload.head?))) = [some (1, 0x20, some 1)] := by
  decide +kernel
/-- Nothing is left of the launch but its record in the sequencer. -/
def loaded : State := { launched with cores := [], flights := [] }
theorem wit_launchEnds : (launched.part 0).map (fun p => launched.launchOver p 1) = some false
    ∧ (loaded.part 0).map (fun p => (loaded.launchOver p 1, p.stage, (findLaunch 1 p.launches).map (·.num))) = some (true, .running, some 1) := by
  decide +kernel
theorem test_launchComplete : (next (exec (.launchComplete 0 1) loaded)).flights.map (fun f => (eventMessage f.ev).map (·.payload.take 2))
    = [some [0x8000000000000000, 1]]
    ∧ ((next (exec (.launchComplete 0 1) loaded)).part 0).map (fun p => (p.launches.length, p.activeOn 0)) = some (0, none) := by decide +kernel
theorem test_launchFault : (next (exec (.launchEndByFault 0 1 0x23 5 6) loaded)).flights.map (fun f => (eventMessage f.ev).map (·.payload.take 5))
    = [some [0x8000000000000003, 1, 0x23, 5, 6]] := by decide +kernel

/-- A launch that replays a log of two entries at region 0x100; and one that records, with core 3's site stalled. -/
def logged (mode : Nat) (st : List (Nat × Nat × Nat × Word)) (n : BitVec 40 := 2) : State :=
  (({ base with parts := [(0, { part with
      mlogBase := 0x100, mlogEn := true, logNext := n, recorder := some 1
      launches := [⟨1, mode, false, 0, request 0x2000, 0, 0, false, false⟩] })] } : State).modSite 3 fun x => { x with stalls := st }).write
    0x1000000 8 (3 * 2 ^ 60 + 3 * 2 ^ 46 + 5)
theorem wit_logReader : (logged 3 []).recMode 0 1 = 3 ∧ ((logged 3 []).part 0).map (fun p => (p.recorder, p.readPos, p.logNext.toNat)) = some (some 1, 0, 2)
    ∧ (logged 3 []).farReads = [] ∧ (logged 3 []).homeNow 0x1000000 = (0, 0x1000000) ∧ (logged 3 []).homeNow 0x1000008 = (0, 0x1000008)
    ∧ ((logged 3 []).part 0).map (·.stage) = some .running ∧ ((logged 3 []).write 0x1000000 8 5).word 0x1000000 = 5
    ∧ (logged 3 []).word 0x1000000 = 0x3000C00000000005 ∧ ((logged 3 []).site 3).entries 0 = [] ∧ (logged 3 []).waitTab 3 = [] := by decide +kernel
theorem test_logReader : ((next (exec (.logReaderEntry 0) (logged 3 []))).site 3).entries 0 = [0x3000C00000000005]
    ∧ ((next (exec (.logReaderEntry 0) (logged 3 []))).part 0).map (·.readPos) = some 1 := by decide +kernel
/-- An entry of TYPE 0 ends the log. -/
theorem test_logEnds : next (exec (.logReaderEntry 0) ((logged 3 []).write 0x1000000 8 5)) = (logged 3 []).write 0x1000000 8 5 := by
  decide +kernel
theorem wit_stallsSettled : (logged 2 [(0, 0, 3, 9)] 8184).Settled 0x100FFC0 16 :=
  settledOf (by decide +kernel) fun k => by
    have h : (logged 2 [(0, 0, 3, 9)] 8184).flights = [] := by decide +kernel
    rw [h]; rfl
theorem wit_stalls : ((logged 2 [(0, 0, 3, 9)] 8184).site 3).stalls = [(0, 0, 3, 9)] ∧ (logged 2 [(0, 0, 3, 9)] 8184).recMode 0 1 = 2
    ∧ Memory.wf (logged 2 [(0, 0, 3, 9)] 8184).mem = true
    ∧ ((logged 2 [(0, 0, 3, 9)] 8184).part 0).map (fun p => (p.logRoom 0, p.logRoom 2, rangeOk (p.logKey 0) (8 * p.logCap))) = some (true, false, true) := by decide +kernel
theorem test_stalls : ((next (exec (.logStallExpiry 0 3) (logged 2 [(0, 0, 3, 9)] 8184))).part 0).map (fun p => (p.logAband, p.logNext, p.launches.map (·.unrecorded)))
    = some (true, 8185, [true])
    ∧ (next (exec (.replayHoldExpiry 0 3) (logged 3 [(0, 0, 8, 9)]))).flights.map (·.ev) = [.launchEndByFault 0 1 0x22 0 0]
    ∧ ((next (exec (.logStallExpiry 0 3) (logged 2 [(5, 0, 3, 9)]))).part 0).map (·.logAband) = some false := by decide +kernel

def pair (b : Nat) (h : Int) (thresh : Nat) (heard : Bool) : Pairing := ⟨b, h, true, heard, thresh, 8, false, []⟩
/-- Cores 0 and 4, of octets 0 and 1, host residents of one region that consent; their halves are 2 and 3, THRESH as given. -/
def smalt (thresh : Nat) (heard : Bool) : State :=
  ((({ base with parts := [(0, { part with swEn := true, resEn := true, resBase := 0x200 })] } : State).modCore 0 fun q =>
    { q with resident := some (resident 5 true), pairing := some (pair 4 2 thresh heard) }).modCore 4 fun q =>
      { q with resident := some (resident 6 true), pairing := some (pair 0 3 thresh false) }).write (localKey 4 0x4000) 8 7
theorem wit_swapok : (smalt 1 true).Clear ∧ (smalt 1 true).fpart.enabled .smalt = true ∧ Reads (smalt 1 true) 2 0 (smalt 1 true)
    ∧ (2 : Word).extractLsb' 1 63 ≠ 0 := ⟨clearOf (by decide +kernel), by decide +kernel, readsOf (by decide +kernel), by decide +kernel⟩
theorem test_swapok : (next (exec (.swapok 2) (smalt 1 true))).fcore.resident.map (·.ok) = some false
    ∧ next (exec (.swapok 2) ((smalt 1 true).modF fun c => c.putX 2 2)) = ((smalt 1 true).modF fun c => c.putX 2 2).trapped 0x05 2 := by decide +kernel
/-- The pairs of an instant, in a partition of octets 0 and 1. -/
def instant0 : State :=
  let s := smalt 1 true
  { (s.modCore 0 fun q => { q with pairing := none }).modCore 4 fun q => { q with pairing := none } with
    parts := [(0, { part with wm1 := 1, hm1 := 0, swEn := true })] }
theorem wit_instants : (instant0.part 0).map (fun p => (p.swEn, p.enabled .smalt, p.swPeriod, p.stage, p.hasOctet 1)) = some (true, true, 50, .running, true)
    ∧ (instant0.octet 0).power = .active ∧ (instant0.octet 1).power = .active ∧ (instant0.core 0).pairing = none
    ∧ (instant0.core (octetCore 1 0)).pairing = none ∧ octetCore 1 0 = 4 ∧ instant0.wallNs / 50000 = 0 := by decide +kernel
theorem test_instants : ((next (exec (.swapInstant 0) instant0)).core 0).pairing.map (fun p => (p.partner, p.consent, p.thresh)) = some (4, true, 65536)
    ∧ (next (exec (.swapInstant 0) instant0)).flights.map (·.ev) = [.swapControl 0 4, .swapControl 4 0] := by decide +kernel
theorem wit_pairs : ((smalt 1 true).core 0).pairing = some (pair 4 2 1 true) ∧ ((smalt 1 true).core 4).pairing = some (pair 0 3 1 false)
    ∧ ((smalt 1 true).core 0).resident = some (resident 5 true) ∧ bindingsClash ((smalt 1 true).core 0) ((smalt 1 true).core 4) = false := by
  decide +kernel
theorem test_pairs : (((next (exec (.swapControl 0 4) (smalt 4 true))).core 0).pairing.map (·.swaps)) = some true
    ∧ ((next (exec (.swapControl 0 4) (smalt 5 true))).core 0).pairing = none
    ∧ (((next (exec (.swapControl 0 4) (smalt 4 false))).core 4).pairing.map (·.heard)) = some true := by decide +kernel
/-- The pair has decided, and exchanges. -/
def decided : State := next (execSwapControl 0 4 (smalt 4 true))
def exchanging : State := next (execSwapExchange 0 4 decided)
theorem wit_exchange : (decided.core 0).pairing.map (fun p => (p.swaps, p.partner, p.waits.length)) = some (true, 4, 0) ∧ (decided.core 0).exch = none
    ∧ (exchanging.core 0).exch = some 4 ∧ (exchanging.core 4).exch = some 0 ∧ (exchanging.core 0).resident.map (·.base) = some 0x4000
    ∧ Memory.wf exchanging.mem = true ∧ (exchanging.part (exchanging.pidOf 0)).map (fun p => (paOk (p.dirKey 5), paOk (p.dirKey 6))) = some (true, true)
    := by decide +kernel
theorem test_exchange : ((next (exec (.swapExchangeEnd 0 4) exchanging)).core 0).resident.map (fun r => (r.name, r.hcnt)) = some (6, 8)
    ∧ (next (exec (.swapExchangeEnd 0 4) exchanging)).word (localKey 0 0x4000) = 7
    ∧ (next (exec (.swapExchangeEnd 0 4) exchanging)).word (localKey 4 0x4000) = 0
    ∧ (next (exec (.swapExchangeEnd 0 4) exchanging)).word (part.dirKey 5 + 0x2000000) = dirEntry 0 4 := by decide +kernel

theorem wit_supply : (base.rail 0).emerg = false ∧ (base.octet 0).power = .active
    ∧ ((next (exec (.supplyEmergency 0) base)).rail 0).emerg = true := by decide +kernel
theorem test_supply : (((next (exec (.supplyChange ⟨0, 2⟩ 700000) base)).octet 0).clock 2).khz = 700000
    ∧ (((next (exec (.supplyChange ⟨0, 2⟩ 699999) base)).octet 0).clock 2).khz = 1200000
    ∧ (((next (exec (.supplyChange ⟨0, 2⟩ 1500001) base)).octet 0).clock 2).khz = 1200000
    ∧ ((next (exec (.regulatorRequestChange 0) base)).octet 0).level = 3 := by decide +kernel
theorem wit_rails : (base.rail 0).ph = 7 + 1
    ∧ ((({ base with rails := base.rails.set 0 { Rail.reset with ph := 4 } }) : State).rail 0).ph = 3 + 1 := by decide +kernel
theorem test_rails : (let r := (next (exec (.phaseLoss 0) base)).rail 0; (r.emerg, r.derate, r.cap, r.ph, r.limit)) = (false, true, 6, 7, 700)
    ∧ ((next (exec (.phaseLoss 0) { base with rails := base.rails.set 0 { Rail.reset with ph := 4 } })).part 0).map (·.stage) = some .stopped
    ∧ ((next (exec (.emergencyClear 0) { next (exec (.supplyEmergency 0) base) with wallUnits := 10000 * 1600000 })).rail 0).emerg = false
    ∧ ((next (exec (.emergencyClear 0) (next (exec (.supplyEmergency 0) base)))).rail 0).emerg = true := by decide +kernel

/-- Octet 0 idle, in retention, and in retention with a word lost. -/
def idle0 : State := { base with cores := [] }
def retained : State := next (execRetentionEntry 0 idle0)
def loss : RetLoss := ⟨true, [], false, [], [], [localKey 0 0x100]⟩
theorem wit_power : idle0.octetIdle 0 = true ∧ base.octetIdle 0 = false ∧ idle0.octetTasks 0 = false ∧ (retained.octet 0).power = .retention
    ∧ lossFound loss = true ∧ lossFound ⟨false, [], false, [], [], []⟩ = false ∧ isDevice (localKey 0 0x100) = false
    ∧ octetOf (homePlace (localKey 0 0x100)) = 0 := by decide +kernel
/-- Octet 0 idle, with a context of core 0 that waits for wall to come to 9 ns; it may go on, or its octet sleeps. -/
def sleeper (again : Bool) (wall : Nat) : State :=
  { base.modF fun c => { c with mode := .blocked, again := again, wait := some (.wall 9 0) } with wallUnits := wall * 1600000 }
def dozing : State := next (execRetentionEntry 0 (sleeper false 0))
theorem wit_stirs : (sleeper true 9).octetStirs 0 = true ∧ (sleeper false 0).octetStirs 0 = false ∧ (sleeper false 0).octetIdle 0 = true
    ∧ idle0.octetStirs 0 = false ∧ base.octetStirs 0 = true ∧ (dozing.octet 0).power = .retention ∧ dozing.wakes 0 = false
    ∧ dozing.octetWall 0 = some 9 ∧ retained.octetWall 0 = none := by decide +kernel
theorem test_stirs : ((next (exec (.retentionEntry 0) (sleeper true 9))).octet 0).power = .active
    ∧ (next (exec (.retentionTimedWake 0) dozing)).flights.map (fun f => match f.ev with | .octetWake o _ => o | _ => 9) = [0]
    ∧ ((next (exec (.retentionTimedWake 0) { dozing with wallUnits := 9 * 1600000 })).octet 0).power = .active := by decide +kernel
theorem test_power : ((next (exec (.gatingEntry 0) idle0)).octet 0).power = .gated
    ∧ ((next (exec (.retentionEntry 0) base)).octet 0).power = .active
    ∧ ((next (exec (.retentionTimedWake 0) retained)).octet 0).power = .active
    ∧ ((next (exec (.octetWake 0 loss) retained)).octet 0).power = .active
    ∧ (next (exec (.octetWake 0 loss) retained)).poisoned (localKey 0 0x100) = true := by decide +kernel
/-! ## Control registers, traps and supervisor instructions -/

/-- Supervisor privilege; x2 as given, x1 none. -/
def sup (x : Word) : State := (regs [(2, x)]).modF fun c => { c with prv := true }

theorem wit_controlChecks : base.ctl 0x005 = none ∧ base.ctl 0xC10 ≠ none ∧ base.fctx.prv = false
    ∧ (sup 0).ctl 0xC10 = some 0x7FF ∧ untimed 0x021 := by unfold untimed; decide +kernel
theorem test_controlChecks : next (exec (.crr 1 0x005) base) = base.trapped 0x01 (encode (.crr 1 0x005)).toWord
    ∧ next (exec (.crw 0xC10 2) base) = base.trapped 0x03 (encode (.crw 0xC10 2)).toWord := by decide +kernel
theorem test_controlReads : (after (.crr 1 0xC10) (sup 0)).getX 1 = 0x7FF ∧ (after (.crr 1 0x031) { base with wallUnits := 5 * 1600000 }).getX 1 = 5
    ∧ (after (.crr 1 0x031) base).dordE = 1 ∧ (after (.crs 1 0x062 0) base).getX 1 = 0x0400DFF0 := by decide +kernel
theorem wit_timeRegisters : base.fctx.lmode ≠ 2 ∧ base.fctx.lmode ≠ 3 ∧ (0x030 : BitVec 12) ∈ [(0x030 : BitVec 12), 0x031, 0x032] := by decide +kernel
theorem wit_controlWrites : ((0xC80 : BitVec 12).toNat, 0x77777) ∈ plainCtl ∧ (sup 0x11111).Clear ∧ (sup 0x11111).InPart 0 part
    ∧ Reads (sup 0x11111) 2 0x11111 (sup 0x11111) ∧ (sup 0x11111).ctl 0xC80 = some 0x3333 :=
  ⟨by decide +kernel, clearOf (by decide +kernel), ⟨by decide +kernel, by decide +kernel⟩, readsOf (by decide +kernel), by decide +kernel⟩
/-- Every plain register takes its RW bits and keeps the others. -/
theorem test_controlWrites : plainCtl.all (fun e => (next (exec (.crw (BitVec.ofNat 12 e.1) 2) (sup 0x5A5A5A5A5A5A5A5A))).ctl e.1
    == ((sup 0x5A5A5A5A5A5A5A5A).ctl e.1).map fun v => (0x5A5A5A5A5A5A5A5A &&& e.2) ||| (v &&& ~~~e.2)) = true := by decide +kernel
theorem test_controlSets : (next (exec (.crs 1 0xC10 2) (sup (-1)))).ctl 0xC10 = some 0x7FF ∧ (next (exec (.crc 1 0xC10 2) (sup 1))).ctl 0xC10 = some 0x7FE
    ∧ (after (.crc 1 0xC10 2) (sup 1)).getX 1 = 0x7FF := by decide +kernel
theorem test_clamps : (after (.crw 0x010 2) (sup 0x51F)).frm = 0 ∧ (after (.crw 0x010 2) (sup 0x41F)).frm = 4
    ∧ (after (.crw 0x010 2) (sup 0x41F)).fflags = 0x1F ∧ (after (.crw 0x052 2) (sup (-1))).joinNext = 256
    ∧ (next (exec (.crw 0x023 2) (sup 0))).fcore.mxwt = 1 ∧ (next (exec (.crw 0x060 2) (sup 0))).fcore.amolim = 1
    ∧ (next (exec (.crw 0x061 2) (sup 0xF20))).fcore.low = 7 ∧ (next (exec (.crw 0x062 2) (sup 0x0400FFF0))).fcore.stkBase = 0xDFF0 := by decide +kernel
theorem test_partitionClamps : ((next (exec (.crw 0xC50 2) (sup 0x0000000510000001))).part 0).map (fun p => (p.swThresh, p.swHoldoff, p.swPeriod, p.swEn))
      = some (5, 4, 50, true)
    ∧ ((next (exec (.crw 0xC62 2) (sup 0))).part 0).map (·.mstall) = some 1
    ∧ ((next (exec (.crw 0xC63 2) (sup 0x1F00))).part 0).map (·.mrefRsz) = some 24
    ∧ ((next (exec (.crw 0xC70 2) (sup 0xF00))).part 0).map (·.svqSz) = some 10 := by decide +kernel

/-- A context parked in the current generation. -/
def parked0 : State := base.modF fun c => { c with mode := .parked 8 .read 3 0 }
theorem wit_registerEvents : parked0.part 0 = some part ∧ (parked0.ctx 0 0).mode = .parked 8 .read 3 part.fltGen ∧ part.hasCore 0 = true
    ∧ part.hasCore 0x3FFF = false ∧ part.stage ≠ .saved ∧ findLaunch 1 part.launches = none
    ∧ (findLaunch 1 [(⟨1, 0, false, 0, request 0x2000, 0, 0, false, false⟩ : Launch)]).map (·.num) = some 1 := by decide +kernel
theorem test_fltgen : ((next (exec (.fltgenAdvance 0) parked0)).ctx 0 0).mode = .ready
    ∧ ((next (exec (.fltgenAdvance 0) parked0)).part 0).map (·.fltGen) = some 1 := by decide +kernel
theorem test_registerEvents : ((next (exec (.svlocWrite 0 0x80010003) base)).part 0).map (fun p => (p.svEn, p.svPort, p.svCore)) = some (true, 1, 3)
    ∧ ((next (exec (.hostepWrite 0 0x0000300080000005) base)).part 0).map (fun p => (p.hostEn, p.hcls, p.hostCore)) = some (true, 0x30, 5)
    ∧ ((next (exec (.stkcfgWrite 0 0x00100020) base)).core 0).stkBase = 0x20
    ∧ (next (exec (.fltkill 0 1) { base with parts := [(0, { part with launches := [⟨1, 0, false, 0, request 0x2000, 0, 0, false, false⟩] })] })).flights.length = 1 := by
  decide +kernel
theorem wit_registerWrites : (sup (2 ^ 63)).InPart 0 part ∧ ((2 : Word) ^ 63).getLsbD 63 = true ∧ (sup (2 ^ 63)).fctx.prv = true :=
  ⟨⟨by decide +kernel, by decide +kernel⟩, by decide +kernel, by decide +kernel⟩
theorem test_registerWrites : ((next (exec (.crw 0xC72 2) (sup (2 ^ 63)))).part 0).map (·.fltGen) = some 1
    ∧ ((next (exec (.crw 0xC74 2) (sup 0x80010003))).part 0).map (·.svCore) = some 3 ∧ (after (.crw 0x024 2) (sup 0)).pc = 4 := by decide +kernel

theorem wit_madder : base.fpart.enabled .madder = true ∧ Reads (sup 3) 2 3 (sup 3) ∧ Reads (sup 4) 2 4 (sup 4) :=
  ⟨by decide +kernel, readsOf (by decide +kernel), readsOf (by decide +kernel)⟩
theorem test_madder : (after (.dpoint 1 2) (sup 3)).getX 1 = 3 ∧ (after (.dpoint 1 2) (sup 3)).dordE = 1
    ∧ (after (.rddig 1 2) ((sup 3).modF fun c => { c with dordJ := 9 })).getX 1 = 9
    ∧ next (exec (.rddig 1 2) (sup 4)) = (sup 4).trapped 0x05 4 := by decide +kernel

/-- A context with a handler at 0x100, at pc 8, with AP set. -/
def handled : State := base.modF fun c => { c with tvec := 0x80, pc := 8, ap := true }
theorem wit_traps : handled.Clear ∧ handled.CanTrap ∧ vectors 0x10 = true ∧ vectors 0x22 = false ∧ handled.fctx.wait = none
    ∧ handled.fctx.copy = none ∧ handled.fctx.groupReply = none ∧ handled.breakHalt = none ∧ handled.fctx.ih = false :=
  ⟨clearOf (by decide +kernel), by unfold State.CanTrap; decide +kernel⟩
theorem test_trap : (after (.trap 5) handled).cause = 0x10 ∧ (after (.trap 5) handled).tval = 5 ∧ (after (.trap 5) handled).tpc = 8
    ∧ (after (.trap 5) handled).pc = 0x100 ∧ (after (.trap 5) handled).ih = true ∧ (after (.trap 5) handled).ap = false
    ∧ (after (.trap 5) handled).pap = true := by decide +kernel
theorem test_break : (after (.brk 5) handled).cause = 0x11 ∧ (after (.illegalInstruction 0xFFFFFFFF) handled).cause = 0x01
    ∧ (after (.illegalInstruction 0xFFFFFFFF) handled).tval = 0xFFFFFFFF := by decide +kernel
/-- In the handler, with the resume offset given. -/
def inHandler (t : Word) : State := handled.modF fun c => { c with ih := true, tpc := t, pap := true, ap := false }
theorem wit_tret : (inHandler 16382).fctx.ih = true ∧ (16382 : Word).toNat % 2 = 0 ∧ (inHandler 16384).fctx.tpc = 16384 := by decide +kernel
theorem test_tret : (after .tret (inHandler 16382)).pc = 16382 ∧ (after .tret (inHandler 16382)).ih = false ∧ (after .tret (inHandler 16382)).ap = true
    ∧ (after .tret handled).cause = 0x01 ∧ next (exec .tret (inHandler 16384)) = (inHandler 16384).trapped 0x05 16384
    ∧ next (exec .tret (inHandler 3)) = (inHandler 3).trapped 0x04 3 := by decide +kernel
theorem test_yield : (after .yieldCtx base).pc = 4 ∧ (next (exec .yieldCtx base)).fcore.rr[1] = 1 := by decide +kernel
/-- A partition that halts on BREAK, with a save area. -/
def halting : State := { base with parts := [(0, { part with brkHalt := true, psave := 0x300 })] }
theorem wit_breakHalts : halting.Clear ∧ halting.InPart 0 { part with brkHalt := true, psave := 0x300 } ∧ halting.fctx.brkPass = none :=
  ⟨clearOf (by decide +kernel), ⟨by decide +kernel, by decide +kernel⟩, by decide +kernel⟩
theorem test_breakHalts : ((next (exec (.brk 5) halting)).part 0).map (·.stage) = some (.preempting 0) ∧ (after (.brk 5) halting).brkPass = some 0 := by
  decide +kernel
/-- Halted at pc 0, the BREAK there traps; a BREAK elsewhere halts again, and TRET to pc 0 keeps the pass. -/
def halted (pass pc : Word) : State := halting.modF fun c => { c with brkPass := some pass, pc := pc, tvec := 0x80 }
theorem wit_breakPasses : (halted 0 0).fctx.brkPass = some (halted 0 0).fctx.pc ∧ (halted 0 8).fctx.brkPass ≠ some (halted 0 8).fctx.pc := by
  decide +kernel
theorem test_breakPasses : (after (.brk 5) (halted 0 0)).cause = 0x11 ∧ (after (.brk 5) (halted 0 0)).brkPass = none
    ∧ (after (.brk 5) (halted 0 8)).brkPass = some 8
    ∧ (after .tret ((halted 0 8).modF fun c => { c with ih := true, tpc := 0 })).brkPass = some 0
    ∧ (after .tret ((halted 0 8).modF fun c => { c with ih := true, tpc := 2 })).brkPass = none := by decide +kernel
/-- A firing, a task of a launch, and a task of none, without a handler. -/
def firing0 : State := (base.modF fun c => { c with run := .firing 5 3 [] }).modFcore fun q => { q with resident := some (resident 5 true) }
theorem wit_unhandled : base.fctx.tvec = 0 ∧ base.fctx.run = .task 16 1 none false ∧ base.fctx.lnum ≠ 0 ∧ firing0.fctx.run = .firing 5 3 []
    ∧ (base.modF fun c => { c with lnum := 0 }).fctx.lnum = 0 := by decide +kernel
/-- A supervisor core hears of the end of a resident, and of a task of the standing launch. -/
def heard (s : State) : State := { s with parts := [(0, { part with svEn := true, svCore := 9 })] }
theorem wit_unhandledNotice : ((heard firing0).part 0).map (·.svEn) = some true ∧ ((heard firing0).octet 0).notices.length < 4 := by decide +kernel
theorem test_unhandledNotice : ((heard firing0).trapped 0x10 5).flights.map (fun f => (f.dst, f.ev))
      = [(9, .supervisorNotice ⟨0, 0, 8, 0, [5, 0x10, 5]⟩)]
    ∧ ((heard (base.modF fun c => { c with lnum := 0, dkey := 6 })).trapped 0x10 5).flights.map (fun f => (f.dst, f.ev))
      = [(9, .supervisorNotice ⟨0, 0, 9, 0, [0x10, 5, 6]⟩)] := by decide +kernel
theorem test_unhandled : (base.trapped 0x10 5).flights.map (·.ev) = [.launchEndByFault 0 1 0x10 5 0] ∧ (base.trapped 0x10 5).fctx.mode = .waiting
    ∧ ((base.modF fun c => { c with lnum := 0 }).trapped 0x10 5).fctx.run = .none ∧ (firing0.trapped 0x10 5).fctx.run = .none
    ∧ (firing0.trapped 0x10 5).fcore.resident = none := by decide +kernel

/-- An entry for VA 8 in the DTLB, at supervisor privilege; x2 and x3 as given. -/
def mapped (x y : Word) : State := (paged 7 [(0, 0, 0x400007, false)]).modF fun c => { (c.putX 2 x).putX 3 y with prv := true }
theorem wit_supervisor : (mapped 8 0).Clear ∧ Reads (mapped 8 4) 3 4 (mapped 8 4) ∧ (mapped 8 0).fctx.inval = none
    ∧ (mapped 8 0).fpart.enabled .pgm = true ∧ (4 : Word).extractLsb' 3 61 = 0 ∧ (5 : Word).getLsbD 2 = true ∧ ((5 : Word).extractLsb' 0 2).toNat ≠ 0
    ∧ (((mapped 8 0).coresOf (mapped 8 0).fpart).all fun q => ((mapped 8 0).translated ((mapped 8 0).staleEntries 0 0 8) q.1 q.2).isEmpty) = true :=
  ⟨clearOf (by decide +kernel), readsOf (by decide +kernel), by decide +kernel⟩
theorem test_tlbinv : (next (exec (.tlbinv 2 3) (mapped 8 0))).fcore.dtlb = [] ∧ (after (.tlbinv 2 3) (mapped 8 0)).pc = 4
    ∧ (next (exec (.tlbinv 2 3) (mapped 0 1))).fcore.dtlb = [] ∧ next (exec (.tlbinv 2 3) (mapped 8 5)) = (mapped 8 5).trapped 0x05 5
    ∧ next (exec (.tlbinv 2 3) (mapped 8 1)) = (mapped 8 1).trapped 0x05 8
    ∧ (next (exec (.tlbinv 2 3) (mapped 0x10000 0))).fcore.dtlb.length = 1 := by decide +kernel
theorem wit_pageMove : (mapped 8 0x60000).walk (mapped 8 0x60000).fpart 8 = .leaf 0x400007 false 0x30000
    ∧ rangeOk 0x60000 65536 = true ∧ pteM 0x400007 = false ∧ freeMove ((mapped 8 0x60000).port 4).moves = some 0 ∧ (mapped 8 0x60000).steady 0x30000 = true ∧ pteM 0x400047 = true
    ∧ (mapped (2 ^ 54) 0).walk (mapped (2 ^ 54) 0).fpart (2 ^ 54) = .bad 1 false := by decide +kernel
theorem test_pgmove : (after (.pgmove 1 2 3) (mapped 8 0x60000)).getX 1 = 0 ∧ (next (exec (.pgmove 1 2 3) (mapped 8 0x60000))).word 0x30000 = 0x400047
    ∧ ((next (exec (.pgmove 1 2 3) (mapped 8 0x60000))).port 4).moves.map (·.1) = [0]
    ∧ (after (.pgmove 1 2 3) (mapped (2 ^ 54) 0x60000)).getX 1 = 1 ∧ (after (.pgmove 1 2 3) (mapped 8 0x40000)).getX 1 = 4
    ∧ (after (.pgmove 1 2 3) (next (exec (.pgmove 1 2 3) (mapped 8 0x60000)))).getX 1 = 3 := by decide +kernel
theorem test_privilege : next (exec (.tlbinv 2 3) (regs [])) = (regs []).trapped 0x03 (encode (.tlbinv 2 3)).toWord
    ∧ next (exec (.pgmove 1 2 3) (regs [])) = (regs []).trapped 0x03 (encode (.pgmove 1 2 3)).toWord := by decide +kernel
/-! ## Umber, the host and the fabric -/

/-- A command of an OP with tag 3 and its further words. -/
def cmd (op : Nat) (l : List Word) : Command := ⟨BitVec.ofNat 64 (op + 3 * 2 ^ 32) :: l⟩
/-- The answer's first word: OP, status, flags and tag. -/
def answers (o : Host.Outcome State Fault Refusal) : List Word :=
  (next o).hostOut.filterMap fun h => match h with | .answer (w :: _) => some w | _ => none

theorem asksOf {op : BitVec 8} {k : Command} (h : (k.words.getD 0 0).extractLsb' 0 8 = op ∧ (k.words.getD 0 0).extractLsb' 8 24 = 0) :
    asksOp op k := h

theorem wit_badCommands : base.boot = .running ∧ State.reset.boot ≠ .running ∧ ¬ asksOp 0x01 (cmd 0x02 []) ∧ asksOp 0x01 (cmd 0x01 []) :=
  ⟨by decide +kernel, by decide +kernel, fun h => absurd h.1 (by decide +kernel), asksOf (by decide +kernel)⟩
theorem test_badCommands : answers (exec (.unknownOp (cmd 0x99 [])) base) = [0x0000000300000199]
    ∧ answers (exec (.resync ⟨[0x101]⟩) base) = [0x0000000000000101] ∧ (next (exec (.resync (cmd 1 [])) State.reset)).hostOut = [] := by
  decide +kernel
theorem test_resync : (next (exec (.resync (cmd 1 [])) base)).hostOut.map (fun h => match h with | .answer l => l | _ => [])
    = [[0x0000000300000001, 0, 0, 1, 0, 0, 0, 0]] := by decide +kernel

theorem wit_counters : asksOp 0x02 (cmd 2 [1535]) ∧ asksOp 0x03 (cmd 3 [1536]) ∧ (1535 : Word).toNat < 1536 ∧ base.octetConf 0 = false
    ∧ ({ base with parts := [(0, { part with conf := true })] } : State).octetConf 0 = true :=
  ⟨asksOf (by decide +kernel), asksOf (by decide +kernel), by decide +kernel⟩
theorem test_counters : answers (exec (.ctrsel (cmd 2 [1536])) base) = [0x0000000300000402]
    ∧ answers (exec (.ctrsel (cmd 2 [0, 12])) base) = [0x0000000300000102]
    ∧ ((next (exec (.ctrsel (cmd 2 [0, 11])) base)).octet 0).sources[0] = 11
    ∧ answers (exec (.ctrread (cmd 3 [0])) { base with parts := [(0, { part with conf := true })] }) = [0x0000000300010003]
    ∧ answers (exec (.ctrread (cmd 3 [0])) base) = [0x0000000300000003] := by decide +kernel
/-- A snapshot is armed for wall 1,000 ns, and latched. -/
def snapArmed : State := next (execSnaparm (cmd 4 [1000]) base)
def snapTaken : State := next (execSnapshotLatch { snapArmed with wallUnits := 1000 * 1600000 })
/-- Wall has passed the trigger. -/
def snapDue : State := { snapArmed.takeSnap 1600 with wallUnits := 1000 * 1600000 }
theorem wit_snapshots : asksOp 0x04 (cmd 4 [1000]) ∧ asksOp 0x05 (cmd 5 [65536]) ∧ base.snapAt = none ∧ snapArmed.snapAt = some 1000
    ∧ base.snapshot = none ∧ snapTaken.snapshot.isSome = true ∧ (999 : Word).toNat * 1600000 < base.wallUnits + 1600000000
    ∧ ¬ ((1000 : Word).toNat * 1600000 < base.wallUnits + 1600000000) ∧ snapArmed.snapTaken = none ∧ snapDue.snapTaken.isSome = true :=
  ⟨asksOf (by decide +kernel), asksOf (by decide +kernel), by decide +kernel⟩
/-- What stood before the trigger is latched, whatever has happened since. -/
theorem test_snapshotBefore : ((next (exec .snapshotLatch { snapDue with rails := snapDue.rails.set 0 { Rail.reset with ph := 4 } })).snapshot.map
    fun x => x.rails.map (·.ph)) = some (List.replicate 16 8) := by decide +kernel
theorem test_snapshots : answers (exec (.snaparm (cmd 4 [999])) base) = [0x0000000300000204] ∧ answers (exec (.snapread (cmd 5 [0])) base) = [0x0000000300000405]
    ∧ (next (exec (.snapread (cmd 5 [65536])) snapTaken)).hostOut.map (fun h => match h with | .answer l => l.getD 1 0 | _ => 0) = [0, 0x07080320]
    ∧ snapTaken.snapAt = none := by decide +kernel

/-- PCREATE of partition 5: octet (2, 3) alone, key 9, supervisor core 0 of it. -/
def created : State := next (execPcreate (cmd 0x10 [0x0009000500000302, 0x480]) { base with parts := [(0, { part with wm1 := 0, hm1 := 0 })] })
theorem wit_pcreate : asksOp 0x10 (cmd 0x10 [0x0009000500000302, 0x480]) ∧ asksOp 0x11 (cmd 0x11 [5])
    ∧ ({ Partition.reset with ox0 := 2, oy0 := 3 } : Partition).hasCore 0x488 = true
    ∧ (created.part 5).map (fun p => p.stage) = none ∧ mapFind (mapDel base.parts 0) 0 = none :=
  ⟨asksOf (by decide +kernel), asksOf (by decide +kernel), by decide +kernel⟩
theorem test_pcreate : answers (exec (.pcreate (cmd 0x10 [0x0009000500000302, 0x480])) { base with parts := [(0, { part with wm1 := 0, hm1 := 0 })] })
      = [0x0000000300000410]
    ∧ ((next (exec (.pcreate (cmd 0x10 [0x0009000500000302, 0x488])) { base with parts := [(0, { part with wm1 := 0, hm1 := 0 })] })).part 5).map
      (fun p => (p.ox0, p.oy0, p.key, p.svCore, p.stage)) = some (2, 3, 9, 0x488, .running) := by decide +kernel
theorem test_pdestroy : (next (exec (.pdestroy (cmd 0x11 [0])) base)).part 0 = none ∧ answers (exec (.pdestroy (cmd 0x11 [9])) base) = [0x0000000300000411] := by
  decide +kernel

/-- A partition with a save area, and one that is saved and misses a feature that its core needs. -/
def savable : State := { base with parts := [(0, { part with psave := 0x300 })] }
def savedPart (f : BitVec 11) : State :=
  { base with cores := [], parts := [(0, { part with wm1 := 0, hm1 := 0, stage := .saved, featmask := f, saved := some ⟨[(0, { Core.reset with feat := 2 })], [], [], [], [], [], [], []⟩ })] }
theorem wit_preempt : asksOp 0x12 (cmd 0x12 [0]) ∧ asksOp 0x13 (cmd 0x13 [0]) ∧ asksOp 0x14 (cmd 0x14 [0, 1]) ∧ savable.part 9 = none
    ∧ (savable.part 0).map (fun p => (p.stage, p.psave)) = some (.running, 0x300) ∧ (base.part 0).map (·.saved) = some none
    ∧ ((savedPart 2).part 0).map (fun p => ((savedPart 2).rectFree p, p.saved.map (featuresMissing p))) = some (true, some false)
    ∧ ((savedPart 0).part 0).map (fun p => p.saved.map (featuresMissing p)) = some (some true) :=
  ⟨asksOf (by decide +kernel), asksOf (by decide +kernel), asksOf (by decide +kernel), by decide +kernel⟩
theorem test_preempt : ((next (exec (.preempt (cmd 0x12 [0])) savable)).part 0).map (·.stage) = some (.preempting 1)
    ∧ answers (exec (.preempt (cmd 0x12 [0])) base) = [0x0000000300000412] ∧ answers (exec (.resume (cmd 0x13 [0])) base) = [0x0000000300000413] := by
  decide +kernel
theorem test_resume : ((next (exec (.resume (cmd 0x13 [0])) (savedPart 2))).part 0).map (·.stage) = some .running
    ∧ answers (exec (.resume (cmd 0x13 [0])) (savedPart 0)) = [0x0000000300000513]
    ∧ ((next (exec (.brkhalt (cmd 0x14 [0, 1])) { base with parts := [(0, { part with wm1 := 0, hm1 := 0 })] })).part 0).map (·.brkHalt) = some true
    ∧ answers (exec (.brkhalt (cmd 0x14 [0, 1])) { base with parts := [(0, { part with conf := true })] }) = [0x0000000300000314] := by decide +kernel

theorem wit_reports : asksOp 0x20 (cmd 0x20 [0, 1, 2, 3, 4]) ∧ asksOp 0x21 (cmd 0x21 []) ∧ (List.replicate 1088 (0 : Byte)).length = 1088
    ∧ (({ base with parts := [(0, { part with report := some (4, 0) })] } : State).part 0).map (·.report) = some (some (4, 0)) :=
  ⟨asksOf (by decide +kernel), asksOf (by decide +kernel), List.length_replicate, by decide +kernel⟩
theorem test_reports : (next (exec (.attest (cmd 0x20 [0, 1, 2, 3, 4])) base)).reports = 1 ∧ answers (exec (.attest (cmd 0x20 [9])) base) = [0x0000000300000420]
    ∧ (next (exec (.idkey (cmd 0x21 [])) base)).hostOut.length = 2 ∧ next (exec (.sessionStart 0 [1]) base) = base := by decide +kernel

/-- A host message of class 0x20 for core 0, and a host endpoint that is enabled. -/
def raw : RawMsg := ⟨[0, 0x2000000000000000, 1, 2, 3, 4, 5, 6]⟩
def hosted : State := { base with parts := [(0, { part with hostEn := true, hostCore := 5, rmaBase := 0x400, rmaN := 1 })] }
theorem wit_hostCommand : (hosted.part 0).map (fun p => (p.hostEn, p.conf, rawOk 0 p raw, rawKind raw, p.nextEp 1, p.epQ.length)) = some (true, false, true, 0, 0, 0)
    ∧ rawOk 0 part ⟨[0, 0]⟩ = false ∧ hosted.part 9 = none ∧ part.hostEn = false := by decide +kernel
theorem test_hostCommand : (next (exec (.hostCommand 0 ⟨1, false, true, true⟩ [raw]) hosted)).flights.map (fun f => (eventMessage f.ev).map (fun m => (m.payload, m.sx, m.side.endpoint)))
      = [some ([1, 2, 3, 4, 5, 6], 5, 2)]
    ∧ (next (exec (.hostCommand 0 ⟨1, false, true, true⟩ [⟨[0, 0]⟩]) hosted)).hostOut = [.sendDone 0 (some 0)]
    ∧ (next (exec (.hostCommand 9 ⟨1, false, true, true⟩ [raw]) hosted)).hostOut = [.sendDone 9 (some 0)]
    ∧ (next (exec (.hostCommand 0 ⟨1, false, false, true⟩ [raw]) hosted)).hostOut = [.sendDone 0 (some 0)]
    ∧ (next (exec (.hostCommand 0 ⟨1, false, true, true⟩ [raw]) { hosted with parts := [(0, { part with hostEn := true, hostCore := 5, conf := true })] })).hostOut
      = [.sendDone 0 (some 0)] := by decide +kernel
/-- A confidential partition under a session, and a host whose packets do not authenticate. -/
def secret : State := { base with parts := [(0, { part with hostEn := true, hostCore := 5, conf := true, session := some (1, 2) })] }
def forged : HostVia := ⟨1, true, true, false⟩
theorem wit_discards : (secret.part 0).map (fun p => (p.discards forged, p.discards { forged with authOk := true }, p.accepts { forged with authOk := true }))
    = some (true, false, true) ∧ part.discards forged = false := by decide +kernel
theorem test_discards : ((next (exec (.hostCommand 0 forged [raw]) secret)).part 0).map (·.authFails) = some 1
    ∧ (next (exec (.hostCommand 0 forged [raw]) secret)).hostOut = [] ∧ (next (exec (.rmaRead 0 ⟨forged, 7⟩ 0 1) secret)).hostOut = []
    ∧ (next (exec (.hostCommand 0 { forged with authOk := true } [raw]) secret)).flights.length = 1 := by decide +kernel
/-- Window 0 covers 65,536 bytes from the absolute address of core 0. -/
def window : State := ((hosted.write 0x4000000 8 0xFE00000000000000).write 0x4000008 8 (2 ^ 63 + 2 ^ 62 + 2 ^ 61 + 65536)).write (localKey 0 0x108) 8 9
def viaPort : HostVia := ⟨2, false, true, true⟩
/-- An access that the host has begun, and one that its home has answered. -/
def rmaGoing (i : Instr) : State := next (exec i window)
def rmaOver (i : Instr) : State := deliver (deliver (rmaGoing i))
theorem wit_rma : window.rmaWindow 0 viaPort 7 0x108 8 true = some 0xFE00000000000000 ∧ window.rmaWindow 0 viaPort 8 0x108 8 true = none
    ∧ window.rmaPlace window.fpart (0xFE00000000000000 + 0x108) .write = some (0, localKey 0 0x108)
    ∧ (rmaGoing (.rmaRead 0 ⟨viaPort, 7⟩ 0x108 1)).rmas.map (fun a => (a.pid, a.write, a.off, a.left, a.got)) = [(0, false, 0x108, [0], [])] := by
  decide +kernel
theorem test_rma : (rmaOver (.rmaWrite 0 ⟨viaPort, 7⟩ 0x108 [5])).word (localKey 0 0x108) = 5
    ∧ (rmaOver (.rmaWrite 0 ⟨viaPort, 7⟩ 0x108 [5])).hostOut = [.rmaDone 0 none []]
    ∧ (rmaOver (.rmaRead 0 ⟨viaPort, 7⟩ 0x108 1)).hostOut = [.rmaDone 0 none [9]] ∧ (rmaOver (.rmaRead 0 ⟨viaPort, 7⟩ 0x108 1)).rmas = []
    ∧ (next (exec (.rmaRead 0 ⟨viaPort, 8⟩ 0x108 1) window)).hostOut = [.rmaDone 0 (some 0x108) []] := by decide +kernel

/-- A load of module 1 in packet n, for a word of core 0. -/
def packet (n : Nat) : Packet := ⟨1, 0, 0, n, .load ⟨⟨1, 3, 0, 4⟩, 0, 0, localKey 0 0x108, 8, 7⟩⟩
theorem wit_packets : (packet 0).dst = base.module ∧ ({ packet 0 with dst := 2 } : Packet).dst ≠ base.module ∧ (findPair 1 0 base.fabric).expect = 0
    ∧ (0 + 2 ^ 32 - 0xFFFFFFFF) % 2 ^ 32 ≤ 2 ^ 31 ∧ 2 ^ 31 < (0 + 2 ^ 32 - 1) % 2 ^ 32 := by decide +kernel
theorem test_packets : (next (exec (.fabricMessageReceive (packet 0)) base)).fabAcks = [(1, 0, 0)]
    ∧ (next (exec (.fabricMessageReceive (packet 0)) base)).flights.length = 1
    ∧ (next (exec (.fabricMessageReceive (packet 0xFFFFFFFF)) base)).fabAcks = [(1, 0, 0xFFFFFFFF)]
    ∧ next (exec (.fabricMessageReceive (packet 1)) base) = base := by decide +kernel
/-- Packets 4 and 5 are not acknowledged, sent t times, at wall 0. -/
def unacked (t : Nat) : State := { base with fabric := [⟨1, 0, 6, [⟨packet 4, 0, t⟩, ⟨packet 5, 0, t⟩], 0⟩], wallUnits := 10000 * 1600000 }
theorem wit_retransmit : (findPair 1 0 (unacked 1).fabric).unacked.map (fun u => (u.last, u.tries)) = [(0, 1), (0, 1)]
    ∧ (∀ x ∈ (findPair 1 0 (unacked 16).fabric).unacked, (match x.packet.cargo with | .msg _ _ => true | _ => false) = false) := by decide +kernel
theorem test_retransmit : (next (exec (.fabricRetransmit 1 0) { unacked 1 with routes := [(1, 6)] })).fabOut.map (fun p => (p.1, p.2.num)) = [(6, 4), (6, 5)]
    ∧ (next (exec (.fabricRetransmit 1 0) (unacked 16))).mchecks = 1
    ∧ (findPair 1 0 (next (exec (.fabricAcknowledgement 1 0 4) (unacked 1))).fabric).unacked.map (·.packet.num) = [5] := by decide +kernel
/-- Port 3 is trained, with module 1 at its far end. -/
def linked : State := next (execLinkTraining 3 1 base)
/-- The keys of port 3 are used up. -/
def spentLink : State := linked.modFab 3 fun p => { p with flits := 2 ^ 32 }
/-- Port 3 is about to go down, with port 5 up; module 1 is reached by port 3 and module 2 by port 6. -/
def downLink : State :=
  { (next (execLinkTraining 5 2 (next (execLinkDegrade 3 (next (execLinkDegrade 3 linked)))))) with routes := [(1, 3), (2, 6)] }
theorem wit_links : (linked.fabPort 3).mode = 2 ∧ (base.fabPort 3).mode = 0 ∧ (linked.fabPort 3).lanes = 8
    ∧ (next (execLinkDegrade 3 linked)).fabPorts[3].mode = 1
    ∧ (spentLink.fabPort 3).flits = 2 ^ 32 ∧ (linked.fabPort 3).flits = 0
    ∧ (downLink.fabPort 5).mode = 2 ∧ (downLink.fabPort 3).mode = 1 ∧ (downLink.fabPort 3).lanes = 4 ∧ downLink.routeOf 1 = 3 := by
  decide +kernel
/-- Port 5 takes the routes of port 3, which goes down. -/
theorem test_routes : ((next (exec (.linkDegrade 3) downLink)).fabPort 3).mode = 0 ∧ (next (exec (.linkDegrade 3) downLink)).portUp = some 5 := by
  decide +kernel
theorem test_links : ((next (exec (.linkDegrade 3) (next (execLinkDegrade 3 linked)))).fabPort 3).lanes = 4
    ∧ ((next (exec (.linkDegrade 3) (next (execLinkDegrade 3 (next (execLinkDegrade 3 linked)))))).fabPort 3).mode = 0
    ∧ (let p := (next (exec (.linkKeyRenewal 3) spentLink)).fabPort 3; (p.keys, p.flits)) = (2, 0)
    ∧ next (exec (.linkKeyRenewal 3) linked) = linked
    ∧ ((next (exec (.prosanFlitReceive 3 ⟨true, true, true, false, []⟩) spentLink)).fabPort 3).retry = 1
    ∧ ((next (exec (.prosanFlitReceive 3 ⟨true, true, true, false, []⟩) linked)).fabPort 3).flits = 1
    ∧ ((next (exec (.prosanFlitReceive 3 ⟨true, false, true, false, []⟩) linked)).fabPort 3).retry = 1
    ∧ ((next (exec (.prosanFlitReceive 3 ⟨true, true, true, true, [packet 0]⟩) linked)).fabPort 3).stomp = 1
    ∧ (next (exec (.prosanFlitReceive 3 ⟨true, true, true, false, [packet 0]⟩) linked)).fabAcks = [(1, 0, 0)] := by decide +kernel

/-- Whether an image verifies is open: either clause of a cold boot is met by one; a port that fetched none is no good one. -/
theorem wit_coldBoot : (Config.rollback ≤ Config.rollback ∧ Config.mldsaVerify [] = true) ∨ Config.mldsaVerify [] = false := by
  cases h : Config.mldsaVerify [] <;> simp
theorem wit_noImage : ([none] : List (Option (Nat × List Byte))).length < 4
    ∧ ∀ x ∈ ([none] : List (Option (Nat × List Byte))), ¬ ∃ w c, x = some (w, c) ∧ Config.rollback ≤ w ∧ Config.mldsaVerify c = true := by simp
theorem test_coldBoot : (next (exec (.coldBoot 5 []) State.reset)).boot = .failed
    ∧ (next (exec .bootFailureFrame (next (execColdBoot 5 [] State.reset)))).hostOut.length = (next (execColdBoot 5 [] State.reset)).hostOut.length + 1 := by
  decide +kernel
theorem wit_reset : ∃ p : Partition, p = { Partition.reset with ox0 := 0, oy0 := 0, wm1 := 0, hm1 := 0, key := 0, svCore := 0, svEn := false } := ⟨_, rfl⟩
theorem test_reset : Memory.wf State.reset.mem = true ∧ State.reset.coreCtl 0 Partition.reset 0x060 = some 0x0000001400000002
    ∧ Partition.reset.ctl 0xC50 = some 0x0001000080003200 ∧ State.reset.coreCtl 0 Partition.reset 0x070 = some 0x0001000080003200
    ∧ Ctx.reset.ctl 0x004 = some 0 ∧ State.reset.coreCtl 12287 Partition.reset 0x07C = some 0
    ∧ ({ Partition.reset with svEn := true, svCore := 9 } : Partition).ctl 0xC74 = some 0x80000009 := by decide +kernel

end Sys2Proof.Tests
end

section
/-! PROOFS. What a full/empty operation does to its word (R187, R202), and what the wait tables, the timers and Madder leave
as it was where nothing is held and nothing is logged. -/

namespace Sys2Proof.Machine.FullEmpty

/-! ### Tags and poison of a word -/

theorem mapFind_mapDel_same {α : Type} (l : SMap α) (k : Nat) : mapFind (mapDel l k) k = none := by
  induction l with
  | nil => rfl
  | cons p l ih =>
    obtain ⟨j, w⟩ := p
    by_cases h : k = j
    · simpa [mapDel, h] using h ▸ ih
    · simp [mapDel, mapFind, h, ih]

@[simp] theorem tag_setTag (s : State) (key : Nat) (full : Bool) : (s.setTag key full).tag key = full := by
  cases full with
  | true => simp [State.tag, State.setTag, mapFind_mapSet_same]
  | false => simp [State.tag, State.setTag, mapFind_mapDel_same]

@[simp] theorem word_setTag (s : State) (key a : Nat) (full : Bool) : (s.setTag key full).word a = s.word a := by
  simp [State.word]

theorem word_write_same (s : State) (key : Nat) (v : Word) : (s.write key 8 v.toNat).word key = v := by
  simp [State.word, State.write, memRead_memWrite_same, Nat.mod_eq_of_lt v.isLt]

theorem clearPoison_sound {s : State} {key : Nat} (h : s.poisoned key = false) : s.clearPoison key = s := by
  simp [State.clearPoison, h]

theorem poisoned_clearPoison (s : State) (key : Nat) : (s.clearPoison key).poisoned key = false := by
  cases h : s.poisoned key with
  | false => rw [clearPoison_sound h, h]
  | true => simp only [State.clearPoison, h, if_true]; simp [State.poisoned]

/-! ### The action of an operation (R187, R202) -/

/-- The word that an operation leaves, of what the word held and of the operation's data (R202). -/
def feWord (op : FeOp) (old data : Word) : Word := match op with | .stf | .ste => data | _ => old

/-- The tag that an operation leaves, of the tag before it (R202). -/
def feFull (op : FeOp) (full : Bool) : Bool := match op with | .ldf | .probe => full | .stf => true | _ => false

/-- The value that an operation answers, of its word and its tag (R202). -/
def feValue (op : FeOp) (word : Word) (full : Bool) : Word :=
  match op with | .ldf | .ldfe => word | .probe => ofBool full | _ => 0

theorem feAct_value (s : State) (key : Nat) (op : FeOp) (data : Word) :
    (s.feAct key op data).1 = .value (feValue op (s.word key) (s.tag key)) := by
  cases op <;> rfl

theorem word_feAct (s : State) (key : Nat) (op : FeOp) (data : Word) :
    (s.feAct key op data).2.word key = feWord op (s.word key) data := by
  cases op <;> simp [State.feAct, feWord, word_write_same]

theorem tag_feAct (s : State) (key : Nat) (op : FeOp) (data : Word) :
    (s.feAct key op data).2.tag key = feFull op (s.tag key) := by
  cases op <;> simp [State.feAct, feFull]

theorem byte_feAct_other (s : State) (key : Nat) (op : FeOp) (data : Word) (a : Nat) (h : a < key ∨ key + 8 ≤ a) :
    (s.feAct key op data).2.byte a = s.byte a := by
  cases op <;> simp [State.feAct, State.byte, State.write, memGet_memWrite_other _ _ _ _ _ h]

theorem poisoned_feAct {s : State} {key : Nat} {op : FeOp} (h : s.poisoned key = false ∨ op = .ste) (data : Word) :
    (s.feAct key op data).2.poisoned key = false := by
  obtain h | rfl := h
  · cases op with
    | ste => simpa [State.feAct, State.poisoned] using poisoned_clearPoison s key
    | _ => simpa [State.feAct, State.poisoned] using h
  · simpa [State.feAct, State.poisoned] using poisoned_clearPoison s key

@[simp] theorem feAct_cores (s : State) (key : Nat) (op : FeOp) (data : Word) :
    (s.feAct key op data).2.cores = s.cores := by cases op <;> simp [State.feAct]
@[simp] theorem feAct_ports (s : State) (key : Nat) (op : FeOp) (data : Word) :
    (s.feAct key op data).2.ports = s.ports := by cases op <;> simp [State.feAct]
@[simp] theorem feAct_module (s : State) (key : Nat) (op : FeOp) (data : Word) :
    (s.feAct key op data).2.module = s.module := by cases op <;> simp [State.feAct]
@[simp] theorem feAct_flights (s : State) (key : Nat) (op : FeOp) (data : Word) :
    (s.feAct key op data).2.flights = s.flights := by cases op <;> simp [State.feAct]
@[simp] theorem feAct_focusCore (s : State) (key : Nat) (op : FeOp) (data : Word) :
    (s.feAct key op data).2.focusCore = s.focusCore := by cases op <;> simp [State.feAct]
@[simp] theorem feAct_focusCtx (s : State) (key : Nat) (op : FeOp) (data : Word) :
    (s.feAct key op data).2.focusCtx = s.focusCtx := by cases op <;> simp [State.feAct]

@[simp] theorem feAct_fctx (s : State) (key : Nat) (op : FeOp) (data : Word) :
    (s.feAct key op data).2.fctx = s.fctx := by
  simp [State.fctx, State.ctx, State.core]

/-! ### Wait tables -/

theorem waitTab_congr {s t : State} (hc : t.cores = s.cores) (hp : t.ports = s.ports) (place : Nat) :
    t.waitTab place = s.waitTab place := by
  simp [State.waitTab, State.core, State.port, hc, hp]

theorem tryHeld_nil {s : State} {place : Nat} (h : s.waitTab place = []) (key : Nat) (tag : Word) :
    s.tryHeld place key tag = s := by
  simp [State.tryHeld, h]

@[simp] theorem waitTab_setWaitTab (s : State) (place : Nat) (l : List HeldFe) :
    (s.setWaitTab place l).waitTab place = l := by
  unfold State.setWaitTab State.waitTab
  split
  · simp [State.modCore]
  · simp [State.port, mapGet_mapSet_same]

theorem setWaitTab_parts (s : State) (place : Nat) (l : List HeldFe) : (s.setWaitTab place l).parts = s.parts := by
  unfold State.setWaitTab; split <;> simp
theorem setWaitTab_mem (s : State) (place : Nat) (l : List HeldFe) : (s.setWaitTab place l).mem = s.mem := by
  unfold State.setWaitTab; split <;> simp
theorem setWaitTab_tags (s : State) (place : Nat) (l : List HeldFe) : (s.setWaitTab place l).tags = s.tags := by
  unfold State.setWaitTab; split <;> simp
theorem setWaitTab_module (s : State) (place : Nat) (l : List HeldFe) : (s.setWaitTab place l).module = s.module := by
  unfold State.setWaitTab; split <;> simp
theorem setWaitTab_flights (s : State) (place : Nat) (l : List HeldFe) :
    (s.setWaitTab place l).flights = s.flights := by
  unfold State.setWaitTab; split <;> simp

theorem mem_timerIns (due : Nat) (e : Event) (l : List (Nat × Event)) : (due, e) ∈ timerIns due e l := by
  induction l with
  | nil => simp [timerIns]
  | cons p l ih =>
    simp only [timerIns]
    split
    · simp
    · simp [ih]

/-! ### Madder outside RECORD and REPLAY -/

theorem decide_unlogged {s : State} {pid launch : Nat} (h : s.recMode pid launch = 0)
    (site k ty data mask : Nat) (vals : List Word) (tag : Word) :
    s.decide pid launch site k ty data mask vals tag = .go s none := by
  simp [State.decide, h]

theorem logNow_unlogged {s : State} {pid launch : Nat} (h : s.recMode pid launch = 0) (site : Nat) (l : List Word) :
    s.logNow pid launch site l = s := by
  simp [State.logNow, h]

theorem wakeAt_unlogged {s : State} {pid launch : Nat} (h : s.recMode pid launch = 0) (site : Nat) (tag : Word)
    (e : Event) (act : State → State) : s.wakeAt pid launch site tag e act = act s := by
  simp [State.wakeAt, State.wakeTry, h]

/-! ### Replies to the own module -/

theorem replyLoad_own {s : State} {w : Who} (h : w.module = s.module) (place : Nat) (a : Answer) :
    s.replyLoad place w a = s.fly place w.core 1 (.loadReply ⟨w, a⟩) := by
  simp [State.replyLoad, h]

end Sys2Proof.Machine.FullEmpty
end

section
/-! PROOFS. Full/empty operations on a word of the own core's memory, outside RECORD and REPLAY (R189, R192, R193, R202). -/

namespace Sys2Proof.Machine.FullEmpty

/-! ### The results of an operation at its context -/

/-- A result in x[r] changes the registers, the marks and the registers of outstanding results alone (R25, R106, R146). -/
theorem result_frame (c : Ctx) (r : Reg) (v : Word) : ∃ x m p, c.result r v = { c with x := x, marks := m, pend := p } := by
  unfold Ctx.result Ctx.putX
  split
  · exact ⟨c.x, c.marks, c.pend, rfl⟩
  · by_cases h : r = 0 <;> simp only [h, if_true, if_false] <;> split <;> exact ⟨_, _, _, rfl⟩

/-- A performed operation writes rd where it answers one, clears TO where it is timed, counts one event and folds (R202). -/
theorem feDone_eq (c : Ctx) (op : FeOp) (rd : Reg) (va data v : Word) :
    ∃ g, c.feDone op rd va data v false = { (if feResult op then c.result rd v else c) with
      digest := g, dordE := c.dordE + 1, tmo := if feTimed op then false else c.tmo } := by
  obtain ⟨x, m, p, e⟩ := result_frame c rd v
  unfold Ctx.feDone
  rw [e]
  cases op <;> exact ⟨_, rfl⟩

/-! ### From the operands to the word -/

/-- The limit of a timed operation; x0 stands for none (R202). -/
def readLimit (limit : Reg) : M Word := if limit = 0 then pure 0 else readX limit

/-- The data of an operation that stores one. -/
def readData (src : Option Reg) : M Word := src.elim (pure 0) readX

/-- The request that an operation makes of a word (R189, R202). -/
def requestOf (s : State) (d : Dest) (op : FeOp) (data t : Word) : FeReq :=
  ⟨⟨s.module, s.focusCore, s.focusCtx, 0⟩, s.pidOf s.focusCore, s.fctx.lnum.toNat, d.module, d.key, op, data, t, s.fctx.tag,
    (s.partAt s.focusCore).key⟩

/-- What an operation does with its request to a word of the own core, once nothing holds it back. -/
def feOwn (s : State) (before : Ctx) (rd : Reg) (va : Word) (q : FeReq) (exempt : Bool) : M Unit :=
  if q.deadline != 0 && s.reached q.deadline then modF fun c => { c with tmo := true, dordE := c.dordE + 1 }
  else if s.poisoned q.key && q.op != .ste then trap cPOISON va
  else if feCond q.op (s.tag q.key) then
    match s.performHere q with
    | (.value v, s) => set (s.modF fun c => c.feDone q.op rd va q.data v exempt)
    | (_, s) => set s
  else feSend before q rd va exempt

/-- What an operation does once its operands are read: its checks and its fence, then the own core or the home. -/
def feIssue (before : Ctx) (op : FeOp) (rd : Reg) (va t data : Word) : M Unit := do
  let d ← dataTarget va 8 .fullEmpty
  fullFence
  fenced [0]
  let s ← get
  let q := requestOf s d op data t
  if s.isHere d && s.fctx.lmode != 2 && s.fctx.lmode != 3 then
    swapHold d
    feOwn s before rd va q d.exempt
  else feSend before q rd va d.exempt

theorem feOp_eq (op : FeOp) (rd a : Reg) (off : Word) (limit : Reg) (src : Option Reg) :
    feOp op rd a off limit src = (do
      let before ← fctx
      let x ← readX a
      let t ← readLimit limit
      let data ← readData src
      feIssue before op rd (x + off) t data) := by
  unfold feOp readLimit readData
  by_cases h : limit = 0 <;> simp only [h, if_true, if_false] <;> cases src <;> rfl

/-- A full/empty operation of the focus context on a word of its own core's memory, in a launch that neither records nor
replays: its operands, and the state in which they are read. -/
structure OwnWord (s r : State) (a limit : Reg) (src : Option Reg) (off x t : Word) (data : Option Word) (key : Nat) : Prop where
  clear : s.Clear
  unrecorded : s.fctx.lmode ≠ 2
  unreplayed : s.fctx.lmode ≠ 3
  reads : ReadsAll s (a :: limit :: src.toList) (x :: t :: data.toList) r
  here : ∃ o, target s.fpart s.focusCore (x + off) = some (.here s.focusCore o) ∧ key = localKey s.focusCore o
  aligned : (x + off).toNat % 8 = 0

/-- x0 reads zero and leaves the state as it is (R25). -/
theorem reads_x0 (s : State) : Reads s 0 0 s := by
  have h := Reads.plain (s := s) (r := 0) (.inl rfl)
  rwa [Ctx.getX_zero] at h

theorem run_readLimit {s u : State} {limit : Reg} {t : Word} (h : Reads s limit t u) :
    (readLimit limit).run s = .ok (t, u) := by
  unfold readLimit
  split
  · rename_i h0
    subst h0
    cases h with
    | plain => exact congrArg (fun v => Except.ok (v, s)) (Ctx.getX_zero _).symm
    | pop i q w rest hx => exact absurd rfl (xSlot_ne_zero hx)
  · exact readX_reads h

theorem run_readData {s u : State} {src : Option Reg} {data : Option Word} (h : ReadsAll s src.toList data.toList u) :
    (readData src).run s = .ok (data.getD 0, u) := by
  cases src with
  | none => cases data <;> cases h; rfl
  | some q =>
    cases data with
    | none => cases h
    | some v => cases h with | cons h0 h1 => cases h1; exact readX_reads h0

/-- A word of a core of the own module, as an access by a core form reaches it (R65). -/
def ownDest (s : State) (key : Nat) : Dest := ⟨s.module, key, false, false⟩

section
variable {s r : State} {a limit : Reg} {src : Option Reg} {off x t : Word} {data : Option Word} {key : Nat}

theorem OwnWord.home (h : OwnWord s r a limit src off x t data key) : homePlace key = s.focusCore := by
  obtain ⟨o, ho, rfl⟩ := h.here
  exact homePlace_localKey _ _ (target_off ho)

theorem OwnWord.notDevice (h : OwnWord s r a limit src off x t data key) : isDevice key = false := by
  obtain ⟨o, -, rfl⟩ := h.here
  exact isDevice_localKey _ _

theorem OwnWord.resolves (h : OwnWord s r a limit src off x t data key) :
    Resolves s (x + off) 8 .fullEmpty (ownDest s key) := by
  obtain ⟨o, ho, rfl⟩ := h.here
  exact .core s.focusCore o ho h.aligned

theorem OwnWord.same (h : OwnWord s r a limit src off x t data key) : SameButStreams s r := h.reads.same

theorem run_feIssue_own (h : OwnWord s r a limit src off x t data key) (before : Ctx) (op : FeOp) (rd : Reg) (v : Word) :
    (feIssue before op rd (x + off) t v).run r =
      (feOwn r before rd (x + off) (requestOf r (ownDest s key) op v t) false).run r := by
  have hs := h.same
  have hc := hs.clear h.clear
  have hr : Resolves r (x + off) 8 .fullEmpty (ownDest s key) := .same hs h.resolves
  have hown : (r.isHere (ownDest s key) && r.fctx.lmode != 2 && r.fctx.lmode != 3) = true := by
    obtain ⟨b, hb⟩ := hs.ctx
    have h2 : (s.fctx.lmode != 2) = true := by simpa using h.unrecorded
    have h3 : (s.fctx.lmode != 3) = true := by simpa using h.unreplayed
    simp only [hb, h2, h3, State.isHere, ownDest, h.notDevice, h.home, hs.module, hs.focusCore]
    simp
  have hfree : (r.core (homePlace (ownDest s key).key)).exch = none := by
    rw [ownDest, h.home, ← hs.focusCore]; exact hc.exch
  unfold feIssue
  rw [run_bind_ok (run_dataTarget hr), run_bind_ok (run_fullFence hc), run_bind_ok (run_fenced hc _),
    run_bind_ok (run_get r)]
  simp only [hown, if_true]
  rw [run_bind_ok (run_swapHold _ hfree)]
  rfl

/-- An operation on a word of the own core comes to its request with its operands read. -/
theorem run_feOp_own (h : OwnWord s r a limit src off x t data key) (op : FeOp) (rd : Reg) :
    (feOp op rd a off limit src).run s =
      (feOwn r s.fctx rd (x + off) (requestOf r (ownDest s key) op (data.getD 0) t) false).run r := by
  rw [feOp_eq, run_bind_ok (run_fctx s), ← run_feIssue_own h]
  obtain ⟨u, hx, hrest⟩ : ∃ u, Reads s a x u ∧ ReadsAll u (limit :: src.toList) (t :: data.toList) r := by
    cases h.reads with | cons h0 h1 => exact ⟨_, h0, h1⟩
  obtain ⟨w, ht, hd⟩ : ∃ w, Reads u limit t w ∧ ReadsAll w src.toList data.toList r := by
    cases hrest with | cons h0 h1 => exact ⟨_, h0, h1⟩
  rw [run_bind_ok (readX_reads hx), run_bind_ok (run_readLimit ht), run_bind_ok (run_readData hd)]

/-- At its deadline an operation sets TO and goes on (R193). -/
theorem feOp_late (h : OwnWord s r a limit src off x t data key) (op : FeOp) (rd : Reg) (h0 : t ≠ 0)
    (hl : t.toNat * 1600000 ≤ s.wallUnits) :
    seq4 (feOp op rd a off limit src) s = .next (r.done 4 fun c => { c with tmo := true, dordE := c.dordE + 1 }) := by
  have hlate : (t != 0 && r.reached t) = true := by
    simpa [State.reached, unitsPerNs, h.same.wallUnits] using ⟨h0, hl⟩
  have hrun := run_feOp_own h op rd
  unfold feOwn at hrun
  simp only [requestOf, hlate, if_true, run_modF] at hrun
  rw [seq4_ok hrun, State.done_modF]
  rfl

/-- Where nothing is held at the core, what an operation does there is its action alone (R189, R191). -/
theorem performHere_free {r : State} {q : FeReq} (h : r.waitTab (homePlace q.key) = []) :
    r.performHere q = (.value (feValue q.op (r.word q.key) (r.tag q.key)), (r.feAct q.key q.op q.data).2) := by
  have h' : (r.feAct q.key q.op q.data).2.waitTab (homePlace q.key) = [] := by
    rw [waitTab_congr (feAct_cores ..) (feAct_ports ..), h]
  unfold State.performHere
  simp only [tryHeld_nil h', feAct_value, ite_self]

theorem OwnWord.waitTab (h : OwnWord s r a limit src off x t data key) (hw : s.fcore.waitTab = []) (hf : s.focusCore < 12288) :
    r.waitTab (homePlace key) = [] := by
  obtain ⟨b, hb⟩ := h.same.core
  have hr : (r.core s.focusCore).waitTab = [] := by
    rw [← h.same.focusCore]
    exact (congrArg Core.waitTab hb).trans hw
  simp only [h.home, State.waitTab, hf, if_true, hr]

theorem OwnWord.word (h : OwnWord s r a limit src off x t data key) (n : Nat) : r.word n = s.word n := by
  simp only [State.word, h.same.mem]

theorem OwnWord.byte (h : OwnWord s r a limit src off x t data key) (n : Nat) : r.byte n = s.byte n := by
  simp only [State.byte, h.same.mem]

theorem OwnWord.tag (h : OwnWord s r a limit src off x t data key) (n : Nat) : r.tag n = s.tag n := by
  simp only [State.tag, h.same.tags]

theorem OwnWord.poisoned (h : OwnWord s r a limit src off x t data key) (n : Nat) : r.poisoned n = s.poisoned n := by
  simp only [State.poisoned, h.same.poison]

theorem OwnWord.early (h : OwnWord s r a limit src off x t data key) (ht : t = 0 ∨ s.wallUnits < t.toNat * 1600000) :
    (t != 0 && r.reached t) = false := by
  obtain rfl | ht := ht
  · rfl
  · have : r.reached t = false := by simpa [State.reached, unitsPerNs, h.same.wallUnits] using ht
    simp only [this, Bool.and_false]

/-- An operation whose condition holds acts at once: its word, its tag, the other bytes, and its context (R189, R202). -/
theorem feOp_acts (h : OwnWord s r a limit src off x t data key) (hw : s.fcore.waitTab = []) (hf : s.focusCore < 12288)
    (hp : s.poisoned key = false) (ht : t = 0 ∨ s.wallUnits < t.toNat * 1600000)
    (op : FeOp) (rd : Reg) (hcond : feCond op (s.tag key) = true) :
    ∃ u, seq4 (feOp op rd a off limit src) s = .next u
      ∧ u.word key = feWord op (s.word key) (data.getD 0) ∧ u.tag key = feFull op (s.tag key)
      ∧ (∀ n, n < key ∨ key + 8 ≤ n → u.byte n = s.byte n)
      ∧ ∃ g : Word, u.fctx =
        ({ (if feResult op then r.fctx.result rd (feValue op (s.word key) (s.tag key)) else r.fctx) with
          digest := g, dordE := s.fctx.dordE + 1, tmo := if feTimed op then false else s.fctx.tmo } : Ctx).past 4 := by
  have hrun := run_feOp_own h op rd
  have hcond' : feCond op (r.tag key) = true := by rw [h.tag]; exact hcond
  unfold feOwn at hrun
  rw [performHere_free (h.waitTab hw hf)] at hrun
  simp only [requestOf, ownDest, h.early ht, h.poisoned, hp, hcond', Bool.false_and, Bool.false_eq_true, if_false, if_true] at hrun
  refine ⟨_, seq4_ok hrun, ?_, ?_, ?_, ?_⟩
  · rw [← h.word]; exact word_feAct ..
  · rw [← h.tag]; exact tag_feAct ..
  · intro n hn; rw [← h.byte]; exact byte_feAct_other _ _ _ _ _ hn
  · obtain ⟨g, hg⟩ := feDone_eq r.fctx op rd (x + off) (data.getD 0) (feValue op (s.word key) (s.tag key))
    obtain ⟨b, hb⟩ := h.same.ctx
    refine ⟨g, ?_⟩
    simp only [State.done, State.fctx_modF, feAct_fctx, h.word, h.tag]
    rw [hg, hb]
    rfl

/-- A request with the number under which it is sent. -/
def numbered (q : FeReq) (id : Nat) : FeReq := { q with who := { q.who with id := id } }

/-- A context that has sent a full/empty request to its home and waits for the reply (R189). -/
def asking (before : Ctx) (q : FeReq) (rd : Reg) (va : Word) (exempt : Bool) (c : Ctx) : Ctx :=
  { c with mode := .waiting, req := some (.fe q rd va exempt false before.streams) }

/-- The state in which the focus context has sent its request. -/
def asked (s : State) (before : Ctx) (q : FeReq) (rd : Reg) (va : Word) (exempt : Bool) : State :=
  (s.fresh.2.modF (asking before (numbered q s.fresh.1) rd va exempt)).sendFe s.focusCore (numbered q s.fresh.1)

theorem run_feSend (s : State) (before : Ctx) (q : FeReq) (rd : Reg) (va : Word) (exempt : Bool) :
    (feSend before q rd va exempt).run s = .error (.blockIn (asked s before q rd va exempt)) := rfl

theorem asked_fctx (s : State) (before : Ctx) (q : FeReq) (rd : Reg) (va : Word) (exempt : Bool) :
    (asked s before q rd va exempt).fctx = asking before (numbered q s.fresh.1) rd va exempt s.fctx :=
  State.fctx_modF s.fresh.2 _

theorem asked_flights {s : State} {q : FeReq} (h : q.module = s.module) (before : Ctx) (rd : Reg) (va : Word) (exempt : Bool) :
    (asked s before q rd va exempt).flights =
      s.flights ++ [⟨s.focusCore, homePlace q.key, 0, .fullEmptyRequest (numbered q s.fresh.1), [], false⟩] := by
  simp [asked, State.sendFe, State.ask, State.fresh, numbered, h]

theorem waits_fctx {s : State} (h : s.fctx.mode ≠ .ready) : s.waits.fctx = s.fctx := by
  simp [State.waits, h]

/-- An instruction that keeps what it has changed and waits. -/
theorem seq4_blockIn {m : M Unit} {s t : State} (h : m.run s = .error (.blockIn t)) : seq4 m s = .next t.waits := by
  unfold seq4 runInstr; rw [run_bind_error h]

/-- An operation whose condition fails sends its request to the own core, changes nothing and waits (R189, R192). -/
theorem feOp_waits (h : OwnWord s r a limit src off x t data key) (hp : s.poisoned key = false)
    (ht : t = 0 ∨ s.wallUnits < t.toNat * 1600000) (op : FeOp) (rd : Reg) (hcond : feCond op (s.tag key) = false) :
    ∃ u q, seq4 (feOp op rd a off limit src) s = .next u ∧ u.fctx.mode ≠ .ready ∧ u.fctx.pc = s.fctx.pc ∧ u.mem = s.mem
      ∧ u.tags = s.tags
      ∧ u.flights = r.flights ++ [⟨s.focusCore, s.focusCore, 0, .fullEmptyRequest q, [], false⟩]
      ∧ q.key = key ∧ q.deadline = t := by
  have hrun := run_feOp_own h op rd
  unfold feOwn at hrun
  simp only [requestOf, ownDest, h.early ht, h.poisoned, hp, h.tag, hcond, Bool.false_and, Bool.false_eq_true, if_false,
    run_feSend] at hrun
  have hf {q} : (asked r s.fctx q rd (x + off) false).waits.fctx =
      asking s.fctx (numbered q r.fresh.1) rd (x + off) false r.fctx := by
    rw [waits_fctx (by rw [asked_fctx]; exact nofun), asked_fctx]
  obtain ⟨b, hb⟩ := h.same.ctx
  refine ⟨_, numbered (requestOf r (ownDest s key) op (data.getD 0) t) r.fresh.1, seq4_blockIn hrun, ?_, ?_, h.same.mem,
    h.same.tags, (asked_flights (q := requestOf r (ownDest s key) op (data.getD 0) t) h.same.module.symm ..).trans ?_, rfl, rfl⟩
  · rw [hf]; exact nofun
  · rw [hf, hb]; rfl
  · have hplace : homePlace (requestOf r (ownDest s key) op (data.getD 0) t).key = s.focusCore := h.home
    rw [hplace, h.same.focusCore]

end

/-! ### The statement -/

/-- Settles O9: the operands are read and the word resolves to the own core; then the deadline, the poison and the condition
decide, in this order (R192, R193, R202). -/
theorem localFullEmptyOperationsActOrWait : Obligations.LocalFullEmptyOperationsActOrWait := by
  unfold Obligations.LocalFullEmptyOperationsActOrWait
  refine ⟨?_, ?_⟩
  · intro d a b i o7 s s1 s2 s3 x y z o hc h2 h3 hw hf hx here key hp acts va7 va12
    refine ⟨fun hh hy ht => ⟨fun hfull => ?_, fun hempty hz => ?_⟩, fun hh => ?_⟩
    · have load : OwnWord s s2 a b none (o7.signExtend 64 * 8) x y none key :=
        ⟨hc, h2, h3, .cons hx (.cons hy (.nil _)), ⟨o, hh.1, rfl⟩, hh.2⟩
      have ldf := feOp_acts load hw hf hp ht .ldf d hfull
      rw [hfull] at ldf
      exact ⟨ldf, feOp_acts load hw hf hp ht .ldfe d hfull⟩
    · have store : OwnWord s s3 a b (some d) (o7.signExtend 64 * 8) x y (some z) key :=
        ⟨hc, h2, h3, .cons hx (.cons hy (.cons hz (.nil _))), ⟨o, hh.1, rfl⟩, hh.2⟩
      exact feOp_acts store hw hf hp ht .stf 0 (by rw [hempty]; rfl)
    · have untimed : OwnWord s s1 a 0 none (i.signExtend 64) x 0 none key :=
        ⟨hc, h2, h3, .cons hx (.cons (reads_x0 s1) (.nil _)), ⟨o, hh.1, rfl⟩, hh.2⟩
      refine ⟨feOp_acts untimed hw hf hp (.inl rfl) .probe d rfl, feOp_acts untimed hw hf hp (.inl rfl) .sete 0 rfl,
        fun hz => ?_⟩
      have store : OwnWord s s2 a 0 (some d) (i.signExtend 64) x 0 (some z) key :=
        ⟨hc, h2, h3, .cons hx (.cons (reads_x0 s1) (.cons hz (.nil _))), ⟨o, hh.1, rfl⟩, hh.2⟩
      exact feOp_acts store hw hf hp (.inl rfl) .ste 0 rfl
  · intro d a b o7 s s1 s2 s3 x y z o hc h2 h3 hx hy hz va hh hal key out waits
    have load : OwnWord s s2 a b none (o7.signExtend 64 * 8) x y none key :=
      ⟨hc, h2, h3, .cons hx (.cons hy (.nil _)), ⟨o, hh, rfl⟩, hal⟩
    have store : OwnWord s s3 a b (some d) (o7.signExtend 64 * 8) x y (some z) key :=
      ⟨hc, h2, h3, .cons hx (.cons hy (.cons hz (.nil _))), ⟨o, hh, rfl⟩, hal⟩
    refine ⟨feOp_late load .ldf d, feOp_late load .ldfe d, feOp_late store .stf 0, ?_, ?_, ?_⟩
    · exact fun ht htag hp => feOp_waits load hp ht .ldf d (by rw [htag]; rfl)
    · exact fun ht htag hp => feOp_waits load hp ht .ldfe d (by rw [htag]; rfl)
    · exact fun ht htag hp => feOp_waits store hp ht .stf 0 (by rw [htag]; rfl)

end Sys2Proof.Machine.FullEmpty
end

section
/-! PROOFS. Full/empty requests at the home of their word, their resends, held entries and cancels (R186, R190 to R194, R202). -/

namespace Sys2Proof.Machine.FullEmpty

/-! ### A request at its home, in a launch that neither records nor replays -/

theorem timeoutFe_unlogged {r : FeReq} {s : State} (h : s.recMode r.pid r.launch = 0) (place site : Nat) (e : Event)
    (gone : State → State) : s.timeoutFe place site r e gone = (gone s).replyLoad place r.who .timeout := by
  rw [State.timeoutFe, decide_unlogged h]; rfl

/-- The state after a request has been performed at a key and answered from a place. -/
def served (s : State) (place key : Nat) (r : FeReq) : State :=
  (s.feAct key r.op r.data).2.fly place r.who.core 1 (.loadReply ⟨r.who, .value (feValue r.op (s.word key) (s.tag key))⟩)

theorem served_poisoned {s : State} {key : Nat} {r : FeReq} (h : s.poisoned key = false ∨ r.op = .ste) (place : Nat) :
    (served s place key r).poisoned key = false :=
  poisoned_feAct h r.data

/-- Where nothing is held at the home, performing a request is its action and its reply alone (R191). -/
theorem decideFe_free {r : FeReq} {s : State} {key : Nat} (h : s.recMode r.pid r.launch = 0) (hw : r.who.module = s.module)
    (ht : s.waitTab (homePlace key) = []) (place : Nat) (e : Event) : s.decideFe place key r e = served s place key r := by
  have ht' : (served s place key r).waitTab (homePlace key) = [] :=
    (waitTab_congr (s := s) (feAct_cores ..) (feAct_ports ..) _).trans ht
  have hperform : s.performFe place key r = served s place key r := by
    rw [State.performFe, replyLoad_own (by rw [feAct_module]; exact hw), feAct_value]
    exact (ite_congr rfl (fun _ => tryHeld_nil ht' _ _) fun _ => rfl).trans (ite_self _)
  rw [State.decideFe, wakeAt_unlogged h]
  simp only [logNow_unlogged h, ite_self, hperform]

section
variable {r : FeReq} {s : State} {k : Nat} (h : s.Serves r.key r.pid r.launch (.fullEmptyRequest r) r.who k)
include h

theorem exec_fullEmptyRequest : exec (.fullEmptyRequest r) s = .next (s.feAtHome (homePlace r.key) k r (.fullEmptyRequest r)) := by
  have hon : s.onward r.key r.pid (.fullEmptyRequest r) = .inr k := h.arrives
  show change (fun s => s.fullEmptyRequest r) s = _
  simp [change, State.fullEmptyRequest, hon, h.plain]

/-- A request that comes at or after its deadline is answered with the timeout (R193). -/
theorem request_late (hl : r.deadline ≠ 0 ∧ r.deadline.toNat * 1600000 ≤ s.wallUnits) :
    exec (.fullEmptyRequest r) s = .next (s.fly (homePlace r.key) r.who.core 1 (.loadReply ⟨r.who, .timeout⟩)) := by
  have hreached : r.deadline ≠ 0 ∧ s.reached r.deadline = true := ⟨hl.1, decide_eq_true hl.2⟩
  rw [exec_fullEmptyRequest h, State.feAtHome, if_pos hreached, timeoutFe_unlogged h.plain, id, replyLoad_own h.own]

section
variable (hl : ¬ (r.deadline ≠ 0 ∧ r.deadline.toNat * 1600000 ≤ s.wallUnits))
include hl

theorem feAtHome_early (place : Nat) (e : Event) : s.feAtHome place k r e =
    if s.poisoned k = true ∧ r.op ≠ .ste then s.replyLoad place r.who .poisoned
    else if feCond r.op (s.tag k) then s.decideFe place k r e
    else if s.feRoom (homePlace k) r then s.holdFe (homePlace k) { r with key := k }
    else s.replyLoad place r.who .retry := by
  have hreached : ¬ (r.deadline ≠ 0 ∧ s.reached r.deadline = true) := fun hr => hl ⟨hr.1, of_decide_eq_true hr.2⟩
  rw [State.feAtHome, if_neg hreached, h.plain]
  rfl

/-- On a poisoned word every operation but STE is answered with poison (R186). -/
theorem request_poisoned (hp : s.poisoned k = true) (hop : r.op ≠ .ste) :
    exec (.fullEmptyRequest r) s = .next (s.fly (homePlace r.key) r.who.core 1 (.loadReply ⟨r.who, .poisoned⟩)) := by
  rw [exec_fullEmptyRequest h, feAtHome_early h hl, if_pos ⟨hp, hop⟩, replyLoad_own h.own]

/-- A request whose condition holds is performed in one step (R191, R202). -/
theorem request_performed (hp : s.poisoned k = false ∨ r.op = .ste) (hw : s.waitTab (homePlace k) = [])
    (hc : feCond r.op (s.tag k) = true) : exec (.fullEmptyRequest r) s = .next (served s (homePlace r.key) k r) := by
  have hsound : ¬ (s.poisoned k = true ∧ r.op ≠ .ste) := fun hn => hp.elim (fun h0 => by simp [h0] at hn) hn.2
  rw [exec_fullEmptyRequest h, feAtHome_early h hl, if_neg hsound, if_pos hc, decideFe_free h.plain h.own hw]

/-- A request whose condition fails is held where the home has an entry free (R190). -/
theorem request_held (hp : s.poisoned k = false) (hc : feCond r.op (s.tag k) = false) (hroom : s.feRoom (homePlace k) r = true) :
    exec (.fullEmptyRequest r) s = .next (s.holdFe (homePlace k) { r with key := k }) := by
  rw [exec_fullEmptyRequest h, feAtHome_early h hl, if_neg (by simp [hp]), hc, if_neg Bool.false_ne_true, if_pos hroom]

/-- Where no entry is free it is told to retry (R192). -/
theorem request_retried (hp : s.poisoned k = false) (hc : feCond r.op (s.tag k) = false)
    (hroom : s.feRoom (homePlace k) r = false) :
    exec (.fullEmptyRequest r) s = .next (s.fly (homePlace r.key) r.who.core 1 (.loadReply ⟨r.who, .retry⟩)) := by
  rw [exec_fullEmptyRequest h, feAtHome_early h hl, if_neg (by simp [hp]), hc, if_neg Bool.false_ne_true,
    if_neg (by simp [hroom]), replyLoad_own h.own]

end
end

theorem feCond_unmet {op : FeOp} {full : Bool} (h : (op = .ldf ∨ op = .ldfe) ∧ full = false ∨ op = .stf ∧ full = true) :
    feCond op full = false := by
  obtain ⟨rfl | rfl, rfl⟩ | ⟨rfl, rfl⟩ := h <;> rfl

/-- What the hold of a request changes: the wait table, and a timer where it has a deadline (R190, R193). -/
theorem holdFe_effect {r : FeReq} {s : State} (h : s.recMode r.pid r.launch = 0) (place : Nat) :
    (s.holdFe place r).mem = s.mem ∧ (s.holdFe place r).tags = s.tags ∧ (s.holdFe place r).flights = s.flights
    ∧ (s.holdFe place r).waitTab place = heldIns ⟨r, none, s.wallUnits, s.serial⟩ (s.waitTab place)
    ∧ (r.deadline ≠ 0 → (r.deadline.toNat * 1600000, Event.heldEntryTimeout r) ∈ (s.holdFe place r).timers) := by
  have hm (l) : (s.setWaitTab place l).recMode r.pid r.launch ≠ 3 := by
    have : (s.setWaitTab place l).recMode r.pid r.launch = s.recMode r.pid r.launch := by
      simp only [State.recMode, State.part, setWaitTab_parts]
    rw [this, h]; decide
  unfold State.holdFe
  by_cases hd : r.deadline = 0
  · simp only [hd, true_or, if_true]
    exact ⟨setWaitTab_mem .., setWaitTab_tags .., setWaitTab_flights .., waitTab_setWaitTab .., fun hn => absurd rfl hn⟩
  · simp only [hd, hm, or_self, if_false]
    exact ⟨setWaitTab_mem .., setWaitTab_tags .., setWaitTab_flights .., waitTab_setWaitTab .., fun _ => mem_timerIns ..⟩

/-! ### Resends, held entries and cancels -/

/-- Taking a requester's entries out of a wait table changes the table and the timers alone (R193, R194). -/
theorem foldl_disarm (l : List HeldFe) (s : State) :
    ∃ t, l.foldl (fun s h => s.disarm (.heldEntryTimeout h.req)) s = { s with timers := t } := by
  induction l generalizing s with
  | nil => exact ⟨s.timers, rfl⟩
  | cons h l ih =>
    obtain ⟨t, ht⟩ := ih (s.disarm (.heldEntryTimeout h.req))
    exact ⟨t, ht⟩

theorem unholdFe_effect (s : State) (place : Nat) (w : Who) :
    (s.unholdFe place w).mem = s.mem ∧ (s.unholdFe place w).tags = s.tags ∧ (s.unholdFe place w).module = s.module
    ∧ (s.unholdFe place w).flights = s.flights
    ∧ (s.unholdFe place w).waitTab place = (s.waitTab place).filter fun h => h.req.who != w := by
  obtain ⟨t, ht⟩ := foldl_disarm ((s.waitTab place).filter fun h => h.req.who == w)
    (s.setWaitTab place ((s.waitTab place).filter fun h => h.req.who != w))
  unfold State.unholdFe
  simp only [ht]
  exact ⟨setWaitTab_mem .., setWaitTab_tags .., setWaitTab_module .., setWaitTab_flights .., waitTab_setWaitTab ..⟩

section
variable {r : FeReq} {s : State}

/-- A request told to retry is sent to its home again (R192). -/
theorem exec_resend {g : Reg} {va : Word} {ex : Bool} {b : Vector (Option Stream) 6} (hm : r.module = s.module)
    (h : (s.ctx r.who.core r.who.ctx).req = some (.fe r g va ex false b)) :
    exec (.fullEmptyResend r) s = .next (s.fly r.who.core (homePlace r.key) 0 (.fullEmptyRequest r)) := by
  show execFullEmptyResend r s = _
  simp [execFullEmptyResend, change, h, State.sendFe, State.ask, hm]

/-- One that its context has given up meanwhile is not (R194). -/
theorem exec_resend_gone {g : Reg} {va : Word} {ex : Bool} {b : Vector (Option Stream) 6}
    (h : (s.ctx r.who.core r.who.ctx).req = some (.fe r g va ex true b)) :
    exec (.fullEmptyResend r) s = .next (s.modCtx r.who.core r.who.ctx fun c =>
      { c with req := none, streams := b, mode := .ready }) := by
  show execFullEmptyResend r s = _
  simp [execFullEmptyResend, change, h, State.feReply]

theorem exec_heldEntryTimeout_due {place : Nat} (hh : s.heldPlace r = some place) (h : s.recMode r.pid r.launch = 0)
    (hd : r.deadline.toNat * 1600000 ≤ s.wallUnits) :
    exec (.heldEntryTimeout r) s = .next ((s.unholdFe place r.who).replyLoad place r.who .timeout) := by
  have hr : s.reached r.deadline = true := decide_eq_true hd
  show execHeldEntryTimeout r s = _
  simp [execHeldEntryTimeout, change, hh, hr, timeoutFe_unlogged h]

theorem exec_heldEntryTimeout_early (hd : s.wallUnits < r.deadline.toNat * 1600000) :
    exec (.heldEntryTimeout r) s = .next s := by
  have hr : s.reached r.deadline = false := decide_eq_false (by rw [unitsPerNs]; omega)
  show execHeldEntryTimeout r s = _
  cases hh : s.heldPlace r <;> simp [execHeldEntryTimeout, change, hh, hr]

theorem exec_heldEntryTimeout_gone (hh : s.heldPlace r = none) : exec (.heldEntryTimeout r) s = .next s := by
  show execHeldEntryTimeout r s = _
  simp [execHeldEntryTimeout, change, hh]

theorem exec_fullEmptyCancel_held {place : Nat} (hh : s.heldPlace r = some place) (hm : r.module = s.module) :
    exec (.fullEmptyCancel r) s = .next ((s.unholdFe place r.who).replyLoad (homePlace r.key) r.who .cancelled) := by
  show execFullEmptyCancel r s = _
  simp [execFullEmptyCancel, change, State.leaves, hm, hh]

/-- A held entry removed and answered: its words and tags are as they were (R193, R194). -/
theorem unheld_answered (hw : r.who.module = s.module) (place src : Nat) (a : Answer) :
    let t := (s.unholdFe place r.who).replyLoad src r.who a
    t.mem = s.mem ∧ t.tags = s.tags ∧ t.waitTab place = (s.waitTab place).filter (fun h => h.req.who != r.who)
      ∧ t.flights = s.flights ++ [⟨src, r.who.core, 1, .loadReply ⟨r.who, a⟩, [], false⟩] := by
  obtain ⟨hmem, htags, hmod, hfl, htab⟩ := unholdFe_effect s place r.who
  rw [replyLoad_own (hw.trans hmod.symm)]
  exact ⟨hmem, htags, htab, congrArg (· ++ _) hfl⟩

end

/-! ### The statement -/

/-- Settles O36: at its home a request meets its deadline, the poison, its condition and the room of the wait table, in this
order; a held entry is found wherever it lies and answered from there. -/
theorem fullEmptyRequestsFollowTheirConditions : Obligations.FullEmptyRequestsFollowTheirConditions := by
  unfold Obligations.FullEmptyRequestsFollowTheirConditions
  refine ⟨?_, ?_⟩
  · intro r s k h place home i answers replies late emptied stored
    refine ⟨request_late h, fun hl hp hop => request_poisoned h hl hp hop, fun hl hp hw => ?_, fun hl hp hop hw => ?_,
      fun hl hp hc => ?_⟩
    · have acts (op : FeOp) (hop : r.op = op) (hc : feCond op (s.tag k) = true) :
          answers (.value (feValue op (s.word k) (s.tag k))) (s.feAct k op r.data).2.mem (s.feAct k op r.data).2.tags := by
        subst hop
        exact ⟨_, request_performed h hl (.inl hp) hw hc, rfl, rfl, served_poisoned (.inl hp) _,
          congrArg (· ++ _) (feAct_flights ..)⟩
      have ste := acts .ste
      simp only [State.feAct, clearPoison_sound hp] at ste
      exact ⟨acts .ldf, acts .ldfe, fun hop hf => acts .stf hop (by rw [hf]; rfl), fun hop => ste hop rfl,
        fun hop => acts .sete hop rfl, fun hop => acts .probe hop rfl⟩
    · refine ⟨_, request_performed h hl (.inr hop) hw (by rw [hop]; rfl), ?_, served_poisoned (.inr hop) _⟩
      simp [served, hop, State.feAct, State.write, stored]
    · exact ⟨request_retried h hl hp (feCond_unmet hc), fun hroom =>
        ⟨_, request_held h hl hp (feCond_unmet hc) hroom, holdFe_effect (r := { r with key := k }) h.plain home⟩⟩
  · intro r s hw answers
    refine ⟨fun g va ex b hreq hm => exec_resend hm hreq, fun g va ex b hreq => exec_resend_gone hreq, fun place hh => ?_,
      exec_heldEntryTimeout_gone⟩
    exact ⟨fun hrec hd => ⟨_, exec_heldEntryTimeout_due hh hrec hd, unheld_answered hw ..⟩, exec_heldEntryTimeout_early,
      fun hm => ⟨_, exec_fullEmptyCancel_held hh hm, unheld_answered hw ..⟩⟩

end Sys2Proof.Machine.FullEmpty
end
